-- ==== Sys2Proof/Word.lean ====
section
/-! DEFINITION. The plainest types: characters and bytes as the links carry them. -/

namespace Sys2Proof

/-- One byte of a link, or one 8-bit character code of the host line (R182). -/
abbrev Byte := BitVec 8

/-- Characters of the host line, in the order they travel. -/
abbrev Text := List Byte

end Sys2Proof
end

