-- ==== Sys2Proof/Syntax.lean ====
section
/-! DEFINITION. The commands and events of the JB640: one constructor per row of spec/opcode_table.json.
A row of a host command has no operand of its own: it is the taking of the line at the head of the command
buffer (R169), and its fields travel in that line, which COMMAND_LINE brought. -/

namespace Sys2Proof

/-- The name of a page record: slot and generation (R27). -/
structure MsgId where
  slot : Nat
  gen  : BitVec 16
  deriving DecidableEq, Repr

/-- A receiver link RXL0-RXL5 (R105). -/
abbrev LinkNo := Fin 6

/-- The rows of the opcode table, in the table's order. -/
inductive Instr where
  /-- COLD_START (R181): power-up or the reset line. -/
  | coldStart
  /-- COMMAND_LINE (R168, R182): the characters received since the last terminator, the terminator 0Ah left out. -/
  | commandLine (chars : Text)
  /-- LINE_SENT (R171): the line toward the office computer has been sent. -/
  | lineSent
  /-- BAD_COMMAND (R170): the line at the head of the buffer is taken; its words name no command. -/
  | badCommand
  | subAdd
  | subSet
  | subGet
  | subSuspend
  | subResume
  | subRemove
  | planSet
  | planGet
  | submit
  | cancel
  | pageGet
  | heldList
  | heldRelease
  | airStart
  | airStop
  | zoneSet
  | zoneGet
  | tariffLoad
  | bandSet
  | tariffGet
  | credit
  | adjust
  | billRead
  | billRewind
  | periodClose
  | periodCloseAll
  | noticeLevels
  | status
  | officeSet
  | officeGet
  | restart
  /-- REPLY_REPORT_FRAME (R183): the bytes with which a frame on a receiver link becomes complete. -/
  | replyReportFrame (link : LinkNo) (bytes : List Byte)
  /-- REPORT_TAKE (R108): RMAT takes the head report. -/
  | reportTake
  /-- STROBE (R65): a strobe of the reference input with its mark. -/
  | strobe (good : Bool)
  /-- MISSING_STROBE (R65). -/
  | missingStrobe
  | leadInEnd
  | windowBoundary
  | heldWindowStart
  | stoppingWindowEnd
  | walkRecord
  | buildEnd
  | airingRecord
  | replyWaitExpiry
  /-- HOLD_END (R121) of the held record named. -/
  | holdEnd (msg : MsgId)
  | readWaitEnd
  | sweepVisit
  /-- START_MARKER (R183): one byte taken while hunting on a receiver link. -/
  | startMarker (link : LinkNo) (byte : Byte)
  deriving DecidableEq, Repr

end Sys2Proof
end

