-- ==== Sys2Proof/Decode.lean ====
section
/-! DEFINITION. No row of spec/opcode_table.json gives bits: commands come as lines, frames and events, not as
words, so no word spells a command (log 3). -/

namespace Sys2Proof

/-- The command a word spells by the table's bits: none, since no row has any. -/
def decodeTableWord (_nbits _w : Nat) : Option Instr := none

end Sys2Proof
end

