-- ==== Sys2Proof/Config.lean ====
section
/-! DEFINITION. The capacities the manual fixes (00_scope.md, "Capacities at a Glance"), and the free values it
leaves open. A free value has no body: nothing in Lean can say what it is. -/

namespace Sys2Proof.Config

/-- Subscribers are numbered 0-4095 (R1). -/
abbrev subscribers : Nat := 4096
/-- Record slots are numbered 0-2047 (R27). -/
abbrev slots : Nat := 2048
/-- Chunks of the text pool (R20). -/
abbrev chunks : Nat := 12288
/-- Characters in one chunk (R20). -/
abbrev chunkChars : Nat := 16
/-- Lines the command buffer holds (R169). -/
abbrev bufferLines : Nat := 4
/-- Characters in a line (R168). -/
abbrev lineChars : Nat := 480
/-- Notices the notice queue holds (R175). -/
abbrev notices : Nat := 32
/-- Reports the reply queue holds (R107). -/
abbrev replies : Nat := 64
/-- Records the journal ring holds (R155). -/
abbrev journal : Nat := 1024
/-- Entries of the non-airing reserve (R78, R157). -/
abbrev reserve : Nat := 64
/-- Where 16-bit counters hold (R125, R168, R175). -/
abbrev counterTop : Nat := 65535
/-- Where the two overflow counters hold (R107, R159). -/
abbrev overflowTop : Nat := 255
/-- The top of every balance (R146). -/
abbrev balanceTop : Int := 16777215
/-- Where period charges hold (R146). -/
abbrev chargesTop : Nat := 2147483647

/-- Free value (log 10): which of the free chunks PSTORE takes at its n-th choice (R20). -/
opaque chunkPick : Nat → Nat

/-- Free value (log 11): whether the first of two acceptance sequences exactly half the range apart counts as the
older (R25 orders only those less than half apart). -/
opaque olderAtHalf : BitVec 32 → BitVec 32 → Bool

/-- Free value (log 8): which of several missing required keys a BAD_FIELD answer names (R170), at the n-th
choice. -/
opaque missingKey : Nat → Nat

end Sys2Proof.Config
end

