-- ==== Sys2Proof/Machine/State.lean ====
section
/-! DEFINITION. The state of the JB640, block by block as 00_scope.md divides it, and the state after cold start.
Plain data throughout. What other state determines is not held twice (log 13): the address index, the free record
and chunk counts, the headers of an image, the unread and open journal entries. -/

namespace Sys2Proof.Machine

/-- The machine stops on nothing: the manual gives every step an effect, an answer or a counter, so there is no
fault to raise. -/
inductive Fault where
  deriving DecidableEq, Repr

/-- The one refusal is the fixed one; every row of the table has its meaning, so no meaning raises it (safe: it
would stop a run, never change one). -/
inductive Refusal where
  /-- raised by an arm of `exec` for a row without a meaning; there is none. Safe. -/
  | notModelled (mnemonic : String)
  deriving DecidableEq, Repr

/-! ### Small types -/

/-- A transmitter zone (R90). -/
abbrev Zone := Fin 8
/-- A set of zones: its members in ascending order, none twice. -/
abbrev ZoneSet := List Zone
/-- A page tag (R7). -/
abbrev PageTag := Fin 8
abbrev Window := Fin 32
abbrev Round := Fin 4096
abbrev Priority := Fin 4
abbrev Band := Fin 4
abbrev PlanNo := Fin 8

/-- Values by number, numbers strictly rising; a number not listed has the vacant value. -/
structure Table (α : Type) where
  cells : List (Nat × α)
  deriving DecidableEq, Repr

inductive PagerKind where
  | oneWay | twoWay
  deriving DecidableEq, Repr

inductive Encoding where
  | tone | numeric | alpha
  deriving DecidableEq, Repr

/-- The state of a non-VACANT entry (R1). -/
inductive SubState where
  | active | suspended
  deriving DecidableEq, Repr

inductive Color where
  | a | b
  deriving DecidableEq, Repr

inductive ZoneState where
  | inService | outOfService | test
  deriving DecidableEq, Repr

inductive Layout where
  | locked | degraded
  deriving DecidableEq, Repr

/-! ### Host lines (chapter 10) -/

/-- The 18 notice kinds in the order of R172. -/
inductive NoticeKind where
  | lock | barred | journalHigh | journalLost | pageMissed | pageExpired | lowBalance | congestion | periodDone
  | tariffActive | pageRead | usageHigh | unbarred | replyOverflow | oversize | pageDelivered | pageSent | pageDone
  deriving DecidableEq, Repr

/-- The refusal codes of R170. -/
inductive Code where
  | badCommand | badField | badSubscriber | noSubscriber | exists_ | duplicateAddress | hasPages | floorAboveBalance
  | suspended | barred | badText | subLimit | congested | storeFull | textFull | noCredit | unknownMessage | tooLate
  | delivered | airRunning | airStopped | journalFull | notRetained | noRoom | sweepActive | busyLine
  deriving DecidableEq, Repr

/-- RESULT of a final line (R170). -/
inductive Result where
  | ok | okPending
  | refused (code : Code)
  deriving DecidableEq, Repr

/-- Where a placed page stands (R28, R82): the zones of its set with the first position in each. -/
structure Placement where
  round  : Round
  window : Window
  layout : Layout
  firsts : List (Zone × Nat)
  deriving DecidableEq, Repr

inductive OrderKind where
  | scheduled | test
  deriving DecidableEq, Repr

/-- What a keying record keeps of an order (R95). -/
structure OrderInfo where
  round  : Round
  window : Window
  kind   : OrderKind
  keyOn  : Int
  keyOff : Nat
  deriving DecidableEq, Repr

/-- The value of a field of a sent line, in the forms of 11.1. -/
inductive Value where
  | num (n : Nat)
  | int (i : Int)
  | word (t : Text)
  | none_
  | yesNo (b : Bool)
  /-- numbers separated by commas, NONE when there is none -/
  | nums (l : List Nat)
  /-- words separated by commas, NONE when there is none -/
  | words (l : List Text)
  | msg (m : MsgId)
  | acquiring (k : Nat)
  | place (round : Round) (window : Window) (firsts : List (Zone × Nat))
  | order (o : OrderInfo)
  deriving DecidableEq, Repr

abbrev Field := Text × Value

/-- A line toward the office computer: the final line of an answer, a data line of one, or a notice. -/
inductive OutLine where
  | final (tag : Nat) (result : Result) (fields : List Field)
  | data (tag : Nat) (fields : List Field)
  | notice (kind : NoticeKind) (fields : List Field)
  deriving DecidableEq, Repr

/-- A command line that has passed R168: its tag and the characters between the tag and the check field. -/
structure CmdLine where
  tag  : Nat
  rest : Text
  deriving DecidableEq, Repr

/-- A queued notice (R175); `stamp` is its place in the order of placing. -/
structure Notice where
  kind   : NoticeKind
  fields : List Field
  stamp  : Nat
  deriving DecidableEq, Repr

inductive StartKind where
  | cold | warm
  deriving DecidableEq, Repr

/-- Host Line Controller. -/
structure Hlc where
  start     : StartKind
  buffer    : List CmdLine
  badLine   : Nat
  flags     : Vector Bool 18
  levels    : Vector (Fin 4) 18
  notices   : List Notice
  nextStamp : Nat
  dropped   : Nat
  /-- the line being sent -/
  sending   : Option OutLine
  /-- the lines left of the answer under way -/
  underWay  : List OutLine
  /-- answers not yet begun, in the order their commands were taken -/
  answers   : List (List OutLine)
  /-- tags of the BUSY_LINE answers waiting -/
  busy      : List Nat
  /-- the model's own (log 5): every line begun since cold start, oldest first -/
  sent      : List OutLine
  deriving DecidableEq, Repr

/-! ### Subscribers and plans (chapter 1) -/

/-- The fields of a plan (R9). -/
structure Plan where
  maxChars    : Nat
  maxPri      : Priority
  maxPages    : Nat
  attempts    : Nat
  repeats     : Nat
  backoff     : Vector Nat 6
  retryPct    : Nat
  refundPct   : Nat
  readWait    : Nat
  hold        : Nat
  autoRecover : Bool
  included    : Nat
  receiptFee  : Nat
  deriving DecidableEq, Repr

/-- A last-heard zone with its age in rounds (R6). -/
structure Heard where
  zone : Zone
  age  : Nat
  deriving DecidableEq, Repr

inductive CreditState where
  | clear | barred
  deriving DecidableEq, Repr

/-- The money fields of an entry, kept by ACCT (R146). -/
structure Money where
  balance       : Int
  floor         : Int
  reserved      : Nat
  credit        : CreditState
  low           : Int
  lowArmed      : Bool
  usage         : Nat
  usageArmed    : Bool
  periodPages   : Nat
  periodCharges : Nat
  deriving DecidableEq, Repr

/-- A non-VACANT subscriber entry (1.1). -/
structure Entry where
  state : SubState
  addr  : BitVec 22
  kind  : PagerKind
  home  : Window
  zones : ZoneSet
  plan  : PlanNo
  heard : Option Heard
  /-- the tags held (R7) -/
  tags  : List PageTag
  live  : Nat
  /-- the held list, oldest acceptance first (R8) -/
  held  : List MsgId
  money : Money
  deriving DecidableEq, Repr

/-! ### The page store (chapter 2) -/

/-- One chunk in use: its index in the pool and the characters in it (R20). -/
structure Chunk where
  index : Nat
  chars : Text
  deriving DecidableEq, Repr

inductive RecState where
  | queued | retryWait | placed | awaiting | delivered | held
  deriving DecidableEq, Repr

inductive Series where
  | first | recovery
  deriving DecidableEq, Repr

/-- The plan terms copied at acceptance (R10). -/
structure Terms where
  backoff   : Vector Nat 6
  retryPct  : Nat
  refundPct : Nat
  readWait  : Nat
  hold      : Nat
  deriving DecidableEq, Repr

/-- A countdown with what is left of it. `due`: the event that lowers it to 0 has come and the step that ends it
has not yet been taken (log 14). -/
structure Countdown where
  left : Nat
  due  : Bool
  deriving DecidableEq, Repr

/-- A page record (R28). -/
structure PageRec where
  id          : MsgId
  sub         : Nat
  state       : RecState
  enc         : Encoding
  pri         : Priority
  len         : Nat
  truncated   : Bool
  blocks      : Nat
  chunks      : Option (List Chunk)
  /-- the text kept at acceptance, which is the text on air until the record is freed (R25, R47): the chunks that hold
  it go back to the pool at the delivery (R20, R111), the text of the page does not change (log 12) -/
  kept        : Text
  origin      : Nat
  seq         : BitVec 32
  series      : Series
  limit       : Nat
  count       : Nat
  terms       : Terms
  tag         : Option PageTag
  reservation : Option Nat
  firstCharge : Option Nat
  posted      : Nat
  refunded    : Bool
  cancelled   : Bool
  late        : Bool
  skip        : Nat
  deferral    : Nat
  replyWait   : Option Countdown
  readWait    : Option Countdown
  holdWait    : Option Countdown
  lastZones   : Option ZoneSet
  placement   : Option Placement
  /-- marked at its delivery to be freed once its image has aired (R111) -/
  freeAfterAiring : Bool
  deriving DecidableEq, Repr

/-- Page Store. -/
structure Store where
  /-- the slots that hold a record -/
  records   : Table PageRec
  /-- the slots whose generation is not 0 (R27) -/
  gens      : Table (BitVec 16)
  nextSeq   : BitVec 32
  congested : Bool
  deriving DecidableEq, Repr

/-! ### The air (chapters 4 to 6) -/

inductive AirState where
  | stopped | starting | running | stopping
  deriving DecidableEq, Repr

inductive Detector where
  | unlocked
  | acquiring (count : Nat)
  | locked
  deriving DecidableEq, Repr

/-- What ACLK holds back until work has ended. -/
inductive HeldWork where
  | none_
  /-- a window-start event, for an unfinished build or airing (R60, R61, R84) -/
  | windowStart
  /-- the end of the last window in STOPPING, for an unfinished airing (log 18) -/
  | windowEnd
  /-- the stop of R62 with no further advance, for an unfinished airing -/
  | stop
  deriving DecidableEq, Repr

/-- Air Clock. -/
structure Aclk where
  air      : AirState
  round    : Round
  window   : Window
  holding  : HeldWork
  detector : Detector
  /-- strobes taken in the current group (R65) -/
  strobes  : Nat
  badMark  : Bool
  deriving DecidableEq, Repr

/-- The five settings of a zone (R90). -/
structure ZoneSettings where
  state : ZoneState
  color : Color
  lead  : Nat
  tail  : Nat
  gap   : Nat
  deriving DecidableEq, Repr

/-- An entry of a placement list (R71). -/
structure PagePlace where
  first  : Nat
  id     : MsgId
  blocks : Nat
  deriving DecidableEq, Repr

/-- The image of a window (R71). The view holds the whole settings of every zone as the build found them: state
and color are the zone view, LEAD, TAIL and GAP the values R92 records with the image. -/
structure Image where
  round  : Round
  window : Window
  layout : Layout
  view   : Vector ZoneSettings 8
  pages  : Vector (List PagePlace) 8
  /-- the records placed, in the order they were placed (R84) -/
  order  : List MsgId
  deriving DecidableEq, Repr

/-- A place in a window queue (R69). -/
structure QueuePlace where
  pri : Priority
  seq : BitVec 32
  deriving DecidableEq, Repr

/-- The image under build and its walk (R73, R78). -/
structure Build where
  image   : Image
  /-- the place of the last record reached -/
  reached : Option QueuePlace
  closed  : Bool
  /-- the walk has ended and the orders have been made -/
  ended   : Bool
  deriving DecidableEq, Repr

/-- The image on air and its records not yet aired (R84). -/
structure OnAir where
  image : Image
  toAir : List MsgId
  deriving DecidableEq, Repr

/-- Window Scheduler. -/
structure Wsch where
  queues    : Vector (List MsgId) 32
  build     : Option Build
  onAir     : Option OnAir
  oversize  : List MsgId
  deferrals : Nat
  deriving DecidableEq, Repr

abbrev Block := BitVec 48

/-- A frame on a transmitter link (11.4). `slots` are the 64 blocks of positions 0 to 63. -/
inductive TxFrame where
  | order (zone : Zone) (info : OrderInfo) (layout : Layout) (bridge : Bool) (slots : List Block)
  | withdraw (zone : Zone) (round : Round) (window : Window)
  deriving DecidableEq, Repr

/-- One zone of TXI: settings, keying record, counts (R90, R95, R104). -/
structure ZoneCell where
  settings  : ZoneSettings
  next      : Option OrderInfo
  current   : Option OrderInfo
  orders    : Nat
  tests     : Nat
  bridges   : Nat
  withdraws : Nat
  /-- the model's own (log 5): every frame sent on the link since cold start, oldest first -/
  sent      : List TxFrame
  deriving DecidableEq, Repr

/-! ### Replies (chapter 7) -/

inductive ReportKind where
  | heard | read | fetch | register
  deriving DecidableEq, Repr

/-- A reply report (R105). -/
structure Report where
  site    : Fin 16
  zone    : Zone
  kind    : ReportKind
  addr    : BitVec 22
  tag     : PageTag
  burst   : Nat
  quality : Fin 16
  round   : Round
  window  : Window
  deriving DecidableEq, Repr

/-- A receiver link's byte stream (R183). -/
inductive RxLink where
  | hunting
  /-- a marker was found; the bytes taken after it, fewer than 13 -/
  | taking (got : List Byte)
  deriving DecidableEq, Repr

/-- Receiver Link Interface. -/
structure Rxi where
  links    : Vector RxLink 6
  replies  : List Report
  noise    : Nat
  overflow : Nat
  deriving DecidableEq, Repr

/-- Reply Matcher. -/
structure Rmat where
  awaiting   : List MsgId
  unknown    : Nat
  unexpected : Nat
  stale      : Nat
  duplicate  : Nat
  deriving DecidableEq, Repr

/-! ### Money (chapters 8 and 9) -/

/-- A tariff table (R127). -/
structure Tariff where
  toneFee   : Nat
  numFee    : Nat
  alphaFee  : Nat
  blockRate : Nat
  zoneInc   : Nat
  priF      : Vector Nat 4
  bandF     : Vector Nat 4
  cap       : Nat
  deriving DecidableEq, Repr

/-- The activation choice of a pending table (R130). -/
inductive Activation where
  | next
  | atRound (r : Round)
  deriving DecidableEq, Repr

/-- Rating Unit. -/
structure Rate where
  active   : Tariff
  version  : BitVec 8
  pending  : Option (Tariff × Activation)
  band     : Band
  nextBand : Option Band
  deriving DecidableEq, Repr

inductive AttemptClass where
  | first | retry | repeat_ | recovery
  deriving DecidableEq, Repr

inductive JournalKind where
  | air | refund | receipt | credit | adjust | period | close
  deriving DecidableEq, Repr

/-- The fields only an AIR record carries (R156). -/
structure AirFields where
  cls     : AttemptClass
  zones   : Nat
  blocks  : Nat
  version : BitVec 8
  origin  : Nat
  deriving DecidableEq, Repr

/-- A journal record (R156); amount is charge-signed. -/
structure JournalRec where
  seq     : BitVec 32
  kind    : JournalKind
  sub     : Nat
  round   : Round
  window  : Window
  amount  : Int
  short   : Nat
  balance : Int
  waived  : Bool
  late    : Bool
  clamped : Bool
  msg     : Option MsgId
  air     : Option AirFields
  ref     : Option Nat
  /-- period pages and period charges -/
  period  : Option (Nat × Nat)
  deriving DecidableEq, Repr

/-- A running period sweep (R165, R166). -/
structure Sweep where
  cursor : Nat
  closed : Nat
  paused : Bool
  deriving DecidableEq, Repr

/-- Account Unit, the money fields of the entries apart. -/
structure Acct where
  /-- the records of the ring, oldest first -/
  ring        : List JournalRec
  cursor      : BitVec 32
  nextSeq     : BitVec 32
  overflow    : Nat
  highLatch   : Bool
  airReserved : Nat
  lost        : Nat
  sweep       : Option Sweep
  deriving DecidableEq, Repr

/-! ### Office settings (R178) -/

inductive JournalMode where
  | hold | overwrite
  deriving DecidableEq, Repr

inductive HighType where
  | once | each
  deriving DecidableEq, Repr

inductive ReplyPolicy where
  | discardNew | overwriteOldest
  deriving DecidableEq, Repr

inductive LockEdge where
  | none_ | gained | lost | both
  deriving DecidableEq, Repr

structure Office where
  airRate      : Fin 4
  replyWait    : Nat
  minBurst     : Nat
  minQuality   : Nat
  zoneMemory   : Nat
  unbarMargin  : Nat
  congestion   : Nat
  journalMode  : JournalMode
  journalHigh  : Nat
  highType     : HighType
  clearOnRead  : Bool
  replyPolicy  : ReplyPolicy
  lockEdge     : LockEdge
  deriving DecidableEq, Repr

/-! ### The whole -/

structure State where
  hlc    : Hlc
  /-- the non-VACANT entries by subscriber number -/
  subs   : Table Entry
  plans  : Vector Plan 8
  store  : Store
  aclk   : Aclk
  wsch   : Wsch
  txi    : Vector ZoneCell 8
  rxi    : Rxi
  rmat   : Rmat
  rate   : Rate
  acct   : Acct
  office : Office
  /-- the model's own: the counter that free values are drawn at (log 29) -/
  fresh  : Nat
  /-- the commands that are waiting, first in first out -/
  pending : List Instr
  deriving DecidableEq, Repr

/-! ### Cold start (R181) -/

/-- Cold-start notice levels in the order of R172. -/
def coldLevels : Vector (Fin 4) 18 := #v[3, 3, 3, 3, 2, 2, 2, 2, 2, 2, 1, 1, 1, 1, 1, 0, 0, 0]

def Hlc.cold : Hlc where
  start := .cold
  buffer := []
  badLine := 0
  flags := Vector.replicate 18 false
  levels := coldLevels
  notices := []
  nextStamp := 0
  dropped := 0
  sending := none
  underWay := []
  answers := []
  busy := []
  sent := []

/-- R9, last column. -/
def Plan.cold : Plan where
  maxChars := 200
  maxPri := 1
  maxPages := 8
  attempts := 3
  repeats := 1
  backoff := #v[1, 1, 2, 2, 4, 4]
  retryPct := 50
  refundPct := 0
  readWait := 0
  hold := 96
  autoRecover := false
  included := 0
  receiptFee := 0

def Store.cold : Store where
  records := ⟨[]⟩
  gens := ⟨[]⟩
  nextSeq := 0
  congested := false

def Aclk.cold : Aclk where
  air := .stopped
  round := 0
  window := 0
  holding := .none_
  detector := .unlocked
  strobes := 0
  badMark := false

def Wsch.cold : Wsch where
  queues := Vector.replicate 32 []
  build := none
  onAir := none
  oversize := []
  deferrals := 0

/-- R90, last column, with an empty keying record and zero counts. -/
def ZoneCell.cold : ZoneCell where
  settings := { state := .outOfService, color := .a, lead := 2, tail := 1, gap := 4 }
  next := none
  current := none
  orders := 0
  tests := 0
  bridges := 0
  withdraws := 0
  sent := []

def Rxi.cold : Rxi where
  links := Vector.replicate 6 .hunting
  replies := []
  noise := 0
  overflow := 0

def Rmat.cold : Rmat where
  awaiting := []
  unknown := 0
  unexpected := 0
  stale := 0
  duplicate := 0

/-- R127, last column. -/
def Tariff.cold : Tariff where
  toneFee := 0
  numFee := 0
  alphaFee := 0
  blockRate := 0
  zoneInc := 0
  priF := #v[100, 100, 100, 100]
  bandF := #v[100, 100, 100, 100]
  cap := 1000000

def Rate.cold : Rate where
  active := Tariff.cold
  version := 0
  pending := none
  band := 0
  nextBand := none

def Acct.cold : Acct where
  ring := []
  cursor := 1
  nextSeq := 1
  overflow := 0
  highLatch := false
  airReserved := 0
  lost := 0
  sweep := none

/-- R178, last column. -/
def Office.cold : Office where
  airRate := 1
  replyWait := 4
  minBurst := 8
  minQuality := 3
  zoneMemory := 16
  unbarMargin := 0
  congestion := 128
  journalMode := .hold
  journalHigh := 768
  highType := .once
  clearOnRead := false
  replyPolicy := .discardNew
  lockEdge := .both

/-- The controller after a cold start (R181). -/
def State.reset : State where
  hlc := Hlc.cold
  subs := ⟨[]⟩
  plans := Vector.replicate 8 Plan.cold
  store := Store.cold
  aclk := Aclk.cold
  wsch := Wsch.cold
  txi := Vector.replicate 8 ZoneCell.cold
  rxi := Rxi.cold
  rmat := Rmat.cold
  rate := Rate.cold
  acct := Acct.cold
  office := Office.cold
  fresh := 0
  pending := []

end Sys2Proof.Machine
end

