-- ==== Sys2Proof/Machine/Check.lean ====
section
/-! DEFINITION. The checks of chapter 11: the 16-bit check of lines and frames (R182, R183) and the 12-bit check
of air blocks (R184). -/

namespace Sys2Proof.Machine

/-- The bits of a value, most significant first. -/
def bitsOf {w : Nat} (v : BitVec w) : List Bool := (List.range w).map (fun i => v.getMsbD i)

/-- One bit into the 16-bit register (R182): combined with the top bit, shift left, combine with 1021h. -/
def crc16Bit (reg : BitVec 16) (b : Bool) : BitVec 16 :=
  let out := xor b reg.msb
  let shifted := reg <<< 1
  if out then shifted ^^^ 0x1021#16 else shifted

/-- `k v`, with the value worked out first, so that a long evaluation does not nest. -/
def forced {α : Type} {w : Nat} (v : BitVec w) (k : BitVec w → α) : α :=
  match v.toNat with
  | 0 => k (BitVec.ofNat w 0)
  | n + 1 => k (BitVec.ofNat w (n + 1))

/-- The register after a run of bytes. -/
def crc16From (reg : BitVec 16) : List Byte → BitVec 16
  | [] => reg
  | byte :: rest => forced ((bitsOf byte).foldl crc16Bit reg) (fun r => crc16From r rest)

/-- The 16-bit check of a run of bytes, register starting at FFFFh (R182). -/
def crc16 (bytes : List Byte) : BitVec 16 := crc16From 0xFFFF#16 bytes

/-- One payload bit into the 12-bit register (R184). -/
def crc12Bit (reg : BitVec 12) (b : Bool) : BitVec 12 :=
  let out := xor b reg.msb
  let shifted := reg <<< 1
  if out then shifted ^^^ 0x80F#12 else shifted

/-- The register after a run of payload bits. -/
def crc12From (reg : BitVec 12) : List Bool → BitVec 12
  | [] => reg
  | b :: rest => forced (crc12Bit reg b) (fun r => crc12From r rest)

/-- The computed check of a block's payload, register starting at 0 (R42, R184). -/
def crc12 (payload : BitVec 36) : BitVec 12 := crc12From 0#12 (bitsOf payload)

def hexDigit (n : Nat) : Byte := BitVec.ofNat 8 (if n < 10 then 0x30 + n else 0x37 + n)

/-- A check as four capital hexadecimal digits (R182). -/
def showHex4 (v : BitVec 16) : Text :=
  [hexDigit (v.toNat / 4096 % 16), hexDigit (v.toNat / 256 % 16), hexDigit (v.toNat / 16 % 16), hexDigit (v.toNat % 16)]

/-- One hexadecimal digit in capitals or small letters (R182). -/
def readHex (b : Byte) : Option Nat :=
  let n := b.toNat
  if 0x30 ≤ n ∧ n ≤ 0x39 then some (n - 0x30)
  else if 0x41 ≤ n ∧ n ≤ 0x46 then some (n - 0x37)
  else if 0x61 ≤ n ∧ n ≤ 0x66 then some (n - 0x57)
  else none

/-- The value of four hexadecimal digits. -/
def readHex4 (t : Text) : Option (BitVec 16) :=
  match t with
  | [a, b, c, d] =>
    match readHex a, readHex b, readHex c, readHex d with
    | some a, some b, some c, some d => some (BitVec.ofNat 16 (4096 * a + 256 * b + 16 * c + d))
    | _, _, _, _ => none
  | _ => none

end Sys2Proof.Machine
end

