-- ==== Sys2Proof/Machine/Table.lean ====
section
/-! DEFINITION. Reading and changing a `Table`, the one form in which numbered things that are mostly vacant are
held (subscriber entries, page records, generations). -/

namespace Sys2Proof.Machine

/-- The value listed under a number. -/
def Table.get? {α : Type} (t : Table α) (k : Nat) : Option α :=
  (t.cells.find? (fun c => c.1 == k)).map Prod.snd

/-- Put a value under a number into a list of rising numbers, replacing what stands there. -/
def insertCell {α : Type} (k : Nat) (v : α) : List (Nat × α) → List (Nat × α)
  | [] => [(k, v)]
  | c :: cs =>
    if k < c.1 then (k, v) :: c :: cs
    else if k = c.1 then (k, v) :: cs
    else c :: insertCell k v cs

def Table.set {α : Type} (t : Table α) (k : Nat) (v : α) : Table α := ⟨insertCell k v t.cells⟩

/-- Make a number vacant. -/
def Table.erase {α : Type} (t : Table α) (k : Nat) : Table α := ⟨t.cells.filter (fun c => c.1 != k)⟩

def Table.values {α : Type} (t : Table α) : List α := t.cells.map Prod.snd

def Table.count {α : Type} (t : Table α) : Nat := t.cells.length

/-- Change every listed value. -/
def Table.mapValues {α : Type} (t : Table α) (f : α → α) : Table α := ⟨t.cells.map (fun c => (c.1, f c.2))⟩

/-- The lowest number from `k` on that a list of rising numbers does not hold. -/
def lowestVacant {α : Type} (k : Nat) : List (Nat × α) → Nat
  | [] => k
  | c :: cs => if c.1 = k then lowestVacant (k + 1) cs else k

/-- The lowest vacant number (R25). -/
def Table.lowest {α : Type} (t : Table α) : Nat := lowestVacant 0 t.cells

/-- The canonical form: numbers strictly rising. -/
def Table.wf {α : Type} (t : Table α) : Bool := decide ((t.cells.map Prod.fst).Pairwise (· < ·))

end Sys2Proof.Machine
end

