-- ==== Sys2Proof/Machine/Text.lean ====
section
/-! DEFINITION. Characters of the host line: the words of the manual as character codes, numbers, and the words
that stand for the values of each setting (11.1). One table of names serves the lines received and the lines
sent. -/

namespace Sys2Proof.Machine

/-- The codes of a word's characters. -/
def str (s : String) : Text := s.toList.map (fun c => BitVec.ofNat 8 c.toNat)

def spaceChar : Byte := 0x20#8
def equalsChar : Byte := 0x3D#8
def commaChar : Byte := 0x2C#8
def periodChar : Byte := 0x2E#8
def colonChar : Byte := 0x3A#8
def slashChar : Byte := 0x2F#8
def minusChar : Byte := 0x2D#8
def starChar : Byte := 0x2A#8
def hashChar : Byte := 0x23#8
def bangChar : Byte := 0x21#8

/-! ### Numbers (11.1) -/

def isDigit (b : Byte) : Bool := 0x30#8 ≤ b && b ≤ 0x39#8

def digitValue (b : Byte) : Nat := b.toNat - 0x30

/-- A number: decimal digits with no leading zeros beyond a single 0 (R170, 11.1). -/
def readNat (t : Text) : Option Nat :=
  match t with
  | [] => none
  | b :: rest =>
    if t.all isDigit && (b != 0x30#8 || rest.isEmpty) then
      some (t.foldl (fun n d => 10 * n + digitValue d) 0)
    else none

/-- A signed amount: a minus sign before a negative value, no sign before a positive one (R170, 11.1). -/
def readInt (t : Text) : Option Int :=
  match t with
  | [] => none
  | b :: rest =>
    if b = minusChar then
      match readNat rest with
      | some 0 => none
      | some n => some (-(n : Int))
      | none => none
    else (readNat t).map Int.ofNat

/-- The decimal digits of a number, by at most `fuel` divisions. -/
def decimalDigits : Nat → Nat → Text → Text
  | 0, _, acc => acc
  | fuel + 1, n, acc =>
    let acc' := BitVec.ofNat 8 (0x30 + n % 10) :: acc
    if n < 10 then acc' else decimalDigits fuel (n / 10) acc'

/-- A number as sent: no quantity of the manual has more than 20 digits. -/
def showNat (n : Nat) : Text := decimalDigits 20 n []

def showInt (i : Int) : Text :=
  if i < 0 then minusChar :: showNat i.natAbs else showNat i.natAbs

/-- Pieces between separators. -/
def splitOn (sep : Byte) (t : Text) : List Text := List.splitOn sep t

/-- Items separated by commas. -/
def joinCommas (l : List Text) : Text := [commaChar].intercalate l

/-! ### Words of the manual -/

def NoticeKind.all : List NoticeKind :=
  [.lock, .barred, .journalHigh, .journalLost, .pageMissed, .pageExpired, .lowBalance, .congestion, .periodDone,
   .tariffActive, .pageRead, .usageHigh, .unbarred, .replyOverflow, .oversize, .pageDelivered, .pageSent, .pageDone]

/-- The place of a kind in the table of R172. -/
def NoticeKind.index : NoticeKind → Fin 18
  | .lock => 0 | .barred => 1 | .journalHigh => 2 | .journalLost => 3 | .pageMissed => 4 | .pageExpired => 5
  | .lowBalance => 6 | .congestion => 7 | .periodDone => 8 | .tariffActive => 9 | .pageRead => 10
  | .usageHigh => 11 | .unbarred => 12 | .replyOverflow => 13 | .oversize => 14 | .pageDelivered => 15
  | .pageSent => 16 | .pageDone => 17

def NoticeKind.name : NoticeKind → Text
  | .lock => str "LOCK" | .barred => str "BARRED" | .journalHigh => str "JOURNAL_HIGH"
  | .journalLost => str "JOURNAL_LOST" | .pageMissed => str "PAGE_MISSED" | .pageExpired => str "PAGE_EXPIRED"
  | .lowBalance => str "LOW_BALANCE" | .congestion => str "CONGESTION" | .periodDone => str "PERIOD_DONE"
  | .tariffActive => str "TARIFF_ACTIVE" | .pageRead => str "PAGE_READ" | .usageHigh => str "USAGE_HIGH"
  | .unbarred => str "UNBARRED" | .replyOverflow => str "REPLY_OVERFLOW" | .oversize => str "OVERSIZE"
  | .pageDelivered => str "PAGE_DELIVERED" | .pageSent => str "PAGE_SENT" | .pageDone => str "PAGE_DONE"

def NoticeKind.ofName (t : Text) : Option NoticeKind := NoticeKind.all.find? (fun k => k.name == t)

def Code.name : Code → Text
  | .badCommand => str "BAD_COMMAND" | .badField => str "BAD_FIELD" | .badSubscriber => str "BAD_SUBSCRIBER"
  | .noSubscriber => str "NO_SUBSCRIBER" | .exists_ => str "EXISTS" | .duplicateAddress => str "DUPLICATE_ADDRESS"
  | .hasPages => str "HAS_PAGES" | .floorAboveBalance => str "FLOOR_ABOVE_BALANCE" | .suspended => str "SUSPENDED"
  | .barred => str "BARRED" | .badText => str "BAD_TEXT" | .subLimit => str "SUB_LIMIT"
  | .congested => str "CONGESTED" | .storeFull => str "STORE_FULL" | .textFull => str "TEXT_FULL"
  | .noCredit => str "NO_CREDIT" | .unknownMessage => str "UNKNOWN_MESSAGE" | .tooLate => str "TOO_LATE"
  | .delivered => str "DELIVERED" | .airRunning => str "AIR_RUNNING" | .airStopped => str "AIR_STOPPED"
  | .journalFull => str "JOURNAL_FULL" | .notRetained => str "NOT_RETAINED" | .noRoom => str "NO_ROOM"
  | .sweepActive => str "SWEEP_ACTIVE" | .busyLine => str "BUSY_LINE"

def Result.name : Result → Text
  | .ok => str "OK" | .okPending => str "OK_PENDING" | .refused c => c.name

/-- A choice of words for the values of a setting: the value a word names. -/
def wordValue {α : Type} (choices : List (Text × α)) (t : Text) : Option α :=
  (choices.find? (fun c => c.1 == t)).map Prod.snd

def yesNoWords : List (Text × Bool) := [(str "YES", true), (str "NO", false)]
def pagerKindWords : List (Text × PagerKind) := [(str "ONE_WAY", .oneWay), (str "TWO_WAY", .twoWay)]
def encodingWords : List (Text × Encoding) := [(str "TONE", .tone), (str "NUMERIC", .numeric), (str "ALPHA", .alpha)]
def zoneStateWords : List (Text × ZoneState) :=
  [(str "IN_SERVICE", .inService), (str "OUT_OF_SERVICE", .outOfService), (str "TEST", .test)]
def colorWords : List (Text × Color) := [(str "A", .a), (str "B", .b)]
def journalModeWords : List (Text × JournalMode) := [(str "HOLD", .hold), (str "OVERWRITE", .overwrite)]
def highTypeWords : List (Text × HighType) := [(str "ONCE", .once), (str "EACH", .each)]
def replyPolicyWords : List (Text × ReplyPolicy) :=
  [(str "DISCARD_NEW", .discardNew), (str "OVERWRITE_OLDEST", .overwriteOldest)]
def lockEdgeWords : List (Text × LockEdge) :=
  [(str "NONE", .none_), (str "GAINED", .gained), (str "LOST", .lost), (str "BOTH", .both)]

def PagerKind.name : PagerKind → Text | .oneWay => str "ONE_WAY" | .twoWay => str "TWO_WAY"
def Encoding.name : Encoding → Text | .tone => str "TONE" | .numeric => str "NUMERIC" | .alpha => str "ALPHA"
def SubState.name : SubState → Text | .active => str "ACTIVE" | .suspended => str "SUSPENDED"
def CreditState.name : CreditState → Text | .clear => str "CLEAR" | .barred => str "BARRED"
def Color.name : Color → Text | .a => str "A" | .b => str "B"
def ZoneState.name : ZoneState → Text
  | .inService => str "IN_SERVICE" | .outOfService => str "OUT_OF_SERVICE" | .test => str "TEST"
def RecState.name : RecState → Text
  | .queued => str "QUEUED" | .retryWait => str "RETRY_WAIT" | .placed => str "PLACED" | .awaiting => str "AWAITING"
  | .delivered => str "DELIVERED" | .held => str "HELD"
def Series.name : Series → Text | .first => str "FIRST" | .recovery => str "RECOVERY"
def AirState.name : AirState → Text
  | .stopped => str "STOPPED" | .starting => str "STARTING" | .running => str "RUNNING" | .stopping => str "STOPPING"
def OrderKind.name : OrderKind → Text | .scheduled => str "SCHEDULED" | .test => str "TEST"
def StartKind.name : StartKind → Text | .cold => str "COLD" | .warm => str "WARM"
def JournalMode.name : JournalMode → Text | .hold => str "HOLD" | .overwrite => str "OVERWRITE"
def HighType.name : HighType → Text | .once => str "ONCE" | .each => str "EACH"
def ReplyPolicy.name : ReplyPolicy → Text
  | .discardNew => str "DISCARD_NEW" | .overwriteOldest => str "OVERWRITE_OLDEST"
def LockEdge.name : LockEdge → Text
  | .none_ => str "NONE" | .gained => str "GAINED" | .lost => str "LOST" | .both => str "BOTH"
def AttemptClass.name : AttemptClass → Text
  | .first => str "FIRST" | .retry => str "RETRY" | .repeat_ => str "REPEAT" | .recovery => str "RECOVERY"
def JournalKind.name : JournalKind → Text
  | .air => str "AIR" | .refund => str "REFUND" | .receipt => str "RECEIPT" | .credit => str "CREDIT"
  | .adjust => str "ADJUST" | .period => str "PERIOD" | .close => str "CLOSE"

def onOff (b : Bool) : Text := if b then str "ON" else str "OFF"

end Sys2Proof.Machine
end

