-- ==== Sys2Proof/Machine/Access.lean ====
section
/-! DEFINITION. Reading and changing the parts of the state: each register's one home is read and written through
the functions here. -/

namespace Sys2Proof.Machine

/-- A counter that rises by one and holds at its top. -/
def riseTo (top n : Nat) : Nat := min (n + 1) top

/-! ### Subscribers -/

/-- The entry of a subscriber; `none` when it is VACANT (R1) or the number is none. -/
def State.sub? (s : State) (n : Nat) : Option Entry := s.subs.get? n

def State.setSub (s : State) (n : Nat) (e : Entry) : State := { s with subs := s.subs.set n e }

/-- Change an entry that is there. -/
def State.modSub (s : State) (n : Nat) (f : Entry → Entry) : State :=
  match s.sub? n with
  | some e => s.setSub n (f e)
  | none => s

def State.modMoney (s : State) (n : Nat) (f : Money → Money) : State :=
  s.modSub n (fun e => { e with money := f e.money })

/-- The address index (R3): the subscriber that holds an address. -/
def State.holderOf (s : State) (a : BitVec 22) : Option Nat :=
  (s.subs.cells.find? (fun c => c.2.addr == a)).map Prod.fst

def State.plan (s : State) (p : PlanNo) : Plan := s.plans[p]

/-- The headroom of an entry (R147). -/
def Money.headroom (m : Money) : Int := m.balance - m.floor - m.reserved

/-! ### Page records -/

/-- The live record a message id names (R27). -/
def State.rec? (s : State) (m : MsgId) : Option PageRec :=
  match s.store.records.get? m.slot with
  | some r => if r.id = m then some r else none
  | none => none

/-- Write a record into its slot. -/
def State.putRec (s : State) (r : PageRec) : State :=
  { s with store := { s.store with records := s.store.records.set r.id.slot r } }

/-- The live records in slot order. -/
def State.live (s : State) : List PageRec := s.store.records.values

/-- The generation of a slot (R27). -/
def State.generation (s : State) (slot : Nat) : BitVec 16 := (s.store.gens.get? slot).getD 0

/-- The free record count (R26). -/
def State.freeRecords (s : State) : Nat := Config.slots - s.store.records.count

/-- The chunks a record holds (R20). -/
def PageRec.chunkList (r : PageRec) : List Chunk := r.chunks.getD []

/-- The indexes of the chunks in use (R20). -/
def State.usedChunks (s : State) : List Nat := s.live.flatMap (fun r => r.chunkList.map Chunk.index)

def State.freeChunks (s : State) : Nat := Config.chunks - s.usedChunks.length

/-- The subscriber's live record that holds a page tag (R110). -/
def State.tagHolder (s : State) (n : Nat) (t : PageTag) : Option PageRec :=
  s.live.find? (fun r => r.sub == n && r.tag == some t)

/-! ### Queues -/

def State.queue (s : State) (w : Window) : List MsgId := s.wsch.queues[w]

def State.setQueue (s : State) (w : Window) (q : List MsgId) : State :=
  { s with wsch := { s.wsch with queues := s.wsch.queues.set w q } }

/-! ### The journal (R155, R157) -/

def Acct.unread (a : Acct) : Nat := (a.nextSeq - a.cursor).toNat

def Acct.freeEntries (a : Acct) : Nat := Config.journal - a.unread

/-- Open entries: free and not held for an AIR reservation (R157). -/
def Acct.openEntries (a : Acct) : Nat := a.freeEntries - a.airReserved

/-- Whether a non-airing record finds no open entry in HOLD mode (R157, R158). -/
def State.journalFull (s : State) : Bool := s.office.journalMode == .hold && s.acct.openEntries == 0

/-! ### Zones -/

def allZones : List Zone := List.finRange 8

def State.modZone (s : State) (z : Zone) (f : ZoneCell → ZoneCell) : State :=
  { s with txi := s.txi.set z (f s.txi[z]) }

/-! ### Free values -/

/-- Draw at the free-value counter (log 29). -/
def State.drawn (s : State) : State := { s with fresh := s.fresh + 1 }

end Sys2Proof.Machine
end

