-- ==== Sys2Proof/Machine/Flags.lean ====
section
/-! DEFINITION. The flags of the controller and what sets them: the condition set with the notice queue and the
line toward the office computer (chapter 10), congestion (R26), the credit state and the two alarms (R149 to
R151), the high latch of the journal (R161) and the lock detector (R65 to R67). -/

namespace Sys2Proof.Machine

/-! ### The line toward the office computer (R171) -/

/-- A line begins to be sent. -/
def Hlc.begin (h : Hlc) (l : OutLine) : Hlc := { h with sending := some l, sent := h.sent ++ [l] }

/-- The HLC chooses what goes next: the answer under way, a BUSY_LINE answer, the next answer, a notice. Of several
BUSY_LINE answers the one that has waited longest goes first, which is the model's choice (log 34). -/
def Hlc.choose (h : Hlc) : Hlc :=
  match h.underWay with
  | l :: rest => { h with underWay := rest }.begin l
  | [] =>
    match h.busy with
    | t :: rest => { h with busy := rest }.begin (.final t (.refused .busyLine) [])
    | [] =>
      match h.answers with
      | (l :: more) :: rest => { h with underWay := more, answers := rest }.begin l
      | [] :: rest => { h with answers := rest, sending := none }
      | [] =>
        match h.notices with
        | n :: rest => { h with notices := rest }.begin (.notice n.kind n.fields)
        | [] => { h with sending := none }

/-- At the end of a step an idle line takes what is waiting (log 4). -/
def Hlc.settle (h : Hlc) : Hlc := if h.sending.isNone then h.choose else h

def State.settle (s : State) : State := { s with hlc := s.hlc.settle }

/-- An answer joins those waiting (R170). -/
def State.answer (s : State) (lines : List OutLine) : State :=
  { s with hlc := { s.hlc with answers := s.hlc.answers ++ [lines] } }

/-! ### The condition set and the notice queue (R173, R175) -/

def Hlc.level (h : Hlc) (k : NoticeKind) : Nat := h.levels[k.index].val

/-- The place of a notice: by the level of its kind, and within a level by the order of placing (R175). -/
def insertNotice (level : NoticeKind → Nat) (n : Notice) : List Notice → List Notice
  | [] => [n]
  | x :: xs =>
    if level x.kind < level n.kind || (level x.kind == level n.kind && n.stamp < x.stamp) then n :: x :: xs
    else x :: insertNotice level n xs

/-- Place a new notice (R175): in a full queue it displaces a tail of strictly lower level, or is dropped. -/
def Hlc.place (h : Hlc) (k : NoticeKind) (fields : List Field) : Hlc :=
  let n : Notice := { kind := k, fields := fields, stamp := h.nextStamp }
  if h.notices.length < Config.notices then
    { h with notices := insertNotice h.level n h.notices, nextStamp := h.nextStamp + 1 }
  else
    match h.notices.getLast? with
    | some tail =>
      if h.level tail.kind < h.level k then
        { h with
          notices := insertNotice h.level n h.notices.dropLast
          nextStamp := h.nextStamp + 1
          dropped := riseTo Config.counterTop h.dropped }
      else { h with dropped := riseTo Config.counterTop h.dropped }
    | none => h

/-- Set the sticky flag of a kind (R173). -/
def Hlc.mark (h : Hlc) (k : NoticeKind) : Hlc := { h with flags := h.flags.set k.index true }

/-- Raise a condition; `called` is false for a LOCK edge of which LOCK EDGE asks no notice (R67, R173). -/
def Hlc.raise (h : Hlc) (k : NoticeKind) (fields : List Field) (called : Bool) : Hlc :=
  let h := h.mark k
  if called && 0 < h.level k then h.place k fields else h

def State.raise (s : State) (k : NoticeKind) (fields : List Field) : State :=
  { s with hlc := s.hlc.raise k fields true }

/-- A kind takes a new level (R174). -/
def Hlc.setLevel (h : Hlc) (k : NoticeKind) (new : Fin 4) : Hlc :=
  let old := h.levels[k.index]
  let h' := { h with levels := h.levels.set k.index new }
  if old = new then h
  else if old = 0 then
    if h.flags[k.index] then h'.place k [(str "SUMMARY", .yesNo true)] else h'
  else if new = 0 then { h' with notices := h.notices.filter (fun n => n.kind != k) }
  else
    let others := h.notices.filter (fun n => n.kind != k)
    let own := h.notices.filter (fun n => n.kind == k)
    { h' with notices := own.foldl (fun q n => insertNotice h'.level n q) others }

/-! ### Congestion (R26) -/

/-- Judge congestion on the free record count; a change of state raises CONGESTION. -/
def State.judgeCongestion (s : State) : State :=
  let free := s.freeRecords
  if s.store.congested then
    if s.office.congestion + 16 < free then
      { s with store := { s.store with congested := false } }.raise .congestion
        [(str "STATE", .word (onOff false)), (str "FREE", .num free)]
    else s
  else
    if free ≤ s.office.congestion then
      { s with store := { s.store with congested := true } }.raise .congestion
        [(str "STATE", .word (onOff true)), (str "FREE", .num free)]
    else s

/-! ### Credit state and alarms (R149 to R151) -/

/-- The bar test. -/
def State.barTest (s : State) (n : Nat) : State :=
  match s.sub? n with
  | none => s
  | some e =>
    if e.money.credit = .clear ∧ e.money.balance = e.money.floor then
      (s.modMoney n (fun m => { m with credit := .barred })).raise .barred
        [(str "SUB", .num n), (str "BALANCE", .int e.money.balance), (str "FLOOR", .int e.money.floor)]
    else s

/-- The unbar test. -/
def State.unbarTest (s : State) (n : Nat) : State :=
  match s.sub? n with
  | none => s
  | some e =>
    if e.money.credit = .barred ∧ (s.office.unbarMargin : Int) < e.money.balance - e.money.floor then
      (s.modMoney n (fun m => { m with credit := .clear })).raise .unbarred
        [(str "SUB", .num n), (str "BALANCE", .int e.money.balance)]
    else s

/-- The low-balance test after a charge that changed the balance (R150). -/
def State.lowTest (s : State) (n : Nat) : State :=
  match s.sub? n with
  | none => s
  | some e =>
    if e.money.lowArmed = true ∧ e.money.balance < e.money.low then
      (s.modMoney n (fun m => { m with lowArmed := false })).raise .lowBalance
        [(str "SUB", .num n), (str "BALANCE", .int e.money.balance), (str "LOW", .int e.money.low)]
    else s

/-- The re-arming of the low-balance alarm after a credit that changed the balance (R150). -/
def State.rearmLow (s : State) (n : Nat) : State :=
  s.modMoney n (fun m => if m.low ≤ m.balance then { m with lowArmed := true } else m)

/-- The usage test after a charge that raised period charges (R151). -/
def State.usageTest (s : State) (n : Nat) : State :=
  match s.sub? n with
  | none => s
  | some e =>
    if e.money.usageArmed = true ∧ e.money.usage < e.money.periodCharges then
      (s.modMoney n (fun m => { m with usageArmed := false })).raise .usageHigh
        [(str "SUB", .num n), (str "PCHARGES", .num e.money.periodCharges), (str "USAGE", .num e.money.usage)]
    else s

/-! ### The high latch of the journal (R161) -/

/-- Judge JOURNAL_HIGH on the number of unread records. -/
def State.judgeJournalHigh (s : State) : State :=
  let unread := s.acct.unread
  let fields : List Field :=
    [(str "UNREAD", .num unread), (str "FREE", .num s.acct.freeEntries),
     (str "MODE", .word s.office.journalMode.name)]
  if s.office.journalHigh ≤ unread then
    match s.office.highType with
    | .once =>
      if s.acct.highLatch then s
      else { s with acct := { s.acct with highLatch := true } }.raise .journalHigh fields
    | .each => s.raise .journalHigh fields
  else { s with acct := { s.acct with highLatch := false } }

/-! ### The lock detector (R65 to R67) -/

/-- Whether LOCK EDGE asks a notice of an entry (`true`) to or an exit from LOCKED (R67). -/
def LockEdge.calls : LockEdge → Bool → Bool
  | .none_, _ => false
  | .gained, entering => entering
  | .lost, entering => !entering
  | .both, _ => true

/-- The LOCK condition of an entry to or exit from LOCKED (R67). -/
def State.raiseLock (s : State) (entering : Bool) : State :=
  let fields : List Field :=
    [(str "STATE", .word (if entering then str "LOCKED" else str "UNLOCKED")),
     (str "ROUND", .num s.aclk.round), (str "WINDOW", .num s.aclk.window)]
  { s with hlc := s.hlc.raise .lock fields (s.office.lockEdge.calls entering) }

/-- The detector leaves for UNLOCKED, as by a bad group; an exit from LOCKED raises LOCK and empties the oversize
set (R66, R67, R81). -/
def State.unlock (s : State) : State :=
  let s' := { s with aclk := { s.aclk with detector := .unlocked } }
  if s.aclk.detector = .locked then
    ({ s' with wsch := { s'.wsch with oversize := [] } }).raiseLock false
  else s'

/-- A good group (R66). -/
def State.goodGroup (s : State) : State :=
  match s.aclk.detector with
  | .unlocked => { s with aclk := { s.aclk with detector := .acquiring 1 } }
  | .acquiring k =>
    if k < 7 then { s with aclk := { s.aclk with detector := .acquiring (k + 1) } }
    else { s with aclk := { s.aclk with detector := .locked } }.raiseLock true
  | .locked => s

/-- A strobe counts into the group by its mark; the 64th is the group's judgement (R65, R66). -/
def State.countStrobe (s : State) (good : Bool) : State :=
  let bad := s.aclk.badMark || !good
  if s.aclk.strobes + 1 < 64 then
    { s with aclk := { s.aclk with strobes := s.aclk.strobes + 1, badMark := bad } }
  else
    let s' := { s with aclk := { s.aclk with strobes := 0, badMark := false } }
    if bad then s'.unlock else s'.goodGroup

/-- The group under way is discarded and the detector leaves for UNLOCKED (R65). -/
def State.restartDetector (s : State) : State :=
  { s with aclk := { s.aclk with strobes := 0, badMark := false } }.unlock

/-- The layout an image begun now takes (R68). -/
def Detector.layout : Detector → Layout
  | .locked => .locked
  | .unlocked | .acquiring _ => .degraded

end Sys2Proof.Machine
end

