-- ==== Sys2Proof/Machine/Operands.lean ====
section
/-! DEFINITION. Every operand form of the host commands: the received line and its judgement (R168, R182), the
command words and fields of a taken line (R170), the value forms (11.1), and the first fault of a command's
fields. -/

namespace Sys2Proof.Machine

/-! ### The received line (R168, R182) -/

/-- A 0Dh standing immediately before the terminator belongs to the terminator (R182). -/
def stripReturn (chars : Text) : Text := if chars.getLast? = some 0x0D#8 then chars.dropLast else chars

/-- The characters of a line without its check field, when it has no more than 480 characters, all of them
printable, and the check agrees (R168, R182). -/
def checkedBody (line : Text) : Option Text :=
  let body := line.take (line.length - 5)
  if line.length ≤ Config.lineChars ∧ 5 ≤ line.length ∧ line.all (fun b => 0x20#8 ≤ b && b ≤ 0x7E#8) then
    match line.drop (line.length - 5) with
    | star :: digits => if star = starChar ∧ readHex4 digits = some (crc16 body) then some body else none
    | [] => none
  else none

/-- A received line that passes every test of R168, as its tag and the characters after the tag. -/
def judgeLine (chars : Text) : Option CmdLine :=
  match checkedBody (stripReturn chars) with
  | some (h :: rest) =>
    if h = hashChar then
      match readNat (rest.takeWhile (fun b => b != spaceChar)) with
      | some tag =>
        if 1 ≤ tag ∧ tag ≤ 65535 then some { tag := tag, rest := rest.dropWhile (fun b => b != spaceChar) } else none
      | none => none
    else none
  | _ => none

/-! ### Command words (R170) -/

/-- The commands of the manual. -/
inductive HostCommand where
  | subAdd | subSet | subGet | subSuspend | subResume | subRemove | planSet | planGet | submit | cancel | pageGet
  | heldList | heldRelease | airStart | airStop | zoneSet | zoneGet | tariffLoad | bandSet | tariffGet | credit
  | adjust | billRead | billRewind | periodClose | periodCloseAll | noticeLevels | status | officeSet | officeGet
  | restart
  deriving DecidableEq, Repr

def HostCommand.all : List HostCommand :=
  [.subAdd, .subSet, .subGet, .subSuspend, .subResume, .subRemove, .planSet, .planGet, .submit, .cancel, .pageGet,
   .heldList, .heldRelease, .airStart, .airStop, .zoneSet, .zoneGet, .tariffLoad, .bandSet, .tariffGet, .credit,
   .adjust, .billRead, .billRewind, .periodClose, .periodCloseAll, .noticeLevels, .status, .officeSet, .officeGet,
   .restart]

/-- The words of a command. -/
def HostCommand.words : HostCommand → List Text
  | .subAdd => [str "SUB", str "ADD"] | .subSet => [str "SUB", str "SET"] | .subGet => [str "SUB", str "GET"]
  | .subSuspend => [str "SUB", str "SUSPEND"] | .subResume => [str "SUB", str "RESUME"]
  | .subRemove => [str "SUB", str "REMOVE"] | .planSet => [str "PLAN", str "SET"] | .planGet => [str "PLAN", str "GET"]
  | .submit => [str "SUBMIT"] | .cancel => [str "CANCEL"] | .pageGet => [str "PAGE", str "GET"]
  | .heldList => [str "HELD", str "LIST"] | .heldRelease => [str "HELD", str "RELEASE"]
  | .airStart => [str "AIR", str "START"] | .airStop => [str "AIR", str "STOP"]
  | .zoneSet => [str "ZONE", str "SET"] | .zoneGet => [str "ZONE", str "GET"]
  | .tariffLoad => [str "TARIFF", str "LOAD"] | .bandSet => [str "BAND", str "SET"]
  | .tariffGet => [str "TARIFF", str "GET"] | .credit => [str "CREDIT"] | .adjust => [str "ADJUST"]
  | .billRead => [str "BILL", str "READ"] | .billRewind => [str "BILL", str "REWIND"]
  | .periodClose => [str "PERIOD", str "CLOSE"] | .periodCloseAll => [str "PERIOD", str "CLOSE", str "ALL"]
  | .noticeLevels => [str "NOTICE", str "LEVELS"] | .status => [str "STATUS"]
  | .officeSet => [str "OFFICE", str "SET"] | .officeGet => [str "OFFICE", str "GET"] | .restart => [str "RESTART"]

/-- Split the characters after the tag into words and the rest, which begins at the first token that holds "=".
Every single space ends a word, so words set apart by more than one space leave an empty word between them. -/
def scanWords (cur : Text) (words : List Text) : Text → List Text × Text
  | [] => ((cur.reverse :: words), [])
  | b :: rest =>
    if b = equalsChar then (words, cur.reverse ++ b :: rest)
    else if b = spaceChar then scanWords [] (cur.reverse :: words) rest
    else scanWords (b :: cur) words rest

def dropSpaces (t : Text) : Text := t.dropWhile (fun b => b == spaceChar)

/-- The words of a line, spaces before and after them dropped, and the characters of its fields. -/
def lineParts (t : Text) : List Text × Text :=
  let (revWords, fields) := scanWords [] [] (dropSpaces t)
  ((revWords.dropWhile List.isEmpty).reverse, fields)

/-- The command a line's words name, if they name one. -/
def CmdLine.command (l : CmdLine) : Option HostCommand :=
  HostCommand.all.find? (fun c => c.words == (lineParts l.rest).1)

/-! ### Fields (R170, R21) -/

/-- A field as it stands on the line. The value is absent when the token has no "=", or is a TEXT field that does
not have its form. -/
structure RawField where
  key   : Text
  value : Option Text
  deriving DecidableEq, Repr

/-- The value of a TEXT field, n:characters with exactly n characters after the colon and a space or the end after
them, and what follows it (R21). -/
def takeCounted (t : Text) : Option (Text × Text) :=
  match readNat (t.takeWhile (fun b => b != colonChar)), t.dropWhile (fun b => b != colonChar) with
  | some n, _ :: chars =>
    let after := chars.drop n
    if n ≤ 200 ∧ n ≤ chars.length ∧ (after.head? = none ∨ after.head? = some spaceChar) then
      some (chars.take n, after)
    else none
  | _, _ => none

/-- The fields of a line in order. `counted` says whether TEXT has the counted form, as it has on SUBMIT (R21); a
malformed TEXT field is the last read. Each turn of the fuel takes a character at least. -/
def scanFields (counted : Bool) : Nat → Text → List RawField
  | 0, _ => []
  | fuel + 1, t =>
    match dropSpaces t with
    | [] => []
    | b :: rest =>
      let token := b :: rest
      let key := token.takeWhile (fun c => c != spaceChar && c != equalsChar)
      match token.dropWhile (fun c => c != spaceChar && c != equalsChar) with
      | c :: v =>
        if c = equalsChar then
          if counted = true ∧ key = str "TEXT" then
            match takeCounted v with
            | some (text, after) => { key := key, value := some text } :: scanFields counted fuel after
            | none => [{ key := key, value := none }]
          else
            { key := key, value := some (v.takeWhile (fun d => d != spaceChar)) } ::
              scanFields counted fuel (v.dropWhile (fun d => d != spaceChar))
        else { key := key, value := none } :: scanFields counted fuel (c :: v)
      | [] => [{ key := key, value := none }]

/-- The fields of a command line. -/
def CmdLine.fields (l : CmdLine) : List RawField :=
  scanFields (decide (l.command = some .submit)) (l.rest.length + 1) (lineParts l.rest).2

/-! ### Value forms (11.1) -/

/-- A zone set (1.7): not empty, no number outside 0-7, none twice; the set in ascending order. -/
def readZones (t : Text) : Option ZoneSet :=
  match (splitOn commaChar t).mapM readNat with
  | some ns =>
    if ns.all (fun n => n < 8) ∧ ns.Nodup ∧ ns ≠ [] then some (allZones.filter (fun z => ns.contains z.val)) else none
  | none => none

/-- A message id slot.generation (R27); a slot outside 0-2047 or a generation outside 0-65535 is none. -/
def readMsg (t : Text) : Option MsgId :=
  match splitOn periodChar t with
  | [a, b] =>
    match readNat a, readNat b with
    | some slot, some gen =>
      if slot < Config.slots ∧ gen < 65536 then some { slot := slot, gen := BitVec.ofNat 16 gen } else none
    | _, _ => none
  | _ => none

/-- Numbers separated by commas, each in a range. -/
def readNums (lo hi : Nat) (t : Text) : Option (List Nat) :=
  match (splitOn commaChar t).mapM readNat with
  | some ns => if ns.all (fun n => lo ≤ n && n ≤ hi) then some ns else none
  | none => none

/-- Exactly `n` numbers separated by commas, each in a range. -/
def readVector (n lo hi : Nat) (t : Text) : Option (Vector Nat n) :=
  match readNums lo hi t with
  | some ns => if h : ns.length = n then some ⟨ns.toArray, by simpa using h⟩ else none
  | none => none

/-- A number in a range. -/
def readIn (lo hi : Nat) (t : Text) : Option Nat :=
  match readNat t with
  | some n => if lo ≤ n ∧ n ≤ hi then some n else none
  | none => none

/-- A number below a bound. -/
def readFin (n : Nat) (t : Text) : Option (Fin n) :=
  match readNat t with
  | some k => if h : k < n then some ⟨k, h⟩ else none
  | none => none

/-- A signed amount in a range. -/
def readIntIn (lo hi : Int) (t : Text) : Option Int :=
  match readInt t with
  | some i => if lo ≤ i ∧ i ≤ hi then some i else none
  | none => none

/-- The activation choice of TARIFF LOAD (R129). -/
def readActivation (t : Text) : Option Activation :=
  if t = str "NEXT" then some .next else (readFin 4096 t).map .atRound

/-! ### Faults of the fields -/

/-- Why a command is not carried out. -/
inductive Denial where
  /-- BAD_FIELD with the key found at fault on the line -/
  | badField (key : Text)
  /-- BAD_FIELD for required keys that are missing, one at least -/
  | missing (key : Text) (more : List Text)
  /-- any other refusal code, with the fields its rule gives it -/
  | refusal (code : Code) (fields : List Field)
  deriving DecidableEq, Repr

/-- What a key's value must satisfy. -/
abbrev KeyForm := Text × (Text → Bool)

def keyForm {α : Type} (key : String) (read : Text → Option α) : KeyForm := (str key, fun t => (read t).isSome)

/-- Whether a field is at fault: it has no value, its key is not taken, or its value does not have its form. -/
def fieldAtFault (forms : List KeyForm) (f : RawField) : Bool :=
  match f.value, forms.find? (fun k => k.1 == f.key) with
  | some v, some form => !form.2 v
  | _, _ => true

/-- The key of the first field on the line that is at fault or repeats a key (R170). -/
def firstFault (forms : List KeyForm) : List Text → List RawField → Option Text
  | _, [] => none
  | seen, f :: rest =>
    if fieldAtFault forms f || seen.contains f.key then some f.key else firstFault forms (f.key :: seen) rest

/-- The form check of a command: a fault on the line first, then the required keys that are missing (log 8). -/
def checkForm (forms : List KeyForm) (required : List String) (fs : List RawField) : Except Denial Unit :=
  match firstFault forms [] fs with
  | some key => .error (.badField key)
  | none =>
    match (required.map str).filter (fun k => !(fs.any (fun f => f.key == k))) with
    | [] => .ok ()
    | k :: more => .error (.missing k more)

/-- A command that needs one field at least of those it takes (R11, R14, R91, R178): with none given, each of them is
a key that is missing (log 8). -/
def checkSomeOf (forms : List KeyForm) (fs : List RawField) : Except Denial Unit :=
  if fs.any (fun f => forms.any (fun k => k.1 == f.key)) then .ok ()
  else
    match forms.map Prod.fst with
    | k :: more => .error (.missing k more)
    | [] => .ok ()

/-- A command that takes no fields (R59, R62, R133, R165, R179). -/
def checkNoFields (fs : List RawField) : Except Denial Unit :=
  match fs with
  | [] => .ok ()
  | f :: _ => .error (.badField f.key)

/-- The value of a key, read by its form, when the line carries it. -/
def fieldOf {α : Type} (fs : List RawField) (key : String) (read : Text → Option α) : Option α :=
  ((fs.find? (fun f => f.key == str key)).bind RawField.value).bind read

/-- Whether the line carries a key. -/
def hasKey (fs : List RawField) (key : String) : Bool := fs.any (fun f => f.key == str key)

/-- A refusal when a condition holds. -/
def refuseIf (cond : Bool) (code : Code) : Except Denial Unit :=
  if cond then .error (.refusal code []) else .ok ()

/-- The value a check has made sure of. -/
def need {α : Type} (v : Option α) (key : String) : Except Denial α :=
  match v with
  | some a => .ok a
  | none => .error (.missing (str key) [])

/-- The subscriber number of a command whose fields have been checked; a number outside 0-4095 is BAD_SUBSCRIBER
(R1). -/
def subscriberNumber (fs : List RawField) : Except Denial Nat :=
  match fieldOf fs "SUB" readNat with
  | some n => if n < Config.subscribers then .ok n else .error (.refusal .badSubscriber [])
  | none => .error (.missing (str "SUB") [])

/-- Check 1 of SUB ADD and SUB SET, which comes before the other fields are looked at (R13, R14). -/
def subscriberFirst (fs : List RawField) : Except Denial Nat :=
  match fs.find? (fun f => f.key == str "SUB") with
  | none => .error (.missing (str "SUB") [])
  | some f =>
    match f.value.bind readNat with
    | none => .error (.badField (str "SUB"))
    | some n => if n < Config.subscribers then .ok n else .error (.refusal .badSubscriber [])

/-- The entry of a subscriber; a VACANT one is NO_SUBSCRIBER (R1). -/
def presentEntry (s : State) (n : Nat) : Except Denial Entry :=
  match s.sub? n with
  | some e => .ok e
  | none => .error (.refusal .noSubscriber [])

/-- The record a command's MSG names (R27). -/
def namedRecord (s : State) (fs : List RawField) : Except Denial PageRec := do
  checkForm [keyForm "MSG" readMsg] ["MSG"] fs
  let m ← need (fieldOf fs "MSG" readMsg) "MSG"
  match s.rec? m with
  | some r => .ok r
  | none => .error (.refusal .unknownMessage [])

/-- A command that takes SUB alone and needs an entry in use (R16, R17, R18, R19, R37, R38). -/
def namedEntry (s : State) (fs : List RawField) : Except Denial (Nat × Entry) := do
  checkForm [keyForm "SUB" readNat] ["SUB"] fs
  let n ← subscriberNumber fs
  let e ← presentEntry s n
  .ok (n, e)

/-! ### Answers -/

/-- An answer of one final line. -/
def State.reply (s : State) (tag : Nat) (r : Result) (fields : List Field) : State := s.answer [.final tag r fields]

/-- Data lines, then the final OK line. -/
def State.report (s : State) (tag : Nat) (lines : List (List Field)) (fields : List Field) : State :=
  s.answer (lines.map (.data tag) ++ [.final tag .ok fields])

/-- The refusal of a command (R170). When two or more required keys are missing, which of them FIELD names is a free
value (log 8). FIELD carries the key whole, also an unknown key so long that the line passes 480 characters (log 33). -/
def State.deny (s : State) (tag : Nat) : Denial → State
  | .badField key => s.reply tag (.refused .badField) [(str "FIELD", .word key)]
  | .missing key [] => s.reply tag (.refused .badField) [(str "FIELD", .word key)]
  | .missing key (k :: more) =>
    let keys := key :: k :: more
    s.drawn.reply tag (.refused .badField)
      [(str "FIELD", .word (keys.getD (Config.missingKey s.fresh % keys.length) key))]
  | .refusal code fields => s.reply tag (.refused code) fields

/-- Carry out a taken command: its checks, then its effect or the refusal. -/
def carry {α : Type} (tag : Nat) (checks : Except Denial α) (effect : α → State → State) (s : State) : State :=
  match checks with
  | .ok a => effect a s
  | .error d => s.deny tag d

/-- The meaning of every next state a row gives: the step ends with an idle line taking what waits (log 4). -/
def done (s : State) : Host.Outcome State Fault Refusal := .next s.settle

/-- HLC takes the line at the head of the buffer (R169, R170) when its words name the command; otherwise this row's
event is not what happens, and nothing changes (log 1). -/
def takeLine (c : HostCommand) (body : Nat → List RawField → State → State) (s : State) :
    Host.Outcome State Fault Refusal :=
  match s.hlc.buffer with
  | l :: rest =>
    if l.command = some c then done (body l.tag l.fields { s with hlc := { s.hlc with buffer := rest } }) else .next s
  | [] => .next s

end Sys2Proof.Machine
end

