-- ==== Sys2Proof/Machine/AirBlocks.lean ====
section
/-! DEFINITION. The blocks on air (chapter 3, 11.5): block counts of pages, the layouts' positions, and the 48 bits
of each kind of block. -/

namespace Sys2Proof.Machine

def ceilDiv (a b : Nat) : Nat := (a + b - 1) / b

/-- Payload block count of an encoding and kept length (R48). -/
def payloadBlocks (e : Encoding) (c : Nat) : Nat :=
  match e with
  | .tone => 0
  | .numeric => ceilDiv c 9
  | .alpha => ceilDiv (7 * c) 36

/-- A block: payload and check (R41). -/
def withCheck (payload : BitVec 36) : Block := payload ++ crc12 payload

/-- Idle fill (R42, R184). -/
def idleBlock : Block := 0x000000000FFF#48

/-- A test block (11.5). -/
def testBlock : Block := withCheck 0xAAAAAAAAA#36

/-- The sync block: its payload with the computed check combined with 5A5h (R184). -/
def syncBlock : Block := 0xE4B71D28C#36 ++ (crc12 0xE4B71D28C#36 ^^^ 0x5A5#12)

def Color.bit : Color → BitVec 1 | .a => 0#1 | .b => 1#1
def flagBit (b : Bool) : BitVec 1 := if b then 1#1 else 0#1

/-- The payload of a window header (R45, 11.5). -/
def headerPayload (round : Round) (window : Window) (color : Color) (pages : Nat) (lock test : Bool) : BitVec 36 :=
  BitVec.ofNat 12 round ++ BitVec.ofNat 5 window ++ color.bit ++ BitVec.ofNat 6 pages ++ flagBit lock ++
    flagBit test ++ 0#10

def headerBlock (round : Round) (window : Window) (color : Color) (pages : Nat) (lock test : Bool) : Block :=
  withCheck (headerPayload round window color pages lock test)

def Encoding.code : Encoding → BitVec 2 | .tone => 0 | .numeric => 1 | .alpha => 2

def AttemptClass.code : AttemptClass → BitVec 2 | .first => 0 | .retry => 1 | .repeat_ => 2 | .recovery => 3

/-- The payload of an address block (R46, 11.5). The tag-present flag is set for a record of a TWO_WAY subscriber;
the tag is 0 when the flag is clear. -/
def addressPayload (addr : BitVec 22) (present : Bool) (tag : PageTag) (e : Encoding) (b : Nat) (c : AttemptClass) :
    BitVec 36 :=
  addr ++ flagBit present ++ BitVec.ofNat 3 (if present then tag.val else 0) ++ e.code ++ BitVec.ofNat 6 b ++ c.code

/-! ### Text blocks (R47) -/

/-- The 4-bit code of a NUMERIC character. -/
def numericCode (b : Byte) : BitVec 4 :=
  if b = 0x20#8 then 10 else if b = 0x2D#8 then 11 else if b = 0x2E#8 then 12 else if b = 0x28#8 then 13
  else if b = 0x29#8 then 14 else BitVec.ofNat 4 (b.toNat - 0x30)

/-- Whether a character is one NUMERIC takes (R22). -/
def isNumericChar (b : Byte) : Bool :=
  (0x30#8 ≤ b && b ≤ 0x39#8) || b == 0x20#8 || b == 0x2D#8 || b == 0x2E#8 || b == 0x28#8 || b == 0x29#8

/-- The code of one character as bits, most significant first. -/
def charBits (e : Encoding) (b : Byte) : List Bool :=
  match e with
  | .tone => []
  | .numeric => bitsOf (numericCode b)
  | .alpha => bitsOf (b.setWidth 7)

/-- The fill code as bits: 15 for NUMERIC, 0 for ALPHA. -/
def fillBits (e : Encoding) : List Bool :=
  match e with
  | .tone => []
  | .numeric => [true, true, true, true]
  | .alpha => List.replicate 7 false

/-- The bits filled after the text: whole fill codes, then zero bits. -/
def fillAfter (e : Encoding) (room : Nat) : List Bool :=
  (List.replicate (room / (fillBits e).length) (fillBits e)).flatten ++
    List.replicate (room % (fillBits e).length) false

/-- The character stream of a text in `b` blocks. -/
def textStream (e : Encoding) (t : Text) (b : Nat) : List Bool :=
  let bits := t.flatMap (charBits e)
  bits ++ fillAfter e (36 * b - bits.length)

/-- A payload from its 36 bits, first bit the most significant. -/
def payloadOf (bits : List Bool) : BitVec 36 :=
  BitVec.ofNat 36 (bits.foldl (fun n b => 2 * n + b.toNat) 0)

/-- The text blocks of a page. -/
def textBlocks (e : Encoding) (t : Text) (b : Nat) : List Block :=
  let stream := textStream e t b
  (List.range b).map (fun i => withCheck (payloadOf ((stream.drop (36 * i)).take 36)))

/-! ### Positions (R49, R50) -/

/-- The position of the sync block of a zone. -/
def syncPosition (l : Layout) (c : Color) : Nat :=
  match l, c with
  | .locked, _ => 0
  | .degraded, .a => 0
  | .degraded, .b => 32

/-- The first and last usable position of a zone. -/
def usableRange (l : Layout) (c : Color) : Nat × Nat :=
  match l, c with
  | .locked, _ => (2, 63)
  | .degraded, .a => (2, 31)
  | .degraded, .b => (34, 63)

end Sys2Proof.Machine
end

