-- ==== Sys2Proof/Machine/Ops.lean ====
section
/-! DEFINITION. The operations on page records that several rows share: the order of queues and held lists, page
tags, the text pool, freeing (R32), delivery (R111) and recovery (R31). A block has no exception entry: what an
error does is its answer, counter or condition. -/

namespace Sys2Proof.Machine

/-! ### Order of acceptance (R25, R69) -/

/-- Whether an acceptance sequence is older than another: behind it by less than half the range (R25). Exactly half
the range apart the manual orders nothing (log 11). -/
def older (a b : BitVec 32) : Bool :=
  let d := (b - a).toNat
  if d = 2147483648 then Config.olderAtHalf a b else 0 < d && d < 2147483648

/-- Whether a place in a queue stands ahead of another: by priority, then by age (R69). -/
def QueuePlace.ahead (a b : QueuePlace) : Bool := b.pri < a.pri || (a.pri == b.pri && older a.seq b.seq)

def PageRec.queuePlace (r : PageRec) : QueuePlace := { pri := r.pri, seq := r.seq }

/-- Put an id ahead of the first one it stands before. -/
def insertBefore (before : MsgId → Bool) (m : MsgId) : List MsgId → List MsgId
  | [] => [m]
  | x :: xs => if before x then m :: x :: xs else x :: insertBefore before m xs

/-- Whether the record with this place stands ahead of the queued record. -/
def State.standsAhead (s : State) (p : QueuePlace) (m : MsgId) : Bool :=
  match s.rec? m with
  | some r => p.ahead r.queuePlace
  | none => false

/-- File a record in the window queue of its subscriber's home window (R69, R70). -/
def State.fileRec (s : State) (r : PageRec) : State :=
  match s.sub? r.sub with
  | some e => s.setQueue e.home (insertBefore (s.standsAhead r.queuePlace) r.id (s.queue e.home))
  | none => s

/-- Take an id out of a window queue. -/
def State.unfile (s : State) (r : PageRec) : State :=
  match s.sub? r.sub with
  | some e => s.setQueue e.home ((s.queue e.home).filter (fun m => m != r.id))
  | none => s

/-- Put a record on its subscriber's held list at the place its acceptance sequence gives (R8). -/
def State.holdRec (s : State) (r : PageRec) : State :=
  let before (m : MsgId) : Bool := match s.rec? m with | some x => older r.seq x.seq | none => false
  s.modSub r.sub (fun e => { e with held := insertBefore before r.id e.held })

def State.unholdRec (s : State) (r : PageRec) : State :=
  s.modSub r.sub (fun e => { e with held := e.held.filter (fun m => m != r.id) })

/-- Join the end of the awaiting list (R109). -/
def State.joinAwaiting (s : State) (m : MsgId) : State :=
  { s with rmat := { s.rmat with awaiting := s.rmat.awaiting ++ [m] } }

def State.leaveAwaiting (s : State) (m : MsgId) : State :=
  { s with rmat := { s.rmat with awaiting := s.rmat.awaiting.filter (fun x => x != m) } }

/-! ### Page tags (R7) -/

def allTags : List PageTag := List.finRange 8

/-- The lowest tag a subscriber does not hold. -/
def Entry.freeTag (e : Entry) : Option PageTag := allTags.find? (fun t => !e.tags.contains t)

/-- Mark a tag held; the set stands in ascending order. -/
def Entry.holdTag (e : Entry) (t : PageTag) : Entry :=
  { e with tags := allTags.filter (fun x => x == t || e.tags.contains x) }

/-- Release a tag; one that is not held leaves the set unchanged. -/
def Entry.releaseTag (e : Entry) (t : PageTag) : Entry := { e with tags := e.tags.filter (fun x => x != t) }

def State.releaseTagOf (s : State) (r : PageRec) : State :=
  match r.tag with
  | some t => s.modSub r.sub (fun e => e.releaseTag t)
  | none => s

/-! ### The text pool (R20) -/

/-- Put a number into a rising list. -/
def insertRising (n : Nat) : List Nat → List Nat
  | [] => [n]
  | x :: xs => if n ≤ x then n :: x :: xs else x :: insertRising n xs

/-- The number that has `k` unused numbers below it, given the used ones rising. -/
def unusedAt : List Nat → Nat → Nat
  | [], k => k
  | u :: us, k => if u ≤ k then unusedAt us (k + 1) else k

/-- One free chunk out of the pool; which one is a free value (log 10). -/
def pickChunk (used : List Nat) (draw : Nat) : Nat :=
  unusedAt (used.foldr insertRising []) (Config.chunkPick draw % (Config.chunks - used.length))

/-- Take chunks for a text, in text order (R20): each `n` of the fuel is one chunk. -/
def takeChunks : Nat → List Nat → Nat → Text → List Chunk
  | 0, _, _, _ => []
  | n + 1, used, draw, t =>
    let i := pickChunk used draw
    { index := i, chars := t.take Config.chunkChars } ::
      takeChunks n (i :: used) (draw + 1) (t.drop Config.chunkChars)

/-- Chunks a kept length needs (R20). -/
def chunksFor (c : Nat) : Nat := ceilDiv c Config.chunkChars

/-- The text a record holds. -/
def PageRec.text (r : PageRec) : Text := r.chunkList.flatMap Chunk.chars

/-! ### Reservations (R147) -/

/-- Release a record's reservation from its subscriber's reserved amount. -/
def State.releaseReservation (s : State) (r : PageRec) : State :=
  match r.reservation with
  | some a => s.modMoney r.sub (fun m => { m with reserved := m.reserved - a })
  | none => s

/-! ### Freeing (R32) -/

/-- The five outcomes. -/
inductive PageOutcome where
  | read (fee : Nat)
  | deliveredDone | sent | expired | cancelled
  deriving DecidableEq, Repr

/-- The notice kind of an outcome. -/
def PageOutcome.kind : PageOutcome → NoticeKind
  | .read _ => .pageRead
  | .deliveredDone => .pageDone
  | .sent => .pageSent
  | .expired => .pageExpired
  | .cancelled => .pageDone

/-- The outcome as the notice carries it (log 20). -/
def PageOutcome.name : PageOutcome → Text
  | .read _ => str "READ"
  | .deliveredDone => str "DELIVERED"
  | .sent => str "SENT"
  | .expired => str "EXPIRED"
  | .cancelled => str "CANCELLED"

/-- The fields of an outcome's notice: MSG, SUB and the outcome (R32), and FEE of a read (R113). -/
def PageOutcome.fields (o : PageOutcome) (r : PageRec) : List Field :=
  [(str "MSG", .msg r.id), (str "SUB", .num r.sub), (str "OUTCOME", .word o.name)] ++
    match o with
    | .read fee => [(str "FEE", .num fee)]
    | _ => []

/-- Remove a record from whichever place it has (R29, R32); an image lets go of its records itself. -/
def State.leavePlace (s : State) (r : PageRec) : State :=
  match r.state with
  | .queued | .retryWait => s.unfile r
  | .placed => s
  | .awaiting | .delivered => s.leaveAwaiting r.id
  | .held => s.unholdRec r

/-- Return the slot, keeping its generation; the live record count falls and the id leaves the oversize set (R32,
R81). -/
def State.dropRec (s : State) (r : PageRec) : State :=
  let s := s.modSub r.sub (fun e => { e with live := e.live - 1 })
  { s with
    store := { s.store with records := s.store.records.erase r.id.slot }
    wsch := { s.wsch with oversize := s.wsch.oversize.filter (fun m => m != r.id) } }

/-- Free a record with its outcome, all in one step (R32). The chunks go with the record. -/
def State.freeRec (s : State) (r : PageRec) (o : PageOutcome) : State :=
  let s := s.raise o.kind (o.fields r)
  let s := s.leavePlace r
  let s := s.releaseTagOf r
  let s := s.releaseReservation r
  let s := s.dropRec r
  s.judgeCongestion

/-! ### Delivery (R111) -/

/-- Steps 1 and 2: DELIVERED, no reply-wait countdown, the chunks returned. The placement is of PLACED records only
(R28, log 19). -/
def PageRec.delivered (r : PageRec) : PageRec :=
  { r with state := .delivered, replyWait := none, chunks := none, placement := none }

/-- Step 3: PAGE_DELIVERED with the report's fields. -/
def State.raiseDelivered (s : State) (r : PageRec) (p : Report) (late : Bool) : State :=
  s.raise .pageDelivered
    [(str "MSG", .msg r.id), (str "SUB", .num r.sub), (str "SITE", .num p.site), (str "ZONE", .num p.zone),
     (str "ROUND", .num p.round), (str "WINDOW", .num p.window), (str "LATE", .yesNo late)]

/-- Deliver a record that is not in an image, READ WAIT judged at once (R111 steps 1 to 5, R110). A record out of its
window queue joins the end of the awaiting list unless it is freed. -/
def State.deliverOut (s : State) (r : PageRec) (p : Report) : State :=
  let d := r.delivered
  let s := s.raiseDelivered r p false
  let s := if r.state = .retryWait then s.unfile r else s
  if r.terms.readWait = 0 then (s.putRec d).freeRec d .deliveredDone
  else
    let s := s.putRec { d with readWait := some { left := r.terms.readWait, due := false } }
    if r.state = .retryWait then s.joinAwaiting r.id else s

/-- Deliver a record standing in an image, with the late flag (R112). -/
def State.deliverLate (s : State) (r : PageRec) (p : Report) : State :=
  let d := { r.delivered with late := true }
  let s := s.raiseDelivered r p true
  if r.terms.readWait = 0 then s.putRec { d with freeAfterAiring := true }
  else s.putRec { d with readWait := some { left := r.terms.readWait, due := false } }

/-! ### Recovery (R31) -/

/-- A HELD record starts a recovery series. -/
def PageRec.recovered (r : PageRec) : PageRec :=
  { r with
    state := .queued, series := .recovery, count := 0, skip := 0, late := false, holdWait := none,
    reservation := none }

/-- Start the recovery series of one record of a held list. -/
def State.recoverRec (s : State) (m : MsgId) : State :=
  match s.rec? m with
  | some r =>
    let s := s.unholdRec r
    let s := s.putRec r.recovered
    s.fileRec r.recovered
  | none => s

/-- Start a recovery series for every record on a subscriber's held list, in held-list order. -/
def State.recoverAll (s : State) (n : Nat) : State :=
  match s.sub? n with
  | some e => e.held.foldl State.recoverRec s
  | none => s

/-! ### Counting deferrals (R83) -/

/-- A record is deferred: its deferral count and the DEFERRALS counter rise. -/
def State.deferRec (s : State) (r : PageRec) : State :=
  let s := s.putRec { r with deferral := riseTo 255 r.deferral }
  { s with wsch := { s.wsch with deferrals := riseTo Config.counterTop s.wsch.deferrals } }

end Sys2Proof.Machine
end

