-- ==== Sys2Proof/Machine/Rating.lean ====
section
/-! DEFINITION. What RATE works out (chapter 8): charges, estimates, amounts of airings, refunds, and the
application of a pending table and band. -/

namespace Sys2Proof.Machine

def Tariff.fee (t : Tariff) : Encoding → Nat
  | .tone => t.toneFee
  | .numeric => t.numFee
  | .alpha => t.alphaFee

/-- The charge computation of R134: rounded once, half up, then capped. -/
def charge (t : Tariff) (waived : Bool) (e : Encoding) (b z : Nat) (p : Priority) (c : Band) : Nat :=
  let raw := (if waived then 0 else t.fee e) + b * t.blockRate
  let zoneFactor := 100 + (z - 1) * t.zoneInc
  let product := raw * zoneFactor * t.priF[p] * t.bandF[c]
  min ((product + 500000) / 1000000) t.cap

/-- A share of an amount in percent, rounded half up (R138, R141). -/
def percentOf (amount pct : Nat) : Nat := (amount * pct + 50) / 100

/-- The estimate for a SUBMIT (R136). -/
def State.estimate (s : State) (e : Encoding) (b z : Nat) (p : Priority) : Nat :=
  charge s.rate.active false e b z p s.rate.band

/-- The class of an airing (R85): `k` is its number in the series. -/
def attemptClass (series : Series) (kind : PagerKind) (k : Nat) : AttemptClass :=
  match series with
  | .recovery => .recovery
  | .first => if k = 1 then .first else match kind with | .twoWay => .retry | .oneWay => .repeat_

/-- What RATE answers for an airing (R140), the version apart. -/
structure AiringPrice where
  amount : Nat
  waived : Bool
  deriving DecidableEq, Repr

/-- The amount of an airing (R137 to R139): `z` is the number of zones it airs in. -/
def State.airingPrice (s : State) (r : PageRec) (e : Entry) (cls : AttemptClass) (z : Nat) : AiringPrice :=
  if r.late = true then { amount := 0, waived := false }
  else
    match cls with
    | .recovery => { amount := 0, waived := false }
    | .retry => { amount := percentOf (r.firstCharge.getD 0) r.terms.retryPct, waived := false }
    | .repeat_ => { amount := percentOf (r.firstCharge.getD 0) r.terms.retryPct, waived := false }
    | .first =>
      let waived := decide (e.money.periodPages < (s.plan e.plan).included)
      { amount := charge s.rate.active waived r.enc (r.blocks - 1) z r.pri s.rate.band, waived := waived }

/-- Apply a pending table (R131). -/
def State.applyTariff (s : State) (t : Tariff) : State :=
  let v := s.rate.version + 1
  let s := { s with rate := { s.rate with active := t, version := v, pending := none } }
  s.raise .tariffActive [(str "VERSION", .num v.toNat), (str "ROUND", .num s.aclk.round)]

/-- What falls due for RATE at a round-start event (R131). -/
def State.rateRoundStart (s : State) : State :=
  let s :=
    match s.rate.pending with
    | some (t, .next) => s.applyTariff t
    | some (t, .atRound r) => if r = s.aclk.round then s.applyTariff t else s
    | none => s
  match s.rate.nextBand with
  | some b => { s with rate := { s.rate with band := b, nextBand := none } }
  | none => s

end Sys2Proof.Machine
end

