-- ==== Sys2Proof/Machine/Posting.lean ====
section
/-! DEFINITION. Postings and the billing journal (chapter 9): the writing of a record, charges and credits with
their tests, and the close of a period. -/

namespace Sys2Proof.Machine

/-! ### Writing (R155 to R159) -/

/-- A record to be written: what does not depend on the posting is filled, the rest stands at nothing. -/
def blankRec (s : State) (k : JournalKind) (n : Nat) : JournalRec where
  seq := 0
  kind := k
  sub := n
  round := s.aclk.round
  window := s.aclk.window
  amount := 0
  short := 0
  balance := 0
  waived := false
  late := false
  clamped := false
  msg := none
  air := none
  ref := none
  period := none

/-- Add a record at the tail of the ring under the next sequence number; in a full ring it overwrites the oldest,
and when that was unread the cursor moves on and the overflow counter rises (R155, R159). -/
def Acct.append (a : Acct) (j : JournalRec) : Acct :=
  let j := { j with seq := a.nextSeq }
  if a.ring.length < Config.journal then { a with ring := a.ring ++ [j], nextSeq := a.nextSeq + 1 }
  else if Config.journal ≤ a.unread then
    { a with
      ring := a.ring.drop 1 ++ [j]
      nextSeq := a.nextSeq + 1
      cursor := a.cursor + 1
      overflow := riseTo Config.overflowTop a.overflow }
  else { a with ring := a.ring.drop 1 ++ [j], nextSeq := a.nextSeq + 1 }

/-- Write a record and judge JOURNAL_HIGH (R161). -/
def State.writeRec (s : State) (j : JournalRec) : State :=
  { s with acct := s.acct.append j }.judgeJournalHigh

/-- A REFUND or RECEIPT that finds no open entry in HOLD mode is lost (R158). -/
def State.loseRec (s : State) (j : JournalRec) : State :=
  { s with acct := { s.acct with lost := riseTo Config.counterTop s.acct.lost } }.raise .journalLost
    [(str "KIND", .word j.kind.name), (str "SUB", .num j.sub), (str "AMOUNT", .int j.amount)]

/-- Write the record of a posting: an AIR record goes into the entry its placement held; any other needs an open
entry in HOLD mode (R157, R158). -/
def State.journal (s : State) (j : JournalRec) : State :=
  if j.kind ≠ .air ∧ s.journalFull = true then s.loseRec j else s.writeRec j

/-! ### Postings (R148, R152) -/

/-- The amount a charge of `a` is applied for (R148). -/
def Money.chargeApplied (m : Money) (a : Nat) : Nat := min a (m.balance - m.floor).toNat

/-- The money fields after a charge of `a` above 0, before the tests (R148 steps 1 and 3). -/
def Money.charged (m : Money) (a : Nat) : Money :=
  { m with
    balance := m.balance - m.chargeApplied a
    periodCharges := min (m.periodCharges + m.chargeApplied a) Config.chargesTop }

/-- The tests after a charge above 0: bar, low balance, usage (R148 step 4). -/
def State.chargeTests (s : State) (n : Nat) (before after : Money) : State :=
  let s := s.barTest n
  let s := if after.balance = before.balance then s else s.lowTest n
  if after.periodCharges = before.periodCharges then s else s.usageTest n

/-- Post a charge of `a` to a subscriber with the record `j` (R148); a charge of 0 is journaled and nothing more. -/
def State.postCharge (s : State) (n a : Nat) (j : JournalRec) : State :=
  match s.sub? n with
  | none => s
  | some e =>
    if a = 0 then s.journal { j with amount := 0, short := 0, balance := e.money.balance }
    else
      let m := e.money.charged a
      let short := a - e.money.chargeApplied a
      let s := s.setSub n { e with money := m }
      let s := s.chargeTests n e.money m
      s.journal { j with amount := a, short := short, balance := m.balance, clamped := decide (0 < short) }

/-- The amount a credit of `a` is applied for (R152). -/
def Money.creditApplied (m : Money) (a : Nat) : Nat := min a (Config.balanceTop - m.balance).toNat

/-- Post a credit of `a` above 0 to a subscriber with the record `j` (R152). -/
def State.postCredit (s : State) (n a : Nat) (j : JournalRec) : State :=
  match s.sub? n with
  | none => s
  | some e =>
    let applied := e.money.creditApplied a
    let short := a - applied
    let balance := e.money.balance + applied
    let s := s.setSub n { e with money := { e.money with balance := balance } }
    let s := s.unbarTest n
    let s := if applied = 0 then s else s.rearmLow n
    s.journal { j with amount := -(a : Int), short := short, balance := balance, clamped := decide (0 < short) }

/-! ### Period close (R164, R165) -/

/-- Write the PERIOD record of a subscriber, zero its period counters and arm its usage alarm. -/
def State.closePeriod (s : State) (n : Nat) (e : Entry) : State :=
  let j := { blankRec s .period n with
    balance := e.money.balance, period := some (e.money.periodPages, e.money.periodCharges) }
  let s := s.setSub n
    { e with money := { e.money with periodPages := 0, periodCharges := 0, usageArmed := true } }
  s.writeRec j

end Sys2Proof.Machine
end

