-- ==== Sys2Proof/Machine/Windows.lean ====
section
/-! DEFINITION. The operations of the window boundary that several rows share: the counters (R56), the beginning of a
build (R72), the window-start event (R57), the withdrawal of an image (R63, R102) and the arrival in STOPPED. -/

namespace Sys2Proof.Machine

/-- The window after a window (R56, R61). -/
def windowAfter (r : Round) (w : Window) : Round × Window := if w = 31 then (r + 1, 0) else (r, w + 1)

/-- The counters advance (R56). -/
def Aclk.advance (a : Aclk) : Aclk :=
  let next := windowAfter a.round a.window
  { a with round := next.1, window := next.2 }

/-- A build begins (R72, R92): an image without placements, its layout from the detector, its view from the zone
settings as they stand. -/
def State.beginBuild (s : State) (r : Round) (w : Window) : State :=
  let image : Image :=
    { round := r, window := w, layout := s.aclk.detector.layout, view := s.txi.map ZoneCell.settings
      pages := Vector.replicate 8 [], order := [] }
  { s with wsch := { s.wsch with build := some { image := image, reached := none, closed := false, ended := false } } }

/-! ### Countdowns (R116, R121, R122) -/

/-- A countdown is lowered by one; the lowering to 0 is taken with the step that ends it (log 14). -/
def Countdown.lower (c : Countdown) : Countdown := if c.left ≤ 1 then { c with due := true } else { c with left := c.left - 1 }

/-- What a window-start event does to a record: an AWAITING one's reply wait is lowered (R116). -/
def PageRec.windowLowered (r : PageRec) : PageRec :=
  if r.state = .awaiting then { r with replyWait := r.replyWait.map Countdown.lower } else r

/-- What a round-start event does to a record besides: a HELD one's hold is lowered, and the read wait of a DELIVERED
one on the awaiting list (R121, R122). -/
def PageRec.roundLowered (awaiting : List MsgId) (r : PageRec) : PageRec :=
  match r.state with
  | .held => { r with holdWait := r.holdWait.map Countdown.lower }
  | .delivered => if r.id ∈ awaiting then { r with readWait := r.readWait.map Countdown.lower } else r
  | .queued | .retryWait | .placed | .awaiting => r

/-- The last-heard age rises by one and stays at 255 (R6). -/
def Entry.aged (e : Entry) : Entry := { e with heard := e.heard.map (fun h => { h with age := riseTo 255 h.age }) }

def State.mapRecs (s : State) (f : PageRec → PageRec) : State :=
  { s with store := { s.store with records := s.store.records.mapValues f } }

/-- The work of a round-start event, the airing and the build apart (R57): RATE applies what falls due, the last-heard
ages rise, the hold and read-wait countdowns are lowered. -/
def State.roundStart (s : State) : State :=
  let s := s.rateRoundStart
  let s := { s with subs := s.subs.mapValues Entry.aged }
  s.mapRecs (PageRec.roundLowered s.rmat.awaiting)

/-- Every zone's next order becomes its current order (R95). -/
def ZoneCell.shifted (z : ZoneCell) : ZoneCell := { z with current := z.next, next := none }

/-- The built image becomes the image on air (R84). -/
def Wsch.putOnAir (w : Wsch) : Wsch :=
  { w with onAir := w.build.map (fun b => { image := b.image, toAir := b.image.order }), build := none }

/-- The window-start event of the window the counters name (R57), one step (log 16). -/
def State.windowStart (s : State) : State :=
  let s := { s with aclk := { s.aclk with holding := .none_ } }
  let s := if s.aclk.window = 0 then s.roundStart else s
  let s := s.mapRecs PageRec.windowLowered
  let s := { s with wsch := s.wsch.putOnAir, txi := s.txi.map ZoneCell.shifted }
  let next := windowAfter s.aclk.round s.aclk.window
  s.beginBuild next.1 next.2

/-- Whether a window-start event can be issued: the build has ended and so has the airing (R60, R61, R84). -/
def State.windowReady (s : State) : Bool :=
  (match s.wsch.build with | some b => b.ended | none => false) &&
    (match s.wsch.onAir with | some o => o.toAir.isEmpty | none => true)

/-- Issue the window-start event, or hold it for the work that has not ended. -/
def State.startOrHold (s : State) : State :=
  if s.windowReady then s.windowStart else { s with aclk := { s.aclk with holding := .windowStart } }

/-! ### Withdrawal (R63, R102) -/

/-- A record leaves a withdrawn image (R63). -/
def State.withdrawRec (s : State) (m : MsgId) : State :=
  match s.rec? m with
  | none => s
  | some r =>
    match r.state with
    | .placed =>
      if r.count = 0 then
        let q := { r with state := .queued, placement := none, tag := none }
        ((s.releaseTagOf r).putRec q).fileRec q
      else
        let q := { r with state := .retryWait, placement := none, skip := 0 }
        (s.putRec q).fileRec q
    | .delivered =>
      let d := { r with late := false, placement := none }
      if r.freeAfterAiring = true then (s.putRec d).freeRec d .deliveredDone else (s.putRec d).joinAwaiting m
    | .queued | .retryWait | .awaiting | .held => s

/-- A withdraw on the link of a zone whose next order is for the withdrawn window (R102). -/
def ZoneCell.withdrawn (z : ZoneCell) (zone : Zone) (r : Round) (w : Window) : ZoneCell :=
  match z.next with
  | some o =>
    if o.round = r ∧ o.window = w then
      { z with
        next := none
        withdraws := riseTo Config.counterTop z.withdraws
        sent := z.sent ++ [.withdraw zone r w] }
    else z
  | none => z

/-- The image under build, built or not, is withdrawn (R63): its records leave it in the order they were placed (log
22), its AIR reservations are released, its orders are taken back. -/
def State.withdrawImage (s : State) : State :=
  match s.wsch.build with
  | none => s
  | some b =>
    let s := b.image.order.foldl State.withdrawRec s
    let cells := Vector.ofFn (fun (z : Zone) => s.txi[z].withdrawn z b.image.round b.image.window)
    let held := match s.office.journalMode with | .hold => b.image.order.length | .overwrite => 0
    { s with
      wsch := { s.wsch with build := none }
      txi := cells
      acct := { s.acct with airReserved := s.acct.airReserved - held } }

/-- The air arrives in STOPPED: the image on air is retired and every keying record is empty (R64, R84, R95). -/
def State.arriveStopped (s : State) : State :=
  { s with
    aclk := { s.aclk with air := .stopped, holding := .none_ }
    wsch := { s.wsch with onAir := none }
    txi := s.txi.map (fun z => { z with current := none, next := none }) }

/-- Whether the airing of the image on air is under way (R84). -/
def State.airingUnderWay (s : State) : Bool :=
  match s.wsch.onAir with
  | some o => !o.toAir.isEmpty
  | none => false

end Sys2Proof.Machine
end

