-- ==== Sys2Proof/Machine/Air.lean ====
section
/-! DEFINITION. The rows of chapter 4: AIR START and AIR STOP, the window boundaries, and the strobes of the timing
reference. -/

namespace Sys2Proof.Machine

/-! ### AIR START and AIR STOP (R59, R62) -/

/-- The counters as fields of an answer. -/
def counterFields (s : State) : List Field := [(str "ROUND", .num s.aclk.round), (str "WINDOW", .num s.aclk.window)]

def checkAirStart (s : State) (fs : List RawField) : Except Denial Unit := do
  checkNoFields fs
  refuseIf (s.aclk.air != .stopped) .airRunning

def applyAirStart (tag : Nat) (s : State) : State :=
  let s := { s with aclk := { s.aclk with air := .starting } }
  let s := s.beginBuild s.aclk.round s.aclk.window
  s.reply tag .ok ((str "STATE", .word (str "STARTING")) :: counterFields s)

/-- AIR START (R59). -/
def execAirStart (s : State) : Host.Outcome State Fault Refusal :=
  takeLine .airStart (fun tag fs s => carry tag (checkAirStart s fs) (fun _ s => applyAirStart tag s) s) s

def checkAirStop (s : State) (fs : List RawField) : Except Denial Unit := do
  checkNoFields fs
  refuseIf (s.aclk.air == .stopped) .airStopped

/-- AIR STOP in STARTING (R62): the lead-in ends at once. -/
def stopStarting (s : State) : State := s.withdrawImage.arriveStopped

/-- AIR STOP in RUNNING (R62). With a window-start event held, that event's image is withdrawn and the event is never
issued: the air stops at once, or, with the airing of the image on air under way, when that airing ends, without
a further advance. -/
def stopRunning (s : State) : State :=
  let s' := s.withdrawImage
  if s.aclk.holding = .windowStart then
    if s.airingUnderWay then { s' with aclk := { s'.aclk with air := .stopping, holding := .stop } }
    else s'.arriveStopped
  else { s' with aclk := { s'.aclk with air := .stopping, holding := .none_ } }

def applyAirStop (tag : Nat) (s : State) : State :=
  let answered (s : State) : State := s.reply tag .ok ((str "STATE", .word s.aclk.air.name) :: counterFields s)
  match s.aclk.air with
  | .stopped => s
  | .starting => answered (stopStarting s)
  | .running => answered (stopRunning s)
  | .stopping => s.reply tag .ok [(str "STATE", .word (str "STOPPING"))]

/-- AIR STOP (R62). -/
def execAirStop (s : State) : Host.Outcome State Fault Refusal :=
  takeLine .airStop (fun tag fs s => carry tag (checkAirStop s fs) (fun _ s => applyAirStop tag s) s) s

/-! ### Boundaries (R60, R61, R64). In an air state that has no such boundary nothing happens (log 1). -/

/-- LEAD_IN_END (R60): RUNNING, and the window-start event of the window the counters name, or the event held for the
lead-in build (log 17). -/
def execLeadInEnd (s : State) : Host.Outcome State Fault Refusal :=
  match s.aclk.air with
  | .starting => done { s with aclk := { s.aclk with air := .running } }.startOrHold
  | .stopped => .next s
  | .running => .next s
  | .stopping => .next s

/-- WINDOW_BOUNDARY (R61): the counters advance and the next window-start event is issued or held. While an event is
held its window has not begun, so no boundary can end it. -/
def execWindowBoundary (s : State) : Host.Outcome State Fault Refusal :=
  if s.aclk.air = .running ∧ s.aclk.holding = .none_ then
    done { s with aclk := s.aclk.advance }.startOrHold
  else .next s

/-- HELD_WINDOW_START (R60, R61, R84): the held event is issued once the build and the airing have ended. -/
def execHeldWindowStart (s : State) : Host.Outcome State Fault Refusal :=
  if s.aclk.air = .running ∧ s.aclk.holding = .windowStart ∧ s.windowReady = true then done s.windowStart
  else .next s

/-- STOPPING_WINDOW_END (R64): the counters advance and the air becomes STOPPED; an airing still under way is waited
for (log 18). -/
def execStoppingWindowEnd (s : State) : Host.Outcome State Fault Refusal :=
  if s.aclk.air = .stopping ∧ s.aclk.holding = .none_ then
    if s.airingUnderWay then done { s with aclk := { s.aclk with holding := .windowEnd } }
    else done { s with aclk := s.aclk.advance }.arriveStopped
  else .next s

/-! ### Strobes (R65) -/

/-- STROBE (R65): it counts once, by its own mark. -/
def execStrobe (good : Bool) (s : State) : Host.Outcome State Fault Refusal := done (s.countStrobe good)

/-- MISSING_STROBE (R65): a bad strobe is counted. -/
def execMissingStrobe (s : State) : Host.Outcome State Fault Refusal := done (s.countStrobe false)

end Sys2Proof.Machine
end

