-- ==== Sys2Proof/Machine/Airing.lean ====
section
/-! DEFINITION. The rows that move aired records on: the airing of a record (R84 to R88), the end of a reply wait (R117
to R120), of a hold (R121) and of a read wait (R122). -/

namespace Sys2Proof.Machine

/-! ### The airing of one record (R85 to R88) -/

/-- The AIR record of an airing before its posting (R156): round and window are those of the airing. -/
def airRec (s : State) (im : Image) (r : PageRec) (cls : AttemptClass) (waived : Bool) : JournalRec :=
  { blankRec s .air r.sub with
    round := im.round, window := im.window, waived := waived, late := r.late, msg := some r.id
    air := some
      { cls := cls, zones := (r.lastZones.getD []).length, blocks := r.blocks, version := s.rate.version
        origin := r.origin } }

/-- A FIRST airing raises period pages (R148). -/
def State.countPage (s : State) (n : Nat) (cls : AttemptClass) : State :=
  if cls = .first then s.modMoney n (fun m => { m with periodPages := riseTo Config.counterTop m.periodPages }) else s

/-- The placement's AIR reservation becomes the AIR record (R157). -/
def State.releaseAir (s : State) : State :=
  match s.office.journalMode with
  | .hold => { s with acct := { s.acct with airReserved := s.acct.airReserved - 1 } }
  | .overwrite => s

/-- Steps 1 to 5 of R85: the attempt counted, the amount posted and journaled, the reservation released. Answers the
record as these steps leave it. -/
def State.airPost (s : State) (im : Image) (r : PageRec) (e : Entry) : State × PageRec :=
  let count := r.count + 1
  let cls := attemptClass r.series e.kind count
  let price := s.airingPrice r e cls (r.lastZones.getD []).length
  let applied := if price.amount = 0 then 0 else e.money.chargeApplied price.amount
  let j := airRec s im r cls price.waived
  let s := s.releaseAir.postCharge r.sub price.amount j
  let s := s.countPage r.sub cls
  let r := { r with count := count, posted := r.posted + applied }
  if cls = .first then
    (s.releaseReservation r, { r with reservation := none, firstCharge := some price.amount })
  else (s, r)

/-- Where an aired record goes (R86 to R88). -/
def State.airMove (s : State) (r : PageRec) (e : Entry) : State :=
  let r := { r with placement := none }
  match r.state with
  | .delivered =>
    if r.freeAfterAiring then (s.putRec r).freeRec r .deliveredDone else (s.putRec r).joinAwaiting r.id
  | .queued | .retryWait | .placed | .awaiting | .held =>
    match e.kind with
    | .twoWay =>
      (s.putRec { r with state := .awaiting, replyWait := some { left := s.office.replyWait, due := false } }).joinAwaiting
        r.id
    | .oneWay =>
      if r.count < r.limit then
        let q := { r with state := .retryWait, skip := 0 }
        (s.putRec q).fileRec q
      else (s.putRec r).freeRec r .sent

/-- The airing of the record a message id names. -/
def State.airOne (s : State) (im : Image) (m : MsgId) : State :=
  match s.rec? m with
  | none => s
  | some r =>
    match s.sub? r.sub with
    | none => s
    | some e =>
      let posted := s.airPost im r e
      posted.1.airMove posted.2 e

/-- When an airing has ended, what was held for it and has no row of its own happens (R62, R64, log 18). -/
def State.afterAiring (s : State) : State :=
  if s.airingUnderWay then s
  else
    match s.aclk.holding with
    | .windowEnd => { s with aclk := s.aclk.advance }.arriveStopped
    | .stop => s.arriveStopped
    | .none_ => s
    | .windowStart => s

/-- AIRING_RECORD (R84, R85): the next record of the image on air, in the order of placing. -/
def execAiringRecord (s : State) : Host.Outcome State Fault Refusal :=
  match s.wsch.onAir with
  | some { image := im, toAir := m :: rest } =>
    let s := { s with wsch := { s.wsch with onAir := some { image := im, toAir := rest } } }
    done (s.airOne im m).afterAiring
  | some { image := _, toAir := [] } => .next s
  | none => .next s

/-! ### Countdowns that have run out -/

/-- Whether a countdown has run out and its end is due (log 14). -/
def ranOut (c : Option Countdown) : Bool := match c with | some c => c.due | none => false

/-- The record's copied backoff after attempt `k` (R10, R118). -/
def Terms.backoffAfter (t : Terms) (k : Nat) : Nat := t.backoff.toList.getD (k - 1) 1

/-- A retry (R118). -/
def State.retry (s : State) (r : PageRec) : State :=
  let q := { r with state := .retryWait, replyWait := none, skip := r.terms.backoffAfter r.count - 1 }
  ((s.leaveAwaiting r.id).putRec q).fileRec q

/-- The refund of a miss (R120, R141): the amount, 0 when none is made. -/
def PageRec.refund (r : PageRec) : Nat :=
  if r.series = .first ∧ r.refunded = false then percentOf r.posted r.terms.refundPct else 0

/-- The refund is posted; answers the amount applied. -/
def State.postRefund (s : State) (r : PageRec) : State × Nat :=
  match s.sub? r.sub with
  | none => (s, 0)
  | some e =>
    if r.refund = 0 then (s, 0)
    else
      (s.postCredit r.sub r.refund { blankRec s .refund r.sub with msg := some r.id }, e.money.creditApplied r.refund)

/-- A miss (R119, R120). -/
def State.miss (s : State) (r : PageRec) : State :=
  let h :=
    { r with
      state := .held, replyWait := none, tag := none
      holdWait := some { left := r.terms.hold, due := false }
      refunded := r.refunded || r.series == .first }
  let s := (s.leaveAwaiting r.id).putRec h
  let s := s.holdRec h
  let s := s.releaseTagOf r
  let posted := s.postRefund r
  posted.1.raise .pageMissed
    [(str "MSG", .msg r.id), (str "SUB", .num r.sub), (str "SERIES", .word r.series.name), (str "COUNT", .num r.count),
     (str "REFUND", .num posted.2)]

/-- The three outcomes of an expiry (R117). -/
def State.expire (s : State) (r : PageRec) : State :=
  if r.cancelled then s.freeRec { r with replyWait := none } .cancelled
  else if r.count < r.limit then s.retry r
  else s.miss r

/-- REPLY_WAIT_EXPIRY (R116, R117): the first record of the awaiting list whose reply wait has run out. -/
def execReplyWaitExpiry (s : State) : Host.Outcome State Fault Refusal :=
  match (s.rmat.awaiting.filterMap s.rec?).find? (fun r => r.state == .awaiting && ranOut r.replyWait) with
  | some r => done (s.expire r)
  | none => .next s

/-- HOLD_END (R121) of a held record whose hold has run out (log 15). -/
def execHoldEnd (msg : MsgId) (s : State) : Host.Outcome State Fault Refusal :=
  match s.rec? msg with
  | some r => if r.state = .held ∧ ranOut r.holdWait = true then done (s.freeRec r .expired) else .next s
  | none => .next s

/-- READ_WAIT_END (R122): the first DELIVERED record of the awaiting list whose read wait has run out. -/
def execReadWaitEnd (s : State) : Host.Outcome State Fault Refusal :=
  match (s.rmat.awaiting.filterMap s.rec?).find? (fun r => r.state == .delivered && ranOut r.readWait) with
  | some r => done (s.freeRec r .deliveredDone)
  | none => .next s

end Sys2Proof.Machine
end

