-- ==== Sys2Proof/Machine/Billing.lean ====
section
/-! DEFINITION. The rows over the billing journal and the periods: BILL READ (R162), BILL REWIND (R163), PERIOD CLOSE
(R164), PERIOD CLOSE ALL (R165) and the visits of the sweep (R165, R166). -/

namespace Sys2Proof.Machine

/-! ### BILL READ -/

/-- The flags of a record, in the order of 11.2. -/
def JournalRec.flags (j : JournalRec) : List Text :=
  (if j.waived then [str "WAIVED"] else []) ++ (if j.late then [str "LATE"] else []) ++
    if j.clamped then [str "CLAMPED"] else []

/-- The data line of a record (11.2); a field its kind does not carry is left out. -/
def journalFields (j : JournalRec) : List Field :=
  [(str "SEQ", .num j.seq.toNat), (str "KIND", .word j.kind.name), (str "SUB", .num j.sub)] ++
  (match j.msg with | some m => [(str "MSG", .msg m)] | none => []) ++
  (match j.air with | some a => [(str "CLASS", .word a.cls.name)] | none => []) ++
  [(str "ROUND", .num j.round), (str "WINDOW", .num j.window), (str "AMOUNT", .int j.amount),
   (str "SHORT", .num j.short), (str "BALANCE", .int j.balance), (str "FLAGS", .words j.flags)] ++
  (match j.air with
    | some a => [(str "Z", .num a.zones), (str "N", .num a.blocks), (str "VER", .num a.version.toNat),
        (str "ORIGIN", .num a.origin)]
    | none => []) ++
  (match j.ref with | some r => [(str "REF", .num r)] | none => []) ++
  (match j.period with | some p => [(str "PPAGES", .num p.1), (str "PCHARGES", .num p.2)] | none => [])

/-- Where the unread records begin in the ring. -/
def Acct.unreadFrom (a : Acct) : Nat := a.ring.length - a.unread

/-- The unread records, in sequence order. -/
def Acct.unreadRecs (a : Acct) : List JournalRec := a.ring.drop a.unreadFrom

def applyBillRead (tag count : Nat) (s : State) : State :=
  let recs := s.acct.unreadRecs.take count
  let overflow := s.acct.overflow
  let cursor := s.acct.cursor + BitVec.ofNat 32 recs.length
  let s := { s with acct := { s.acct with cursor := cursor, overflow := 0 } }
  let s := s.report tag (recs.map journalFields)
    [(str "COUNT", .num recs.length), (str "UNREAD", .num s.acct.unread), (str "OVERFLOW", .num overflow)]
  let s := if s.acct.unread < s.office.journalHigh then { s with acct := { s.acct with highLatch := false } } else s
  if s.office.clearOnRead then
    { s with hlc := { s.hlc with flags := s.hlc.flags.set NoticeKind.journalHigh.index false } }
  else s

/-- BILL READ (R162). -/
def execBillRead (s : State) : Host.Outcome State Fault Refusal :=
  takeLine .billRead
    (fun tag fs s =>
      carry tag (checkForm [keyForm "COUNT" (readIn 1 8)] [] fs)
        (fun _ s => applyBillRead tag ((fieldOf fs "COUNT" (readIn 1 8)).getD 1) s) s) s

/-! ### BILL REWIND -/

/-- A sequence number (log 9). -/
def readSeq (t : Text) : Option (BitVec 32) := (readIn 0 4294967295 t).map (BitVec.ofNat 32)

/-- The place of a record in the ring. -/
def Acct.place? (a : Acct) (seq : BitVec 32) : Option Nat := a.ring.findIdx? (fun j => j.seq == seq)

/-- What a rewind that passes its checks does. -/
inductive Rewind where
  /-- SEQ names an unread record: nothing moves -/
  | stay
  | back (seq : BitVec 32)
  deriving DecidableEq, Repr

/-- Steps 1 to 3 of R163. -/
def checkBillRewind (s : State) (fs : List RawField) : Except Denial Rewind := do
  checkForm [keyForm "SEQ" readSeq] ["SEQ"] fs
  let seq ← need (fieldOf fs "SEQ" readSeq) "SEQ"
  match s.acct.place? seq with
  | none => .error (.refusal .notRetained [])
  | some i =>
    if s.acct.unreadFrom ≤ i then .ok .stay
    else
      let k := s.acct.unreadFrom - i
      if s.office.journalMode = .hold ∧ Config.journal - Config.reserve < k + s.acct.unread + s.acct.airReserved then
        .error (.refusal .noRoom [])
      else .ok (.back seq)

/-- Either way the rewind is taken, and JOURNAL_HIGH is judged (R161, log 23). -/
def applyBillRewind (tag : Nat) (r : Rewind) (s : State) : State :=
  match r with
  | .stay => (s.reply tag .ok [(str "CURSOR", .num s.acct.cursor.toNat)]).judgeJournalHigh
  | .back seq =>
    let s := { s with acct := { s.acct with cursor := seq } }
    (s.reply tag .ok [(str "CURSOR", .num seq.toNat), (str "UNREAD", .num s.acct.unread)]).judgeJournalHigh

/-- BILL REWIND (R163). -/
def execBillRewind (s : State) : Host.Outcome State Fault Refusal :=
  takeLine .billRewind (fun tag fs s => carry tag (checkBillRewind s fs) (applyBillRewind tag) s) s

/-! ### PERIOD CLOSE and PERIOD CLOSE ALL -/

/-- The checks of R164 in their order. -/
def checkPeriodClose (s : State) (fs : List RawField) : Except Denial (Nat × Entry) := do
  checkForm [keyForm "SUB" readNat] ["SUB"] fs
  let n ← subscriberNumber fs
  refuseIf s.acct.sweep.isSome .sweepActive
  let e ← presentEntry s n
  refuseIf s.journalFull .journalFull
  .ok (n, e)

def applyPeriodClose (tag : Nat) (ne : Nat × Entry) (s : State) : State :=
  let seq := s.acct.nextSeq
  (s.closePeriod ne.1 ne.2).reply tag .ok
    [(str "SUB", .num ne.1), (str "PPAGES", .num ne.2.money.periodPages),
     (str "PCHARGES", .num ne.2.money.periodCharges), (str "SEQ", .num seq.toNat)]

/-- PERIOD CLOSE with SUB (R164). -/
def execPeriodClose (s : State) : Host.Outcome State Fault Refusal :=
  takeLine .periodClose (fun tag fs s => carry tag (checkPeriodClose s fs) (applyPeriodClose tag) s) s

/-- The checks of R165. -/
def checkPeriodCloseAll (s : State) (fs : List RawField) : Except Denial Unit := do
  checkNoFields fs
  refuseIf s.acct.sweep.isSome .sweepActive

def applyPeriodCloseAll (tag : Nat) (s : State) : State :=
  { s with acct := { s.acct with sweep := some { cursor := 0, closed := 0, paused := false } } }.reply tag .ok
    [(str "STATE", .word (str "RUNNING"))]

/-- PERIOD CLOSE ALL (R165). -/
def execPeriodCloseAll (s : State) : Host.Outcome State Fault Refusal :=
  takeLine .periodCloseAll
    (fun tag fs s => carry tag (checkPeriodCloseAll s fs) (fun _ s => applyPeriodCloseAll tag s) s) s

/-! ### The visits of the sweep -/

/-- The cursor moves on; from 4095 the sweep ends (R165). -/
def State.sweepOn (s : State) (cursor closed : Nat) : State :=
  if cursor + 1 < Config.subscribers then
    { s with acct := { s.acct with sweep := some { cursor := cursor + 1, closed := closed, paused := false } } }
  else
    { s with acct := { s.acct with sweep := none } }.raise .periodDone
      [(str "CLOSED", .num closed), (str "ROUND", .num s.aclk.round)]

/-- The visit to the subscriber at the cursor (R165). -/
def State.visit (s : State) (w : Sweep) : State :=
  match s.sub? w.cursor with
  | none => s.sweepOn w.cursor w.closed
  | some e =>
    if s.journalFull then { s with acct := { s.acct with sweep := some { w with paused := true } } }
    else (s.closePeriod w.cursor e).sweepOn w.cursor (w.closed + 1)

/-- SWEEP_VISIT (R165, R166). With no sweep running there is nothing to visit. -/
def execSweepVisit (s : State) : Host.Outcome State Fault Refusal :=
  match s.acct.sweep with
  | some w => done (s.visit w)
  | none => .next s

end Sys2Proof.Machine
end

