-- ==== Sys2Proof/Machine/Builder.lean ====
section
/-! DEFINITION. The rows of a build: the walk, record by record (R73 to R83), and the end of the build with its window
orders (R93 to R100). -/

namespace Sys2Proof.Machine

/-! ### Zone set (R76) -/

/-- A zone's settings in the image's view. -/
def Image.zone (im : Image) (z : Zone) : ZoneSettings := im.view[z]

def Image.inService (im : Image) (z : Zone) : Bool := (im.zone z).state == .inService

/-- The zone set of attempt `k` before reduction. -/
def attemptZones (zoneMemory k : Nat) (e : Entry) (im : Image) : ZoneSet :=
  if k = 1 then
    match e.heard with
    | some h => if h.age ≤ zoneMemory ∧ im.inService h.zone = true then [h.zone] else e.zones
    | none => e.zones
  else if k = 2 then e.zones else allZones

/-- The zone set of a record's next attempt, reduced to zones in service. -/
def reducedZones (zoneMemory : Nat) (r : PageRec) (e : Entry) (im : Image) : ZoneSet :=
  (attemptZones zoneMemory (r.count + 1) e im).filter im.inService

/-! ### Positions (R79, R80) -/

/-- Whether positions p to p + n - 1 of a zone are free. -/
def Image.runFree (im : Image) (z : Zone) (p n : Nat) : Bool :=
  im.pages[z].all (fun q => q.first + q.blocks ≤ p || p + n ≤ q.first)

/-- The lowest first position from `lo` on, the run ending at `hi` at the latest, that a test passes. -/
def lowestRun (lo hi n : Nat) (free : Nat → Bool) : Option Nat :=
  ((List.range (hi + 2 - n - lo)).map (fun i => lo + i)).find? free

/-- The runs of a page in a LOCKED image: one run free in every zone (R79). -/
def Image.lockedRuns (im : Image) (zones : ZoneSet) (n : Nat) : Option (List (Zone × Nat)) :=
  (lowestRun 2 63 n (fun p => zones.all (fun z => im.runFree z p n))).map (fun p => zones.map (fun z => (z, p)))

/-- The run of a page in one zone of a DEGRADED image. -/
def Image.zoneRun (im : Image) (n : Nat) (z : Zone) : Option (Zone × Nat) :=
  let range := usableRange .degraded (im.zone z).color
  (lowestRun range.1 range.2 n (fun p => im.runFree z p n)).map (fun p => (z, p))

/-- The runs of a page in a DEGRADED image: one in each zone, or none at all (R80). -/
def Image.degradedRuns (im : Image) (zones : ZoneSet) (n : Nat) : Option (List (Zone × Nat)) := zones.mapM (im.zoneRun n)

def Image.runs (im : Image) (zones : ZoneSet) (n : Nat) : Option (List (Zone × Nat)) :=
  match im.layout with
  | .locked => im.lockedRuns zones n
  | .degraded => im.degradedRuns zones n

/-! ### Placement (R82) -/

/-- Put an entry into a placement list, ordered by position. -/
def insertPlace (q : PagePlace) : List PagePlace → List PagePlace
  | [] => [q]
  | x :: xs => if q.first < x.first then q :: x :: xs else x :: insertPlace q xs

/-- An image with a page placed at the runs found. -/
def Image.placed (im : Image) (m : MsgId) (n : Nat) (runs : List (Zone × Nat)) : Image :=
  { im with
    pages := runs.foldl
      (fun (pages : Vector (List PagePlace) 8) (zp : Zone × Nat) =>
        pages.set zp.1 (insertPlace { first := zp.2, id := m, blocks := n } pages[zp.1])) im.pages
    order := im.order ++ [m] }

/-- The tag a placement gives (R82 step 3): a two-way record that holds none takes the lowest free one. -/
def placementTag (r : PageRec) (e : Entry) : Option PageTag :=
  match e.kind, r.tag with
  | .twoWay, none => e.freeTag
  | .twoWay, some t => some t
  | .oneWay, t => t

/-- The record as its placement leaves it (R82 steps 1 to 3). -/
def PageRec.placedIn (r : PageRec) (im : Image) (zones : ZoneSet) (runs : List (Zone × Nat)) (tag : Option PageTag) :
    PageRec :=
  { r with
    state := .placed, lastZones := some zones, tag := tag
    placement := some { round := im.round, window := im.window, layout := im.layout, firsts := runs } }

/-- An AIR reservation is counted in HOLD mode (R157). -/
def State.reserveAir (s : State) : State :=
  match s.office.journalMode with
  | .hold => { s with acct := { s.acct with airReserved := s.acct.airReserved + 1 } }
  | .overwrite => s

def State.setBuild (s : State) (b : Build) : State := { s with wsch := { s.wsch with build := some b } }

/-- Place a record (R82), one step. -/
def State.placeRec (s : State) (b : Build) (r : PageRec) (e : Entry) (zones : ZoneSet) (runs : List (Zone × Nat)) :
    State :=
  let tag := placementTag r e
  let s := s.unfile r
  let s := s.putRec (r.placedIn b.image zones runs tag)
  let s := match tag with | some t => s.setSub r.sub (e.holdTag t) | none => s
  let s := s.reserveAir
  s.setBuild { b with image := b.image.placed r.id r.blocks runs }

/-! ### The walk (R73 to R83) -/

/-- Whether the journal has room for one more airing (R78). -/
def State.roomToPlace (s : State) : Bool :=
  s.office.journalMode == .overwrite || decide (Config.reserve + s.acct.airReserved + 1 ≤ s.acct.freeEntries)

/-- A record deferred as oversize: OVERSIZE is raised once in a loss of lock (R81). -/
def State.deferOversize (s : State) (r : PageRec) : State :=
  let s := s.deferRec r
  if r.id ∈ s.wsch.oversize then s
  else
    { s with wsch := { s.wsch with oversize := s.wsch.oversize ++ [r.id] } }.raise .oversize
      [(str "MSG", .msg r.id), (str "N", .num r.blocks)]

/-- The third to sixth step of the walk for a record of an ACTIVE subscriber with skip count 0 (R76 to R83); `b` is the
build that has reached it. -/
def State.offer (s : State) (b : Build) (r : PageRec) (e : Entry) : State :=
  if b.closed then s.deferRec r
  else
    let zones := reducedZones s.office.zoneMemory r e b.image
    if zones = [] then s.deferRec r
    else if e.kind = .twoWay ∧ r.tag = none ∧ e.freeTag = none then s.deferRec r
    else if s.roomToPlace = false then (s.deferRec r).setBuild { b with closed := true }
    else if b.image.layout = .degraded ∧ 30 < r.blocks then s.deferOversize r
    else
      match b.image.runs zones r.blocks with
      | none => s.deferRec r
      | some runs => s.placeRec b r e zones runs

/-- The walk treats the record it has reached (R74, R75). -/
def State.walk (s : State) (b : Build) (r : PageRec) : State :=
  let b := { b with reached := some r.queuePlace }
  let s := s.setBuild b
  match s.sub? r.sub with
  | none => s
  | some e =>
    match e.state with
    | .suspended => s
    | .active => if 0 < r.skip then s.putRec { r with skip := r.skip - 1 } else s.offer b r e

/-- Whether a queued record stands where the walk has not yet been (R73). -/
def Build.beyond (b : Build) (r : PageRec) : Bool :=
  match b.reached with
  | none => true
  | some p => p.ahead r.queuePlace

/-- The next record of the walk. -/
def State.nextOfWalk (s : State) (b : Build) : Option PageRec :=
  ((s.queue b.image.window).filterMap s.rec?).find? b.beyond

/-- WALK_RECORD (R73): the walk reaches one record. With no walk under way, or none left to reach, there is no such
step. -/
def execWalkRecord (s : State) : Host.Outcome State Fault Refusal :=
  match s.wsch.build with
  | none => .next s
  | some b =>
    if b.ended then .next s
    else
      match s.nextOfWalk b with
      | some r => done (s.walk b r)
      | none => .next s

/-! ### Window orders (R93 to R100) -/

/-- Write blocks over a list of slots from a position on; what would stand past the end is not written. -/
def overlay : List Block → Nat → List Block → List Block
  | [], _, _ => []
  | x :: xs, 0, [] => x :: xs
  | _ :: xs, 0, b :: bs => b :: overlay xs 0 bs
  | x :: xs, p + 1, bs => x :: overlay xs p bs

/-- The address block of a page (R46): the class is that of the airing the placement makes. -/
def addressBlock (r : PageRec) (e : Entry) : Block :=
  withCheck (addressPayload e.addr (e.kind == .twoWay) (r.tag.getD 0) r.enc (r.blocks - 1)
    (attemptClass r.series e.kind (r.count + 1)))

/-- The text on air, which is the kept text (R47): as the chunks hold it (R94), and of a record delivered before its
orders are made, whose chunks are back in the pool (R111), the text it was accepted with (log 12). -/
def PageRec.airText (r : PageRec) : Text :=
  match r.state with
  | .delivered => r.kept
  | .queued | .retryWait | .placed | .awaiting | .held => r.text

/-- The text blocks of a page (R47, R94). -/
def pageTextBlocks (r : PageRec) : List Block := textBlocks r.enc r.airText (r.blocks - 1)

/-- The blocks of a page. -/
def State.pageBlocks (s : State) (m : MsgId) : List Block :=
  match s.rec? m with
  | none => []
  | some r => match s.sub? r.sub with
    | none => []
    | some e => addressBlock r e :: pageTextBlocks r

def idleSlots : List Block := List.replicate 64 idleBlock

/-- The block slots of a scheduled order (R94). -/
def State.scheduledSlots (s : State) (im : Image) (z : Zone) : List Block :=
  let color := (im.zone z).color
  let header := headerBlock im.round im.window color im.pages[z].length (im.layout == .locked) false
  let start := overlay idleSlots (syncPosition im.layout color) [syncBlock, header]
  im.pages[z].foldl (fun slots q => overlay slots q.first (s.pageBlocks q.id)) start

/-- The block slots of a test order (R100). -/
def testSlots (im : Image) (z : Zone) (layout : Layout) : List Block :=
  syncBlock :: headerBlock im.round im.window (im.zone z).color 0 (layout == .locked) true :: List.replicate 62 testBlock

/-- The last used position of a zone: the end of its last page (R96). -/
def lastUsed (pages : List PagePlace) : Nat := pages.foldl (fun m q => max m (q.first + q.blocks - 1)) 0

/-- What the keying record keeps of a scheduled order: the key envelope (R96). -/
def scheduledInfo (im : Image) (z : Zone) : OrderInfo :=
  let v := im.zone z
  { round := im.round, window := im.window, kind := .scheduled
    keyOn := (syncPosition im.layout v.color : Int) - v.lead
    keyOff := lastUsed im.pages[z] + 1 + v.tail }

/-- What the keying record keeps of a test order (R100). -/
def testInfo (im : Image) : OrderInfo :=
  { round := im.round, window := im.window, kind := .test, keyOn := 0, keyOff := 64 }

/-- The gap between the keying of two successive windows (R98). -/
def keyGap (current new : OrderInfo) : Int := 64 + new.keyOn - current.keyOff

/-- The bridge flag of a new order (R98). -/
def bridgeFlag (current : Option OrderInfo) (new : OrderInfo) (minGap : Nat) : Bool :=
  match current with
  | none => false
  | some c =>
    if windowAfter c.round c.window = (new.round, new.window) then
      decide (keyGap c new < minGap) || decide (keyGap c new ≤ 0)
    else false

/-- An order is sent on its link: it becomes the zone's next order and is counted (R95, R98, R104). -/
def ZoneCell.sendOrder (c : ZoneCell) (z : Zone) (info : OrderInfo) (layout : Layout) (minGap : Nat)
    (slots : List Block) : ZoneCell :=
  let bridge := bridgeFlag c.current info minGap
  { c with
    next := some info
    orders := match info.kind with | .scheduled => riseTo Config.counterTop c.orders | .test => c.orders
    tests := match info.kind with | .scheduled => c.tests | .test => riseTo Config.counterTop c.tests
    bridges := if bridge then riseTo Config.counterTop c.bridges else c.bridges
    sent := c.sent ++ [.order z info layout bridge slots] }

/-- What a zone is sent for a built image, by its state in the image's view (R93). -/
def State.orderFor (s : State) (im : Image) (z : Zone) (c : ZoneCell) : ZoneCell :=
  let v := im.zone z
  match v.state with
  | .inService =>
    if im.pages[z] = [] then c
    else c.sendOrder z (scheduledInfo im z) im.layout v.gap (s.scheduledSlots im z)
  | .test =>
    let layout := s.aclk.detector.layout
    c.sendOrder z (testInfo im) layout v.gap (testSlots im z layout)
  | .outOfService => c

/-- The walk has ended: TXI makes and sends the orders, and the image is built (R93). -/
def State.endBuild (s : State) (b : Build) : State :=
  let cells := Vector.ofFn (fun (z : Zone) => s.orderFor b.image z s.txi[z])
  { s with txi := cells }.setBuild { b with ended := true }

/-- BUILD_END (R73, R93): the walk has passed the tail of the queue. -/
def execBuildEnd (s : State) : Host.Outcome State Fault Refusal :=
  match s.wsch.build with
  | none => .next s
  | some b =>
    if b.ended then .next s
    else
      match s.nextOfWalk b with
      | some _ => .next s
      | none => done (s.endBuild b)

end Sys2Proof.Machine
end

