-- ==== Sys2Proof/Machine/HostLine.lean ====
section
/-! DEFINITION. The rows of the host line (chapter 10): lines received and sent, unknown commands, notice levels,
STATUS, the office settings, and the warm and cold start. -/

namespace Sys2Proof.Machine

/-- COLD_START (R181): every piece of state takes its cold-start value. Commands the sender has queued are not the
controller's state and stay (log 31). -/
def execColdStart (s : State) : Host.Outcome State Fault Refusal := .next { State.reset with pending := s.pending }

/-- A judged line is offered to the command buffer; at a full one it is answered BUSY_LINE (R169). -/
def Hlc.offer (h : Hlc) (l : CmdLine) : Hlc :=
  if h.buffer.length < Config.bufferLines then { h with buffer := h.buffer ++ [l] }
  else { h with busy := h.busy ++ [l.tag] }

/-- COMMAND_LINE (R168, R169, R182). -/
def execCommandLine (chars : Text) (s : State) : Host.Outcome State Fault Refusal :=
  match judgeLine chars with
  | some l => done { s with hlc := s.hlc.offer l }
  | none => done { s with hlc := { s.hlc with badLine := riseTo Config.counterTop s.hlc.badLine } }

/-- LINE_SENT (R171): the HLC chooses what goes next. With no line being sent, none can have been. -/
def execLineSent (s : State) : Host.Outcome State Fault Refusal :=
  match s.hlc.sending with
  | some _ => done { s with hlc := { s.hlc with sending := none } }
  | none => .next s

/-- BAD_COMMAND (R170): the head line's words name no command. -/
def execBadCommand (s : State) : Host.Outcome State Fault Refusal :=
  match s.hlc.buffer with
  | l :: rest =>
    if l.command = none then
      done ({ s with hlc := { s.hlc with buffer := rest } }.reply l.tag (.refused .badCommand) [])
    else .next s
  | [] => .next s

/-! ### NOTICE LEVELS (R174) -/

/-- The level a field gives. -/
def readLevel (t : Text) : Option (Fin 4) := readFin 4 t

def levelForms : List KeyForm := NoticeKind.all.map (fun k => (k.name, fun t => (readLevel t).isSome))

/-- The changes of a NOTICE LEVELS line in the order of its fields. -/
def levelChanges (fs : List RawField) : List (NoticeKind × Fin 4) :=
  fs.filterMap (fun f =>
    match NoticeKind.ofName f.key, f.value.bind readLevel with
    | some k, some v => some (k, v)
    | _, _ => none)

def applyLevels (tag : Nat) (fs : List RawField) (s : State) : State :=
  match fs with
  | [] => s.report tag [NoticeKind.all.map (fun k => (k.name, .num (s.hlc.level k)))] []
  | _ :: _ =>
    let change (h : Hlc) (c : NoticeKind × Fin 4) : Hlc := h.setLevel c.1 c.2
    { s with hlc := (levelChanges fs).foldl change s.hlc }.reply tag .ok []

/-- NOTICE LEVELS (R174). -/
def execNoticeLevels (s : State) : Host.Outcome State Fault Refusal :=
  takeLine .noticeLevels
    (fun tag fs s => carry tag (checkForm levelForms [] fs) (fun _ s => applyLevels tag fs s) s) s

/-! ### STATUS (R176, R177) -/

/-- The detector's state as a value: ACQUIRING with its count (11.1). -/
def Detector.value : Detector → Value
  | .unlocked => .word (str "UNLOCKED")
  | .acquiring k => .acquiring k
  | .locked => .word (str "LOCKED")

/-- The kinds whose flags are set, in the order of the kinds table. -/
def Hlc.setKinds (h : Hlc) : List NoticeKind := NoticeKind.all.filter (fun k => h.flags[k.index])

/-- The four data lines of STATUS. -/
def statusLines (s : State) : List (List Field) :=
  [ [(str "START", .word s.hlc.start.name), (str "AIR", .word s.aclk.air.name), (str "LOCK", s.aclk.detector.value),
     (str "ROUND", .num s.aclk.round), (str "WINDOW", .num s.aclk.window),
     (str "CONGEST", .word (onOff s.store.congested)),
     (str "SWEEP", match s.acct.sweep with | some w => .num w.cursor | none => .none_)],
    [(str "FREEREC", .num s.freeRecords), (str "FREECHUNK", .num s.freeChunks),
     (str "MODE", .word s.office.journalMode.name), (str "UNREAD", .num s.acct.unread),
     (str "FREE", .num s.acct.freeEntries), (str "RESERVED", .num s.acct.airReserved),
     (str "OPEN", .num s.acct.openEntries)],
    [(str "CONDITIONS", .words (s.hlc.setKinds.map NoticeKind.name)), (str "NOTICES", .num s.hlc.notices.length),
     (str "REPLIES", .num s.rxi.replies.length), (str "BUFFER", .num s.hlc.buffer.length)],
    [(str "BADLINE", .num s.hlc.badLine), (str "NOISE", .num s.rxi.noise), (str "UNKNOWN", .num s.rmat.unknown),
     (str "UNEXPECTED", .num s.rmat.unexpected), (str "STALE", .num s.rmat.stale),
     (str "DUPLICATE", .num s.rmat.duplicate), (str "OVERFLOW", .num s.rxi.overflow),
     (str "DEFERRALS", .num s.wsch.deferrals), (str "DROPPED", .num s.hlc.dropped), (str "LOST", .num s.acct.lost)] ]

/-- Clear the condition set and zero the counters of line 4 (R177). -/
def State.clearStatus (s : State) : State :=
  { s with
    hlc := { s.hlc with flags := Vector.replicate 18 false, badLine := 0, dropped := 0 }
    rxi := { s.rxi with noise := 0, overflow := 0 }
    rmat := { s.rmat with unknown := 0, unexpected := 0, stale := 0, duplicate := 0 }
    wsch := { s.wsch with deferrals := 0 }
    acct := { s.acct with lost := 0 } }

def yesForm (key : String) : KeyForm := (str key, fun t => t == str "YES")

def applyStatus (tag : Nat) (fs : List RawField) (s : State) : State :=
  let s' := s.report tag (statusLines s) []
  if fs.isEmpty then s' else s'.clearStatus

/-- STATUS, with or without CLEAR=YES (R176, R177). -/
def execStatus (s : State) : Host.Outcome State Fault Refusal :=
  takeLine .status
    (fun tag fs s => carry tag (checkForm [yesForm "CLEAR"] [] fs) (fun _ s => applyStatus tag fs s) s) s

/-! ### OFFICE SET and OFFICE GET (R178, R179) -/

def officeForms : List KeyForm :=
  [keyForm "AIRRATE" (readFin 4), keyForm "REPLYWAIT" (readIn 1 15), keyForm "MINBURST" (readIn 0 255),
   keyForm "MINQUALITY" (readIn 0 15), keyForm "ZONEMEMORY" (readIn 1 255), keyForm "UNBARMARGIN" (readIn 0 65535),
   keyForm "CONGESTION" (readIn 0 2047), keyForm "JOURNALMODE" (wordValue journalModeWords),
   keyForm "JOURNALHIGH" (readIn 1 1024), keyForm "HIGHTYPE" (wordValue highTypeWords),
   keyForm "CLEARONREAD" (wordValue yesNoWords), keyForm "REPLYPOLICY" (wordValue replyPolicyWords),
   keyForm "LOCKEDGE" (wordValue lockEdgeWords)]

/-- The settings with every field given at its new value. -/
def Office.updated (o : Office) (fs : List RawField) : Office where
  airRate := (fieldOf fs "AIRRATE" (readFin 4)).getD o.airRate
  replyWait := (fieldOf fs "REPLYWAIT" (readIn 1 15)).getD o.replyWait
  minBurst := (fieldOf fs "MINBURST" (readIn 0 255)).getD o.minBurst
  minQuality := (fieldOf fs "MINQUALITY" (readIn 0 15)).getD o.minQuality
  zoneMemory := (fieldOf fs "ZONEMEMORY" (readIn 1 255)).getD o.zoneMemory
  unbarMargin := (fieldOf fs "UNBARMARGIN" (readIn 0 65535)).getD o.unbarMargin
  congestion := (fieldOf fs "CONGESTION" (readIn 0 2047)).getD o.congestion
  journalMode := (fieldOf fs "JOURNALMODE" (wordValue journalModeWords)).getD o.journalMode
  journalHigh := (fieldOf fs "JOURNALHIGH" (readIn 1 1024)).getD o.journalHigh
  highType := (fieldOf fs "HIGHTYPE" (wordValue highTypeWords)).getD o.highType
  clearOnRead := (fieldOf fs "CLEARONREAD" (wordValue yesNoWords)).getD o.clearOnRead
  replyPolicy := (fieldOf fs "REPLYPOLICY" (wordValue replyPolicyWords)).getD o.replyPolicy
  lockEdge := (fieldOf fs "LOCKEDGE" (wordValue lockEdgeWords)).getD o.lockEdge

/-- The checks of R178: the fields (one at least), then AIRRATE or JOURNALMODE outside STOPPED. -/
def checkOfficeSet (s : State) (fs : List RawField) : Except Denial Unit := do
  checkForm officeForms [] fs
  checkSomeOf officeForms fs
  refuseIf ((hasKey fs "AIRRATE" || hasKey fs "JOURNALMODE") && s.aclk.air != .stopped) .airRunning

/-- Every setting given takes its new value in one step; then a change of AIR RATE restarts the lock detector (R65)
and a CONGESTION given judges congestion (R26, log 24). -/
def applyOfficeSet (tag : Nat) (fs : List RawField) (s : State) : State :=
  let old := s.office
  let s := { s with office := old.updated fs }
  let s := if s.office.airRate = old.airRate then s else s.restartDetector
  let s := if s.office.congestion = old.congestion then s else s.judgeCongestion
  s.reply tag .ok []

/-- OFFICE SET (R178). -/
def execOfficeSet (s : State) : Host.Outcome State Fault Refusal :=
  takeLine .officeSet
    (fun tag fs s => carry tag (checkOfficeSet s fs) (fun _ s => applyOfficeSet tag fs s) s) s

/-- Every setting by its key, in the order of R178. -/
def officeFields (o : Office) : List Field :=
  [(str "AIRRATE", .num o.airRate), (str "REPLYWAIT", .num o.replyWait), (str "MINBURST", .num o.minBurst),
   (str "MINQUALITY", .num o.minQuality), (str "ZONEMEMORY", .num o.zoneMemory),
   (str "UNBARMARGIN", .num o.unbarMargin), (str "CONGESTION", .num o.congestion),
   (str "JOURNALMODE", .word o.journalMode.name), (str "JOURNALHIGH", .num o.journalHigh),
   (str "HIGHTYPE", .word o.highType.name), (str "CLEARONREAD", .yesNo o.clearOnRead),
   (str "REPLYPOLICY", .word o.replyPolicy.name), (str "LOCKEDGE", .word o.lockEdge.name)]

/-- OFFICE GET (R179). -/
def execOfficeGet (s : State) : Host.Outcome State Fault Refusal :=
  takeLine .officeGet
    (fun tag fs s => carry tag (checkNoFields fs) (fun _ s => s.report tag [officeFields s.office] []) s) s

/-! ### RESTART (R180) -/

/-- What a warm restart leaves of an entry (R1, R180). -/
def Entry.restarted (e : Entry) : Entry :=
  { e with heard := none, tags := [], live := 0, held := [], money := { e.money with reserved := 0 } }

/-- What a warm restart leaves of a zone: settings kept, counts zeroed (R90, R104). -/
def ZoneCell.restarted (z : ZoneCell) : ZoneCell :=
  { z with next := none, current := none, orders := 0, tests := 0, bridges := 0, withdraws := 0 }

/-- What a warm restart leaves of the host line: the notice queue, the condition set and the counters are cleared;
the buffer, the levels and the lines already waiting to be sent stand (R169, R180, log 25). -/
def Hlc.restarted (h : Hlc) : Hlc :=
  { h with start := .warm, flags := Vector.replicate 18 false, notices := [], badLine := 0, dropped := 0 }

/-- A warm restart, everything "Cleared" of R180 in one step. -/
def State.restarted (s : State) : State :=
  { s with
    hlc := s.hlc.restarted
    subs := s.subs.mapValues Entry.restarted
    store := { s.store with records := ⟨[]⟩, nextSeq := 0, congested := false }
    aclk := { s.aclk with detector := .unlocked, strobes := 0, badMark := false, holding := .none_ }
    wsch := Wsch.cold
    txi := s.txi.map ZoneCell.restarted
    rxi := Rxi.cold
    rmat := Rmat.cold
    acct := { s.acct with airReserved := 0, lost := 0, sweep := none } }

/-- The checks of R180. -/
def checkRestart (s : State) (fs : List RawField) : Except Denial Unit := do
  checkForm [yesForm "FORCE"] [] fs
  refuseIf (s.aclk.air != .stopped) .airRunning
  refuseIf (s.acct.sweep.isSome && fs.isEmpty) .sweepActive

def applyRestart (tag : Nat) (s : State) : State :=
  let discarded : Field := (str "DISCARDED", .num s.store.records.count)
  let cursor : List Field := match s.acct.sweep with
    | some w => [(str "CURSOR", .num w.cursor)]
    | none => []
  s.restarted.reply tag .ok (discarded :: cursor)

/-- RESTART (R180). -/
def execRestart (s : State) : Host.Outcome State Fault Refusal :=
  takeLine .restart (fun tag fs s => carry tag (checkRestart s fs) (fun _ s => applyRestart tag s) s) s

end Sys2Proof.Machine
end

