-- ==== Sys2Proof/Machine/Money.lean ====
section
/-! DEFINITION. CREDIT (R153) and ADJUST (R154). -/

namespace Sys2Proof.Machine

/-- The values of a CREDIT or ADJUST: `amount` is the change to the balance. -/
structure MoneyArgs where
  sub    : Nat
  amount : Int
  ref    : Nat
  deriving DecidableEq, Repr

/-- The amount of a CREDIT. -/
def readCredit (t : Text) : Option Int := (readIn 1 16777215 t).map Int.ofNat

/-- The amount of an ADJUST: signed and not 0. -/
def readAdjust (t : Text) : Option Int :=
  match readIntIn (-16777215) 16777215 t with
  | some a => if a = 0 then none else some a
  | none => none

/-- The checks R153 and R154 share. -/
def checkMoney (read : Text → Option Int) (s : State) (fs : List RawField) : Except Denial MoneyArgs := do
  checkForm [keyForm "SUB" readNat, keyForm "AMOUNT" read, keyForm "REF" (readIn 0 65535)] ["SUB", "AMOUNT"] fs
  let amount ← need (fieldOf fs "AMOUNT" read) "AMOUNT"
  let n ← subscriberNumber fs
  let _ ← presentEntry s n
  refuseIf s.journalFull .journalFull
  .ok { sub := n, amount := amount, ref := (fieldOf fs "REF" (readIn 0 65535)).getD 0 }

/-- The answer of CREDIT and ADJUST: SUB, APPLIED, BALANCE and SEQ. -/
def moneyFields (n : Nat) (applied balance : Int) (seq : BitVec 32) : List Field :=
  [(str "SUB", .num n), (str "APPLIED", .int applied), (str "BALANCE", .int balance), (str "SEQ", .num seq.toNat)]

/-- Post a CREDIT, or an ADJUST by its sign, and answer. -/
def applyMoney (k : JournalKind) (tag : Nat) (a : MoneyArgs) (s : State) : State :=
  match s.sub? a.sub with
  | none => s
  | some e =>
    let j := { blankRec s k a.sub with ref := some a.ref }
    let seq := s.acct.nextSeq
    if 0 ≤ a.amount then
      let applied := e.money.creditApplied a.amount.toNat
      (s.postCredit a.sub a.amount.toNat j).reply tag .ok
        (moneyFields a.sub applied (e.money.balance + applied) seq)
    else
      let applied := e.money.chargeApplied a.amount.natAbs
      (s.postCharge a.sub a.amount.natAbs j).reply tag .ok
        (moneyFields a.sub (-(applied : Int)) (e.money.balance - applied) seq)

/-- CREDIT (R153). -/
def execCredit (s : State) : Host.Outcome State Fault Refusal :=
  takeLine .credit (fun tag fs s => carry tag (checkMoney readCredit s fs) (applyMoney .credit tag) s) s

/-- ADJUST (R154). -/
def execAdjust (s : State) : Host.Outcome State Fault Refusal :=
  takeLine .adjust (fun tag fs s => carry tag (checkMoney readAdjust s fs) (applyMoney .adjust tag) s) s

end Sys2Proof.Machine
end

