-- ==== Sys2Proof/Machine/Pages.lean ====
section
/-! DEFINITION. The rows of chapter 2: SUBMIT (R21 to R26), CANCEL (R33), PAGE GET (R36), HELD LIST (R37) and HELD
RELEASE (R38). -/

namespace Sys2Proof.Machine

/-! ### SUBMIT -/

/-- The keys of SUBMIT (R21). The counted form of TEXT is judged where the line's fields are read. -/
def submitForms : List KeyForm :=
  [keyForm "SUB" readNat, keyForm "ENC" (wordValue encodingWords), keyForm "PRI" (readFin 4),
   keyForm "ORIGIN" (readIn 0 255), keyForm "TEXT" (fun t => some t)]

/-- A SUBMIT that has passed its checks, adjusted as R23 gives. -/
structure SubmitArgs where
  sub       : Nat
  enc       : Encoding
  pri       : Priority
  origin    : Nat
  text      : Text
  truncated : Bool
  lowered   : Bool
  blocks    : Nat
  estimate  : Nat
  deriving DecidableEq, Repr

/-- The text kept (R23): none for TONE, otherwise the first MAX CHARS characters. -/
def keptText (enc : Encoding) (maxChars : Nat) (text : Text) : Text :=
  match enc with
  | .tone => []
  | .numeric => text.take maxChars
  | .alpha => text.take maxChars

/-- Check 9: the headroom covers the estimate, or NO_CREDIT with both (R24). -/
def checkCredit (m : Money) (estimate : Nat) : Except Denial Unit :=
  if m.headroom < estimate then
    .error (.refusal .noCredit [(str "EST", .num estimate), (str "HEADROOM", .int m.headroom)])
  else .ok ()

/-- The form check of R21 and the nine checks of R22 and R24, with the adjustments of R23 between the fifth and the
sixth. -/
def checkSubmit (s : State) (fs : List RawField) : Except Denial SubmitArgs := do
  checkForm submitForms ["SUB", "ENC"] fs
  let enc ← need (fieldOf fs "ENC" (wordValue encodingWords)) "ENC"
  let pri := (fieldOf fs "PRI" (readFin 4)).getD 1
  let given := (fieldOf fs "TEXT" (fun t => some t)).getD []
  let n ← subscriberNumber fs
  let e ← presentEntry s n
  let plan := s.plan e.plan
  refuseIf (e.state == .suspended) .suspended
  refuseIf (e.money.credit == .barred) .barred
  refuseIf (enc == .numeric && !given.all isNumericChar) .badText
  refuseIf (plan.maxPages ≤ e.live) .subLimit
  let text := keptText enc plan.maxChars given
  let kept := min pri plan.maxPri
  refuseIf (kept == 0 && s.store.congested) .congested
  refuseIf (s.freeRecords == 0) .storeFull
  refuseIf (s.freeChunks < chunksFor text.length) .textFull
  let b := payloadBlocks enc text.length
  let estimate := s.estimate enc b e.zones.length kept
  checkCredit e.money estimate
  .ok
    { sub := n, enc := enc, pri := kept, origin := (fieldOf fs "ORIGIN" (readIn 0 255)).getD 0, text := text
      truncated := enc != .tone && decide (text.length < given.length), lowered := decide (kept < pri)
      blocks := b + 1, estimate := estimate }

/-- The record an accepted SUBMIT fills (R25), with its kept text (R47, log 12). -/
def SubmitArgs.record (a : SubmitArgs) (s : State) (e : Entry) (id : MsgId) : PageRec :=
  let plan := s.plan e.plan
  { id := id, sub := a.sub, state := .queued, enc := a.enc, pri := a.pri, len := a.text.length
    truncated := a.truncated, blocks := a.blocks
    chunks := if a.text = [] then none else some (takeChunks (chunksFor a.text.length) s.usedChunks s.fresh a.text)
    kept := a.text, origin := a.origin, seq := s.store.nextSeq, series := .first
    limit := match e.kind with | .twoWay => plan.attempts | .oneWay => plan.repeats
    count := 0
    terms :=
      { backoff := plan.backoff, retryPct := plan.retryPct, refundPct := plan.refundPct, readWait := plan.readWait
        hold := plan.hold }
    tag := none, reservation := some a.estimate, firstCharge := none, posted := 0, refunded := false
    cancelled := false, late := false, skip := 0, deferral := 0, replyWait := none, readWait := none, holdWait := none
    lastZones := none, placement := none, freeAfterAiring := false }

/-- The message id of the next record: the lowest free slot with a new generation (R25, R27). -/
def State.nextId (s : State) : MsgId :=
  let slot := s.store.records.lowest
  { slot := slot, gen := s.generation slot + 1 }

/-- Write a generation; generation 0 is the vacant value. -/
def Table.setGen (t : Table (BitVec 16)) (slot : Nat) (g : BitVec 16) : Table (BitVec 16) :=
  if g = 0 then t.erase slot else t.set slot g

/-- Allocate the record of a SUBMIT in its slot (R25 steps 1, 2 and 4). -/
def State.allocate (s : State) (r : PageRec) : State :=
  { s with
    store := { s.store with
      records := s.store.records.set r.id.slot r
      gens := s.store.gens.setGen r.id.slot r.id.gen
      nextSeq := s.store.nextSeq + 1 }
    fresh := s.fresh + r.chunkList.length }

/-- Acceptance (R25), one step. -/
def applySubmit (tag : Nat) (a : SubmitArgs) (s : State) : State :=
  match s.sub? a.sub with
  | none => s
  | some e =>
    let r := a.record s e s.nextId
    let s := s.allocate r
    let s := s.setSub a.sub
      { e with live := e.live + 1, money := { e.money with reserved := e.money.reserved + a.estimate } }
    let s := s.judgeCongestion
    let s := s.fileRec r
    s.reply tag .ok
      ([(str "MSG", .msg r.id), (str "N", .num a.blocks), (str "EST", .num a.estimate)] ++
        (if a.truncated then [(str "TRUNCATED", .num a.text.length)] else []) ++
        (if a.lowered then [(str "PRIORITY", .num a.pri)] else []))

/-- SUBMIT (R25). -/
def execSubmit (s : State) : Host.Outcome State Fault Refusal :=
  takeLine .submit (fun tag fs s => carry tag (checkSubmit s fs) (applySubmit tag) s) s

/-! ### CANCEL (R33) -/

/-- The fields of OK and OK_PENDING: MSG and STATE, the state found. -/
def cancelFields (r : PageRec) : List Field := [(str "MSG", .msg r.id), (str "STATE", .word r.state.name)]

def applyCancel (tag : Nat) (r : PageRec) (s : State) : State :=
  match r.state with
  | .queued => (s.freeRec r .cancelled).reply tag .ok (cancelFields r)
  | .retryWait => (s.freeRec r .cancelled).reply tag .ok (cancelFields r)
  | .placed => s.reply tag (.refused .tooLate) []
  | .awaiting => (s.putRec { r with cancelled := true }).reply tag .okPending (cancelFields r)
  | .delivered => s.reply tag (.refused .delivered) []
  | .held => (s.freeRec r .cancelled).reply tag .ok (cancelFields r)

/-- CANCEL (R33). -/
def execCancel (s : State) : Host.Outcome State Fault Refusal :=
  takeLine .cancel (fun tag fs s => carry tag (namedRecord s fs) (applyCancel tag) s) s

/-! ### PAGE GET (R36) -/

def optNum (v : Option Nat) : Value := match v with | some n => .num n | none => .none_

/-- The three data lines of PAGE GET. -/
def pageLines (r : PageRec) : List (List Field) :=
  [ [(str "MSG", .msg r.id), (str "SUB", .num r.sub), (str "STATE", .word r.state.name),
     (str "SERIES", .word r.series.name), (str "ENC", .word r.enc.name), (str "PRI", .num r.pri),
     (str "LEN", .num r.len), (str "TRUNC", .yesNo r.truncated), (str "N", .num r.blocks),
     (str "CHUNKS", .num r.chunkList.length), (str "ORIGIN", .num r.origin), (str "SEQ", .num r.seq.toNat)],
    [(str "COUNT", .num r.count), (str "LIMIT", .num r.limit), (str "TAG", optNum (r.tag.map Fin.val)),
     (str "SKIP", .num r.skip), (str "DEFER", .num r.deferral), (str "RESERVE", optNum r.reservation),
     (str "FIRST", optNum r.firstCharge), (str "POSTED", .num r.posted), (str "REFUNDED", .yesNo r.refunded),
     (str "CANCELLED", .yesNo r.cancelled), (str "LATE", .yesNo r.late)],
    [(str "WAIT", optNum (r.replyWait.map Countdown.left)), (str "READWAIT", optNum (r.readWait.map Countdown.left)),
     (str "HOLD", optNum (r.holdWait.map Countdown.left)),
     (str "ZONES", match r.lastZones with | some z => .nums (z.map Fin.val) | none => .none_),
     (str "PLACE", match r.placement with | some p => .place p.round p.window p.firsts | none => .none_)] ]

/-- PAGE GET (R36). -/
def execPageGet (s : State) : Host.Outcome State Fault Refusal :=
  takeLine .pageGet
    (fun tag fs s => carry tag (namedRecord s fs) (fun r s => s.report tag (pageLines r) []) s) s

/-! ### HELD LIST and HELD RELEASE (R37, R38) -/

/-- The data line of one held record. -/
def heldFields (r : PageRec) : List Field :=
  [(str "MSG", .msg r.id), (str "ENC", .word r.enc.name), (str "LEN", .num r.len), (str "PRI", .num r.pri),
   (str "SEQ", .num r.seq.toNat), (str "HOLD", optNum (r.holdWait.map Countdown.left)), (str "COUNT", .num r.count),
   (str "POSTED", .num r.posted), (str "REFUNDED", .yesNo r.refunded)]

def applyHeldList (tag : Nat) (ne : Nat × Entry) (s : State) : State :=
  let lines := (ne.2.held.filterMap s.rec?).map heldFields
  s.report tag lines [(str "COUNT", .num lines.length)]

/-- HELD LIST (R37). -/
def execHeldList (s : State) : Host.Outcome State Fault Refusal :=
  takeLine .heldList (fun tag fs s => carry tag (namedEntry s fs) (applyHeldList tag) s) s

def applyHeldRelease (tag : Nat) (ne : Nat × Entry) (s : State) : State :=
  (s.recoverAll ne.1).reply tag .ok [(str "COUNT", .num ne.2.held.length)]

/-- HELD RELEASE (R38). -/
def execHeldRelease (s : State) : Host.Outcome State Fault Refusal :=
  takeLine .heldRelease (fun tag fs s => carry tag (namedEntry s fs) (applyHeldRelease tag) s) s

end Sys2Proof.Machine
end

