-- ==== Sys2Proof/Machine/Receiver.lean ====
section
/-! DEFINITION. The rows of the receiver links and the reply queue: the byte streams (R183), the filter (R106), the
reply queue (R107) and the taking of a report (R108 to R115). -/

namespace Sys2Proof.Machine

/-! ### Frames (R183, 11.3) -/

def startByte : Byte := 0xC3#8

def ReportKind.ofByte (b : Byte) : Option ReportKind :=
  if b = 0x01#8 then some .heard else if b = 0x02#8 then some .read else if b = 0x03#8 then some .fetch
  else if b = 0x04#8 then some .register else none

/-- The 13 bytes after a start marker, numbered as 11.3 numbers them. -/
structure RxFrame where
  b1  : Byte
  b2  : Byte
  b3  : Byte
  b4  : Byte
  b5  : Byte
  b6  : Byte
  b7  : Byte
  b8  : Byte
  b9  : Byte
  b10 : Byte
  b11 : Byte
  b12 : Byte
  b13 : Byte
  deriving DecidableEq, Repr

def RxFrame.ofBytes : List Byte → Option RxFrame
  | [b1, b2, b3, b4, b5, b6, b7, b8, b9, b10, b11, b12, b13] =>
    some ⟨b1, b2, b3, b4, b5, b6, b7, b8, b9, b10, b11, b12, b13⟩
  | _ => none

/-- The CRC-16 over bytes 1-11 agrees with bytes 12-13. -/
def RxFrame.good (f : RxFrame) : Bool :=
  crc16 [f.b1, f.b2, f.b3, f.b4, f.b5, f.b6, f.b7, f.b8, f.b9, f.b10, f.b11] == f.b12 ++ f.b13

/-- The bits that 11.3 shows as zero, put together. -/
def RxFrame.zeroBits (f : RxFrame) : BitVec 19 :=
  f.b1.extractLsb' 3 1 ++ f.b3.extractLsb' 6 2 ++ f.b6.extractLsb' 3 5 ++ f.b8.extractLsb' 4 4 ++
    f.b9.extractLsb' 4 4 ++ f.b11.extractLsb' 5 3

/-- The report a frame carries, when its kind is one of the table and every reserved bit is 0. -/
def RxFrame.report (f : RxFrame) : Option Report :=
  match ReportKind.ofByte f.b2 with
  | some k =>
    if f.zeroBits = 0 then
      some
        { site := (f.b1.extractLsb' 4 4).toFin, zone := (f.b1.extractLsb' 0 3).toFin, kind := k
          addr := f.b3.extractLsb' 0 6 ++ f.b4 ++ f.b5, tag := (f.b6.extractLsb' 0 3).toFin, burst := f.b7.toNat
          quality := (f.b8.extractLsb' 0 4).toFin, round := (f.b9.extractLsb' 0 4 ++ f.b10).toFin
          window := (f.b11.extractLsb' 0 5).toFin }
    else none
  | none => none

/-- A frame is discarded and counted (R105, R106). -/
def State.noise (s : State) : State := { s with rxi := { s.rxi with noise := riseTo Config.counterTop s.rxi.noise } }

/-- A report joins the reply queue; on a full one REPLY POLICY decides (R107). -/
def State.joinReplies (s : State) (p : Report) : State :=
  if s.rxi.replies.length < Config.replies then { s with rxi := { s.rxi with replies := s.rxi.replies ++ [p] } }
  else
    let replies := match s.office.replyPolicy with
      | .discardNew => s.rxi.replies
      | .overwriteOldest => s.rxi.replies.drop 1 ++ [p]
    let count := riseTo Config.overflowTop s.rxi.overflow
    { s with rxi := { s.rxi with replies := replies, overflow := count } }.raise .replyOverflow
      [(str "POLICY", .word s.office.replyPolicy.name), (str "COUNT", .num count)]

/-- The filter (R106). -/
def State.filterReport (s : State) (p : Report) : State :=
  if p.burst < s.office.minBurst ∨ p.quality < s.office.minQuality then s.noise else s.joinReplies p

def State.setLink (s : State) (l : LinkNo) (r : RxLink) : State :=
  { s with rxi := { s.rxi with links := s.rxi.links.set l r } }

/-- Hunting resumed at the byte after a failed frame's marker (R183). -/
def rescan (bytes : List Byte) : RxLink :=
  match bytes.dropWhile (fun b => b != startByte) with
  | _ :: rest => .taking rest
  | [] => .hunting

/-- The 13 bytes of a frame are judged (R183). -/
def State.judgeFrame (s : State) (l : LinkNo) (bytes : List Byte) : State :=
  match RxFrame.ofBytes bytes with
  | none => s.setLink l .hunting
  | some f =>
    if f.good then
      match f.report with
      | some p => (s.setLink l .hunting).filterReport p
      | none => (s.setLink l .hunting).noise
    else (s.setLink l (rescan bytes)).noise

/-- RXI takes one byte from a link (R183). -/
def State.rxByte (l : LinkNo) (s : State) (b : Byte) : State :=
  match s.rxi.links[l] with
  | .hunting => if b = startByte then s.setLink l (.taking []) else s
  | .taking got =>
    if got.length + 1 < 13 then s.setLink l (.taking (got ++ [b])) else s.judgeFrame l (got ++ [b])

/-- REPLY_REPORT_FRAME (R183): the bytes with which a frame becomes complete on its link (log 28). -/
def execReplyReportFrame (link : LinkNo) (bytes : List Byte) (s : State) : Host.Outcome State Fault Refusal :=
  done (bytes.foldl (State.rxByte link) s)

/-- START_MARKER (R183): a byte taken while hunting. On a link that is taking a frame it is not this event. -/
def execStartMarker (link : LinkNo) (byte : Byte) (s : State) : Host.Outcome State Fault Refusal :=
  match s.rxi.links[link] with
  | .hunting => done (s.rxByte link byte)
  | .taking _ => .next s

/-! ### The counters of RMAT (R125) -/

def State.countUnknown (s : State) : State :=
  { s with rmat := { s.rmat with unknown := riseTo Config.counterTop s.rmat.unknown } }
def State.countUnexpected (s : State) : State :=
  { s with rmat := { s.rmat with unexpected := riseTo Config.counterTop s.rmat.unexpected } }
def State.countStale (s : State) : State :=
  { s with rmat := { s.rmat with stale := riseTo Config.counterTop s.rmat.stale } }
def State.countDuplicate (s : State) : State :=
  { s with rmat := { s.rmat with duplicate := riseTo Config.counterTop s.rmat.duplicate } }

/-! ### HEARD (R110) -/

def State.heard (s : State) (n : Nat) (p : Report) : State :=
  match s.tagHolder n p.tag with
  | none => s.countStale
  | some r =>
    match r.state with
    | .awaiting => if r.cancelled then s.freeRec r .deliveredDone else s.deliverOut r p
    | .retryWait => s.deliverOut r p
    | .placed => s.deliverLate r p
    | .delivered => s.countDuplicate
    | .queued => s.countStale
    | .held => s.countStale

/-! ### READ (R113) -/

/-- A record is read: the receipt fee is posted, and the record is freed READ. -/
def State.readRec (s : State) (r : PageRec) : State :=
  match s.sub? r.sub with
  | none => s
  | some e =>
    let fee := (s.plan e.plan).receiptFee
    if fee = 0 then s.freeRec r (.read 0)
    else
      let applied := e.money.chargeApplied fee
      let s := s.postCharge r.sub fee { blankRec s .receipt r.sub with msg := some r.id }
      let r := { r with posted := r.posted + applied }
      (s.putRec r).freeRec r (.read applied)

/-- Delivered as for HEARD and read in the same step: steps 4 and 5 of R111 are not applied. -/
def State.deliverRead (s : State) (r : PageRec) (p : Report) : State :=
  let d := r.delivered
  let s := s.raiseDelivered r p false
  let s := if r.state = .retryWait then (s.unfile r).joinAwaiting r.id else s
  (s.putRec d).readRec d

def State.readReport (s : State) (n : Nat) (p : Report) : State :=
  match s.tagHolder n p.tag with
  | none => s.countStale
  | some r =>
    match r.state with
    | .awaiting => if r.cancelled then s.freeRec r .deliveredDone else s.deliverRead r p
    | .retryWait => s.deliverRead r p
    | .placed => (s.deliverLate r p).countStale
    | .delivered => if r.id ∈ s.rmat.awaiting then s.readRec r else s.countStale
    | .queued => s.countStale
    | .held => s.countStale

/-! ### Taking a report (R108, R114, R115) -/

/-- A report of a TWO_WAY subscriber is handled by its kind. -/
def State.byKind (s : State) (n : Nat) (e : Entry) (p : Report) : State :=
  match p.kind with
  | .heard => s.heard n p
  | .read => s.readReport n p
  | .fetch => s.recoverAll n
  | .register => if (s.plan e.plan).autoRecover then s.recoverAll n else s

/-- What a taken report does (R108). -/
def State.takeReport (s : State) (p : Report) : State :=
  match s.holderOf p.addr with
  | none => s.countUnknown
  | some n =>
    match s.sub? n with
    | none => s.countUnknown
    | some e =>
      match e.kind with
      | .oneWay => s.countUnexpected
      | .twoWay =>
        let e := { e with heard := some { zone := p.zone, age := 0 } }
        (s.setSub n e).byKind n e p

/-- REPORT_TAKE (R108): RMAT takes the head report; from an empty queue there is none to take. -/
def execReportTake (s : State) : Host.Outcome State Fault Refusal :=
  match s.rxi.replies with
  | p :: rest => done ({ s with rxi := { s.rxi with replies := rest } }.takeReport p)
  | [] => .next s

end Sys2Proof.Machine
end

