-- ==== Sys2Proof/Machine/Subscribers.lean ====
section
/-! DEFINITION. The rows of chapter 1: provisioning of subscribers (R13 to R19) and the plans (R11, R12). -/

namespace Sys2Proof.Machine

/-! ### SUB ADD (R13) -/

def readAddr (t : Text) : Option (BitVec 22) := (readIn 0 4194303 t).map (BitVec.ofNat 22)
def readFloor (t : Text) : Option Int := readIntIn (-16777215) 0 t
def readLow (t : Text) : Option Int := readIntIn (-16777215) 16777215 t
def readUsage (t : Text) : Option Nat := readIn 0 2147483647 t

/-- The least opening balance a SUB ADD line may give: the floor it gives, 0 when it gives none; a FLOOR that is itself
at fault bounds nothing. -/
def leastOpening (fs : List RawField) : Int :=
  if hasKey fs "FLOOR" then (fieldOf fs "FLOOR" readFloor).getD (-16777215) else 0

def readBalance (least : Int) (t : Text) : Option Int := readIntIn least 16777215 t

def subAddForms (fs : List RawField) : List KeyForm :=
  [keyForm "SUB" readNat, keyForm "ADDR" readAddr, keyForm "KIND" (wordValue pagerKindWords),
   keyForm "HOME" (readFin 32), keyForm "ZONES" readZones, keyForm "PLAN" (readFin 8), keyForm "FLOOR" readFloor,
   keyForm "BALANCE" (readBalance (leastOpening fs)), keyForm "LOW" readLow, keyForm "USAGE" readUsage]

/-- The values of a SUB ADD. -/
structure SubAddArgs where
  sub     : Nat
  addr    : BitVec 22
  kind    : PagerKind
  home    : Window
  zones   : ZoneSet
  plan    : PlanNo
  floor   : Int
  balance : Int
  low     : Int
  usage   : Nat
  deriving DecidableEq, Repr

/-- The checks of R13 in their order. -/
def checkSubAdd (s : State) (fs : List RawField) : Except Denial SubAddArgs := do
  let n ← subscriberFirst fs
  checkForm (subAddForms fs) ["SUB", "ADDR", "KIND", "HOME", "ZONES", "PLAN"] fs
  let addr ← need (fieldOf fs "ADDR" readAddr) "ADDR"
  let kind ← need (fieldOf fs "KIND" (wordValue pagerKindWords)) "KIND"
  let home ← need (fieldOf fs "HOME" (readFin 32)) "HOME"
  let zones ← need (fieldOf fs "ZONES" readZones) "ZONES"
  let plan ← need (fieldOf fs "PLAN" (readFin 8)) "PLAN"
  refuseIf (s.sub? n).isSome .exists_
  refuseIf (s.holderOf addr).isSome .duplicateAddress
  .ok
    { sub := n, addr := addr, kind := kind, home := home, zones := zones, plan := plan
      floor := (fieldOf fs "FLOOR" readFloor).getD 0
      balance := (fieldOf fs "BALANCE" (readBalance (leastOpening fs))).getD 0
      low := (fieldOf fs "LOW" readLow).getD (-16777215)
      usage := (fieldOf fs "USAGE" readUsage).getD 2147483647 }

/-- The entry a SUB ADD provisions. -/
def SubAddArgs.entry (a : SubAddArgs) : Entry where
  state := .active
  addr := a.addr
  kind := a.kind
  home := a.home
  zones := a.zones
  plan := a.plan
  heard := none
  tags := []
  live := 0
  held := []
  money :=
    { balance := a.balance, floor := a.floor, reserved := 0, credit := .clear, low := a.low
      lowArmed := decide (a.low ≤ a.balance), usage := a.usage, usageArmed := true, periodPages := 0
      periodCharges := 0 }

def applySubAdd (tag : Nat) (a : SubAddArgs) (s : State) : State :=
  (s.setSub a.sub a.entry).reply tag .ok [(str "SUB", .num a.sub)]

/-- SUB ADD (R13). -/
def execSubAdd (s : State) : Host.Outcome State Fault Refusal :=
  takeLine .subAdd (fun tag fs s => carry tag (checkSubAdd s fs) (applySubAdd tag) s) s

/-! ### SUB SET (R14, R15) -/

/-- The keys of SUB SET besides SUB. -/
def subSetForms : List KeyForm :=
  [keyForm "ADDR" readAddr, keyForm "KIND" (wordValue pagerKindWords), keyForm "HOME" (readFin 32),
   keyForm "ZONES" readZones, keyForm "PLAN" (readFin 8), keyForm "FLOOR" readFloor, keyForm "LOW" readLow,
   keyForm "USAGE" readUsage]

/-- The values of a SUB SET; a field not given is absent. -/
structure SubSetArgs where
  sub   : Nat
  addr  : Option (BitVec 22)
  kind  : Option PagerKind
  home  : Option Window
  zones : Option ZoneSet
  plan  : Option PlanNo
  floor : Option Int
  low   : Option Int
  usage : Option Nat
  deriving DecidableEq, Repr

/-- Whether a field gives a value that differs from the present one. -/
def changes {α : Type} [DecidableEq α] (given : Option α) (present : α) : Bool :=
  match given with
  | some v => decide (v ≠ present)
  | none => false

/-- Whether an address is held by an entry other than `n` (R3). -/
def State.addressTaken (s : State) (n : Nat) (given : Option (BitVec 22)) : Bool :=
  match given with
  | some a => match s.holderOf a with
    | some m => decide (m ≠ n)
    | none => false
  | none => false

/-- The checks of R14 in their order. -/
def checkSubSet (s : State) (fs : List RawField) : Except Denial (SubSetArgs × Entry) := do
  let n ← subscriberFirst fs
  checkForm (keyForm "SUB" readNat :: subSetForms) [] fs
  checkSomeOf subSetForms fs
  let e ← presentEntry s n
  let a : SubSetArgs :=
    { sub := n, addr := fieldOf fs "ADDR" readAddr, kind := fieldOf fs "KIND" (wordValue pagerKindWords)
      home := fieldOf fs "HOME" (readFin 32), zones := fieldOf fs "ZONES" readZones
      plan := fieldOf fs "PLAN" (readFin 8), floor := fieldOf fs "FLOOR" readFloor
      low := fieldOf fs "LOW" readLow, usage := fieldOf fs "USAGE" readUsage }
  refuseIf ((changes a.addr e.addr || changes a.kind e.kind || changes a.home e.home) && 0 < e.live) .hasPages
  refuseIf (s.addressTaken n a.addr) .duplicateAddress
  refuseIf (match a.floor with | some f => decide (e.money.balance < f) | none => false) .floorAboveBalance
  .ok (a, e)

/-- The money fields a SUB SET leaves, before the tests of the floor (R15). -/
def SubSetArgs.money (a : SubSetArgs) (m : Money) : Money :=
  { m with
    floor := a.floor.getD m.floor
    low := a.low.getD m.low
    lowArmed := match a.low with | some l => decide (l ≤ m.balance) | none => m.lowArmed
    usage := a.usage.getD m.usage
    usageArmed := a.usage.isSome || m.usageArmed }

/-- The entry a SUB SET leaves, before the tests of the floor (R15). -/
def SubSetArgs.entry (a : SubSetArgs) (e : Entry) : Entry :=
  { e with
    addr := a.addr.getD e.addr
    kind := a.kind.getD e.kind
    home := a.home.getD e.home
    zones := a.zones.getD e.zones
    plan := a.plan.getD e.plan
    heard := if changes a.addr e.addr || changes a.kind e.kind then none else e.heard
    money := a.money e.money }

/-- The tests of a new floor: a raised one may bar, a lowered one may unbar (R15, R149). -/
def State.floorTests (s : State) (n : Nat) (old : Int) (given : Option Int) : State :=
  match given with
  | some f => if old < f then s.barTest n else if f < old then s.unbarTest n else s
  | none => s

def applySubSet (tag : Nat) (ae : SubSetArgs × Entry) (s : State) : State :=
  let (a, e) := ae
  ((s.setSub a.sub (a.entry e)).floorTests a.sub e.money.floor a.floor).reply tag .ok [(str "SUB", .num a.sub)]

/-- SUB SET (R14, R15). -/
def execSubSet (s : State) : Host.Outcome State Fault Refusal :=
  takeLine .subSet (fun tag fs s => carry tag (checkSubSet s fs) (applySubSet tag) s) s

/-! ### SUB GET (R16) -/

/-- The three data lines of SUB GET. -/
def subLines (n : Nat) (e : Entry) : List (List Field) :=
  [ [(str "SUB", .num n), (str "STATE", .word e.state.name), (str "ADDR", .num e.addr.toNat),
     (str "KIND", .word e.kind.name), (str "HOME", .num e.home), (str "ZONES", .nums (e.zones.map Fin.val)),
     (str "PLAN", .num e.plan)],
    (match e.heard with
      | some h => [(str "HEARD", .num h.zone), (str "AGE", .num h.age)]
      | none => [(str "HEARD", .none_)]) ++
    [(str "TAGS", .nums (e.tags.map Fin.val)), (str "LIVE", .num e.live), (str "HELD", .num e.held.length)],
    [(str "BALANCE", .int e.money.balance), (str "FLOOR", .int e.money.floor), (str "RESERVED", .num e.money.reserved),
     (str "HEADROOM", .int e.money.headroom), (str "CREDIT", .word e.money.credit.name),
     (str "LOW", .int e.money.low), (str "USAGE", .num e.money.usage), (str "LOWARMED", .yesNo e.money.lowArmed),
     (str "USAGEARMED", .yesNo e.money.usageArmed), (str "PPAGES", .num e.money.periodPages),
     (str "PCHARGES", .num e.money.periodCharges)] ]

/-- SUB GET (R16). -/
def execSubGet (s : State) : Host.Outcome State Fault Refusal :=
  takeLine .subGet
    (fun tag fs s => carry tag (namedEntry s fs) (fun ne s => s.report tag (subLines ne.1 ne.2) []) s) s

/-! ### SUB SUSPEND, SUB RESUME, SUB REMOVE (R17 to R19) -/

def applyState (tag : Nat) (st : SubState) (ne : Nat × Entry) (s : State) : State :=
  (s.setSub ne.1 { ne.2 with state := st }).reply tag .ok []

/-- SUB SUSPEND (R17). -/
def execSubSuspend (s : State) : Host.Outcome State Fault Refusal :=
  takeLine .subSuspend (fun tag fs s => carry tag (namedEntry s fs) (applyState tag .suspended) s) s

/-- SUB RESUME (R18). -/
def execSubResume (s : State) : Host.Outcome State Fault Refusal :=
  takeLine .subResume (fun tag fs s => carry tag (namedEntry s fs) (applyState tag .active) s) s

/-- The checks of R19. -/
def checkSubRemove (s : State) (fs : List RawField) : Except Denial (Nat × Entry) := do
  let (n, e) ← namedEntry s fs
  refuseIf (0 < e.live) .hasPages
  refuseIf s.journalFull .journalFull
  .ok (n, e)

/-- The CLOSE record of an account (R19, R156). -/
def closeRec (s : State) (n : Nat) (e : Entry) : JournalRec :=
  { blankRec s .close n with
    balance := e.money.balance, period := some (e.money.periodPages, e.money.periodCharges) }

def applySubRemove (tag : Nat) (ne : Nat × Entry) (s : State) : State :=
  let (n, e) := ne
  let s := s.writeRec (closeRec s n e)
  { s with subs := s.subs.erase n }.reply tag .ok [(str "SUB", .num n), (str "BALANCE", .int e.money.balance)]

/-- SUB REMOVE (R19). -/
def execSubRemove (s : State) : Host.Outcome State Fault Refusal :=
  takeLine .subRemove (fun tag fs s => carry tag (checkSubRemove s fs) (applySubRemove tag) s) s

/-! ### Plans (R11, R12) -/

/-- The keys of PLAN SET besides PLAN (R9). -/
def planForms : List KeyForm :=
  [keyForm "MAXCHARS" (readIn 1 200), keyForm "MAXPRI" (readFin 4), keyForm "MAXPAGES" (readIn 1 64),
   keyForm "ATTEMPTS" (readIn 1 7), keyForm "REPEATS" (readIn 1 3), keyForm "BACKOFF" (readVector 6 1 15),
   keyForm "RETRYPCT" (readIn 0 100), keyForm "REFUNDPCT" (readIn 0 100), keyForm "READWAIT" (readIn 0 255),
   keyForm "HOLD" (readIn 1 65535), keyForm "AUTORECOVER" (wordValue yesNoWords),
   keyForm "INCLUDED" (readIn 0 65535), keyForm "RECEIPTFEE" (readIn 0 65535)]

/-- A plan with every field given at its new value. -/
def Plan.updated (p : Plan) (fs : List RawField) : Plan where
  maxChars := (fieldOf fs "MAXCHARS" (readIn 1 200)).getD p.maxChars
  maxPri := (fieldOf fs "MAXPRI" (readFin 4)).getD p.maxPri
  maxPages := (fieldOf fs "MAXPAGES" (readIn 1 64)).getD p.maxPages
  attempts := (fieldOf fs "ATTEMPTS" (readIn 1 7)).getD p.attempts
  repeats := (fieldOf fs "REPEATS" (readIn 1 3)).getD p.repeats
  backoff := (fieldOf fs "BACKOFF" (readVector 6 1 15)).getD p.backoff
  retryPct := (fieldOf fs "RETRYPCT" (readIn 0 100)).getD p.retryPct
  refundPct := (fieldOf fs "REFUNDPCT" (readIn 0 100)).getD p.refundPct
  readWait := (fieldOf fs "READWAIT" (readIn 0 255)).getD p.readWait
  hold := (fieldOf fs "HOLD" (readIn 1 65535)).getD p.hold
  autoRecover := (fieldOf fs "AUTORECOVER" (wordValue yesNoWords)).getD p.autoRecover
  included := (fieldOf fs "INCLUDED" (readIn 0 65535)).getD p.included
  receiptFee := (fieldOf fs "RECEIPTFEE" (readIn 0 65535)).getD p.receiptFee

/-- The checks of R11. -/
def checkPlanSet (fs : List RawField) : Except Denial PlanNo := do
  checkForm (keyForm "PLAN" (readFin 8) :: planForms) ["PLAN"] fs
  checkSomeOf planForms fs
  need (fieldOf fs "PLAN" (readFin 8)) "PLAN"

def applyPlanSet (tag : Nat) (fs : List RawField) (p : PlanNo) (s : State) : State :=
  { s with plans := s.plans.set p (s.plans[p].updated fs) }.reply tag .ok []

/-- PLAN SET (R11). -/
def execPlanSet (s : State) : Host.Outcome State Fault Refusal :=
  takeLine .planSet (fun tag fs s => carry tag (checkPlanSet fs) (applyPlanSet tag fs) s) s

/-- Every field of a plan by its key (R9, R12). -/
def planFields (p : Plan) : List Field :=
  [(str "MAXCHARS", .num p.maxChars), (str "MAXPRI", .num p.maxPri),
   (str "MAXPAGES", .num p.maxPages), (str "ATTEMPTS", .num p.attempts), (str "REPEATS", .num p.repeats),
   (str "BACKOFF", .nums p.backoff.toList), (str "RETRYPCT", .num p.retryPct), (str "REFUNDPCT", .num p.refundPct),
   (str "READWAIT", .num p.readWait), (str "HOLD", .num p.hold), (str "AUTORECOVER", .yesNo p.autoRecover),
   (str "INCLUDED", .num p.included), (str "RECEIPTFEE", .num p.receiptFee)]

/-- PLAN GET with a plan gives one line of its fields; without, eight lines that each begin with the PLAN key. -/
def planLines (s : State) (fs : List RawField) : List (List Field) :=
  match fieldOf fs "PLAN" (readFin 8) with
  | some p => [planFields s.plans[p]]
  | none => (List.finRange 8).map (fun (p : PlanNo) => (str "PLAN", Value.num p) :: planFields s.plans[p])

/-- PLAN GET (R12). -/
def execPlanGet (s : State) : Host.Outcome State Fault Refusal :=
  takeLine .planGet
    (fun tag fs s =>
      carry tag (checkForm [keyForm "PLAN" (readFin 8)] [] fs) (fun _ s => s.report tag (planLines s fs) []) s) s

end Sys2Proof.Machine
end

