-- ==== Sys2Proof/Machine/Tariffs.lean ====
section
/-! DEFINITION. The rows of chapter 8 that the office commands: TARIFF LOAD (R129, R130), BAND SET (R132) and TARIFF
GET (R133). -/

namespace Sys2Proof.Machine

/-- The keys of a tariff table (R127). -/
def tariffForms : List KeyForm :=
  [keyForm "TONEFEE" (readIn 0 65535), keyForm "NUMFEE" (readIn 0 65535), keyForm "ALPHAFEE" (readIn 0 65535),
   keyForm "BLOCKRATE" (readIn 0 65535), keyForm "ZONEINC" (readIn 0 100), keyForm "PRIF" (readVector 4 50 400),
   keyForm "BANDF" (readVector 4 25 400), keyForm "CAP" (readIn 1 1000000)]

/-- A table with every field given at its new value. -/
def Tariff.updated (t : Tariff) (fs : List RawField) : Tariff where
  toneFee := (fieldOf fs "TONEFEE" (readIn 0 65535)).getD t.toneFee
  numFee := (fieldOf fs "NUMFEE" (readIn 0 65535)).getD t.numFee
  alphaFee := (fieldOf fs "ALPHAFEE" (readIn 0 65535)).getD t.alphaFee
  blockRate := (fieldOf fs "BLOCKRATE" (readIn 0 65535)).getD t.blockRate
  zoneInc := (fieldOf fs "ZONEINC" (readIn 0 100)).getD t.zoneInc
  priF := (fieldOf fs "PRIF" (readVector 4 50 400)).getD t.priF
  bandF := (fieldOf fs "BANDF" (readVector 4 25 400)).getD t.bandF
  cap := (fieldOf fs "CAP" (readIn 1 1000000)).getD t.cap

/-- The checks of R129. -/
def checkTariffLoad (fs : List RawField) : Except Denial Activation := do
  checkForm (keyForm "AT" readActivation :: tariffForms) ["AT"] fs
  need (fieldOf fs "AT" readActivation) "AT"

/-- An activation choice as a value. -/
def Activation.value : Activation → Value
  | .next => .word (str "NEXT")
  | .atRound r => .num r

/-- The new table takes the slot; a NEXT table loaded in STOPPED is applied at once (R129, R130). -/
def applyTariffLoad (tag : Nat) (fs : List RawField) (a : Activation) (s : State) : State :=
  let t := s.rate.active.updated fs
  if a = .next ∧ s.aclk.air = .stopped then
    let s := s.applyTariff t
    s.reply tag .ok [(str "STATE", .word (str "ACTIVE")), (str "VERSION", .num s.rate.version.toNat)]
  else
    { s with rate := { s.rate with pending := some (t, a) } }.reply tag .ok
      [(str "STATE", .word (str "PENDING")), (str "AT", a.value)]

/-- TARIFF LOAD (R129). -/
def execTariffLoad (s : State) : Host.Outcome State Fault Refusal :=
  takeLine .tariffLoad (fun tag fs s => carry tag (checkTariffLoad fs) (applyTariffLoad tag fs) s) s

/-- The checks of R132. -/
def checkBandSet (fs : List RawField) : Except Denial Band := do
  checkForm [keyForm "BAND" (readFin 4)] ["BAND"] fs
  need (fieldOf fs "BAND" (readFin 4)) "BAND"

def applyBandSet (tag : Nat) (b : Band) (s : State) : State :=
  if s.aclk.air = .stopped then
    { s with rate := { s.rate with band := b, nextBand := none } }.reply tag .ok
      [(str "BAND", .num b), (str "STATE", .word (str "ACTIVE"))]
  else
    { s with rate := { s.rate with nextBand := some b } }.reply tag .ok
      [(str "BAND", .num b), (str "STATE", .word (str "PENDING"))]

/-- BAND SET (R132). -/
def execBandSet (s : State) : Host.Outcome State Fault Refusal :=
  takeLine .bandSet (fun tag fs s => carry tag (checkBandSet fs) (applyBandSet tag) s) s

/-- The keys of R127 with a table's values. -/
def tariffFields (t : Tariff) : List Field :=
  [(str "TONEFEE", .num t.toneFee), (str "NUMFEE", .num t.numFee), (str "ALPHAFEE", .num t.alphaFee),
   (str "BLOCKRATE", .num t.blockRate), (str "ZONEINC", .num t.zoneInc), (str "PRIF", .nums t.priF.toList),
   (str "BANDF", .nums t.bandF.toList), (str "CAP", .num t.cap)]

/-- The three data lines of TARIFF GET. -/
def tariffLines (r : Rate) : List (List Field) :=
  [ (str "VERSION", .num r.version.toNat) :: tariffFields r.active,
    (match r.pending with
      | some (t, a) => (str "PENDING", .yesNo true) :: (str "AT", a.value) :: tariffFields t
      | none => [(str "PENDING", .none_)]),
    [(str "BAND", .num r.band), (str "NEXTBAND", match r.nextBand with | some b => .num b | none => .none_)] ]

/-- TARIFF GET (R133). -/
def execTariffGet (s : State) : Host.Outcome State Fault Refusal :=
  takeLine .tariffGet
    (fun tag fs s => carry tag (checkNoFields fs) (fun _ s => s.report tag (tariffLines s.rate) []) s) s

end Sys2Proof.Machine
end

