-- ==== Sys2Proof/Machine/Zones.lean ====
section
/-! DEFINITION. The rows of chapter 6 that the office commands: ZONE SET (R91) and ZONE GET (R104). -/

namespace Sys2Proof.Machine

/-- The keys of ZONE SET besides ZONE (R90). -/
def zoneForms : List KeyForm :=
  [keyForm "STATE" (wordValue zoneStateWords), keyForm "COLOR" (wordValue colorWords), keyForm "LEAD" (readIn 0 7),
   keyForm "TAIL" (readIn 0 7), keyForm "GAP" (readIn 0 31)]

/-- The settings of a zone with every field given at its new value. -/
def ZoneSettings.updated (z : ZoneSettings) (fs : List RawField) : ZoneSettings where
  state := (fieldOf fs "STATE" (wordValue zoneStateWords)).getD z.state
  color := (fieldOf fs "COLOR" (wordValue colorWords)).getD z.color
  lead := (fieldOf fs "LEAD" (readIn 0 7)).getD z.lead
  tail := (fieldOf fs "TAIL" (readIn 0 7)).getD z.tail
  gap := (fieldOf fs "GAP" (readIn 0 31)).getD z.gap

/-- The checks of R91. -/
def checkZoneSet (fs : List RawField) : Except Denial Zone := do
  checkForm (keyForm "ZONE" (readFin 8) :: zoneForms) ["ZONE"] fs
  checkSomeOf zoneForms fs
  need (fieldOf fs "ZONE" (readFin 8)) "ZONE"

def applyZoneSet (tag : Nat) (fs : List RawField) (z : Zone) (s : State) : State :=
  (s.modZone z (fun c => { c with settings := c.settings.updated fs })).reply tag .ok [(str "ZONE", .num z)]

/-- ZONE SET (R91). -/
def execZoneSet (s : State) : Host.Outcome State Fault Refusal :=
  takeLine .zoneSet (fun tag fs s => carry tag (checkZoneSet fs) (applyZoneSet tag fs) s) s

/-- An order as a value. -/
def orderValue (o : Option OrderInfo) : Value := match o with | some i => .order i | none => .none_

/-- The first data line of ZONE GET. -/
def zoneLine (s : State) (z : Zone) : List Field :=
  let c := s.txi[z].settings
  [(str "ZONE", .num z), (str "STATE", .word c.state.name), (str "COLOR", .word c.color.name), (str "LEAD", .num c.lead),
   (str "TAIL", .num c.tail), (str "GAP", .num c.gap)]

/-- The second data line of ZONE GET. -/
def zoneCountLine (s : State) (z : Zone) : List Field :=
  let c := s.txi[z]
  [(str "NEXT", orderValue c.next), (str "CURRENT", orderValue c.current), (str "ORDERS", .num c.orders),
   (str "TESTS", .num c.tests), (str "BRIDGES", .num c.bridges), (str "WITHDRAWS", .num c.withdraws)]

/-- CLEAR is a key of ZONE GET only beside ZONE (R104). -/
def zoneGetForms (fs : List RawField) : List KeyForm :=
  keyForm "ZONE" (readFin 8) :: if hasKey fs "ZONE" then [(str "CLEAR", fun t => t == str "YES")] else []

def ZoneCell.cleared (c : ZoneCell) : ZoneCell := { c with orders := 0, tests := 0, bridges := 0, withdraws := 0 }

def applyZoneGet (tag : Nat) (fs : List RawField) (s : State) : State :=
  match fieldOf fs "ZONE" (readFin 8) with
  | some z =>
    let s' := s.report tag [zoneLine s z, zoneCountLine s z] []
    if hasKey fs "CLEAR" then s'.modZone z ZoneCell.cleared else s'
  | none => s.report tag (allZones.map (zoneLine s)) []

/-- ZONE GET (R104). -/
def execZoneGet (s : State) : Host.Outcome State Fault Refusal :=
  takeLine .zoneGet
    (fun tag fs s => carry tag (checkForm (zoneGetForms fs) [] fs) (fun _ s => applyZoneGet tag fs s) s) s

end Sys2Proof.Machine
end

