-- ==== Sys2Proof/Machine/Dispatch.lean ====
section
/-! DEFINITION. Which meaning each row of the table has. -/

namespace Sys2Proof.Machine

def exec (i : Instr) (s : State) : Host.Outcome State Fault Refusal :=
  match i with
  | .coldStart => Sys2Proof.Machine.execColdStart s
  | .commandLine chars => Sys2Proof.Machine.execCommandLine chars s
  | .lineSent => Sys2Proof.Machine.execLineSent s
  | .badCommand => Sys2Proof.Machine.execBadCommand s
  | .subAdd => Sys2Proof.Machine.execSubAdd s
  | .subSet => Sys2Proof.Machine.execSubSet s
  | .subGet => Sys2Proof.Machine.execSubGet s
  | .subSuspend => Sys2Proof.Machine.execSubSuspend s
  | .subResume => Sys2Proof.Machine.execSubResume s
  | .subRemove => Sys2Proof.Machine.execSubRemove s
  | .planSet => Sys2Proof.Machine.execPlanSet s
  | .planGet => Sys2Proof.Machine.execPlanGet s
  | .submit => Sys2Proof.Machine.execSubmit s
  | .cancel => Sys2Proof.Machine.execCancel s
  | .pageGet => Sys2Proof.Machine.execPageGet s
  | .heldList => Sys2Proof.Machine.execHeldList s
  | .heldRelease => Sys2Proof.Machine.execHeldRelease s
  | .airStart => Sys2Proof.Machine.execAirStart s
  | .airStop => Sys2Proof.Machine.execAirStop s
  | .zoneSet => Sys2Proof.Machine.execZoneSet s
  | .zoneGet => Sys2Proof.Machine.execZoneGet s
  | .tariffLoad => Sys2Proof.Machine.execTariffLoad s
  | .bandSet => Sys2Proof.Machine.execBandSet s
  | .tariffGet => Sys2Proof.Machine.execTariffGet s
  | .credit => Sys2Proof.Machine.execCredit s
  | .adjust => Sys2Proof.Machine.execAdjust s
  | .billRead => Sys2Proof.Machine.execBillRead s
  | .billRewind => Sys2Proof.Machine.execBillRewind s
  | .periodClose => Sys2Proof.Machine.execPeriodClose s
  | .periodCloseAll => Sys2Proof.Machine.execPeriodCloseAll s
  | .noticeLevels => Sys2Proof.Machine.execNoticeLevels s
  | .status => Sys2Proof.Machine.execStatus s
  | .officeSet => Sys2Proof.Machine.execOfficeSet s
  | .officeGet => Sys2Proof.Machine.execOfficeGet s
  | .restart => Sys2Proof.Machine.execRestart s
  | .replyReportFrame link bytes => Sys2Proof.Machine.execReplyReportFrame link bytes s
  | .reportTake => Sys2Proof.Machine.execReportTake s
  | .strobe good => Sys2Proof.Machine.execStrobe good s
  | .missingStrobe => Sys2Proof.Machine.execMissingStrobe s
  | .leadInEnd => Sys2Proof.Machine.execLeadInEnd s
  | .windowBoundary => Sys2Proof.Machine.execWindowBoundary s
  | .heldWindowStart => Sys2Proof.Machine.execHeldWindowStart s
  | .stoppingWindowEnd => Sys2Proof.Machine.execStoppingWindowEnd s
  | .walkRecord => Sys2Proof.Machine.execWalkRecord s
  | .buildEnd => Sys2Proof.Machine.execBuildEnd s
  | .airingRecord => Sys2Proof.Machine.execAiringRecord s
  | .replyWaitExpiry => Sys2Proof.Machine.execReplyWaitExpiry s
  | .holdEnd msg => Sys2Proof.Machine.execHoldEnd msg s
  | .readWaitEnd => Sys2Proof.Machine.execReadWaitEnd s
  | .sweepVisit => Sys2Proof.Machine.execSweepVisit s
  | .startMarker link byte => Sys2Proof.Machine.execStartMarker link byte s

end Sys2Proof.Machine
end

