-- ==== Sys2Proof/Machine/Render.lean ====
section
/-! DEFINITION. The characters of sent lines (11.1, R182) and the bytes of the frames on the transmitter links
(11.4). The state holds lines and frames by their fields; these functions give them the form in which they
travel. -/

namespace Sys2Proof.Machine

/-- A placement value: round.window:zone/first,zone/first (11.1). -/
def showPlace (round : Round) (window : Window) (firsts : List (Zone × Nat)) : Text :=
  showNat round ++ periodChar :: showNat window ++ colonChar ::
    joinCommas (firsts.map (fun zf => showNat zf.1 ++ slashChar :: showNat zf.2))

/-- An order value: round.window:kind:key-on:key-off (11.1). -/
def showOrder (o : OrderInfo) : Text :=
  showNat o.round ++ periodChar :: showNat o.window ++ colonChar :: o.kind.name ++ colonChar :: showInt o.keyOn ++
    colonChar :: showNat o.keyOff

/-- A value in its form (11.1). -/
def Value.show : Value → Text
  | .num n => showNat n
  | .int i => showInt i
  | .word t => t
  | .none_ => str "NONE"
  | .yesNo b => if b then str "YES" else str "NO"
  | .nums [] => str "NONE"
  | .nums (n :: ns) => joinCommas ((n :: ns).map showNat)
  | .words [] => str "NONE"
  | .words (t :: ts) => joinCommas (t :: ts)
  | .msg m => showNat m.slot ++ periodChar :: showNat m.gen.toNat
  | .acquiring k => str "ACQUIRING" ++ colonChar :: showNat k
  | .place r w f => showPlace r w f
  | .order o => showOrder o

/-- Fields, each after one space (log 6). -/
def showFields (fs : List Field) : Text := fs.flatMap (fun f => spaceChar :: f.1 ++ equalsChar :: f.2.show)

/-- The checked characters of a line: "#tag RESULT", "#tag =" or "!KIND", and its fields (R170, R175). -/
def OutLine.body : OutLine → Text
  | .final tag r fs => hashChar :: showNat tag ++ spaceChar :: r.name ++ showFields fs
  | .data tag fs => hashChar :: showNat tag ++ [spaceChar, equalsChar] ++ showFields fs
  | .notice k fs => bangChar :: k.name ++ showFields fs

/-- A line as it is sent, with its check and the terminator 0Dh 0Ah (R182). -/
def OutLine.chars (l : OutLine) : Text := l.body ++ starChar :: showHex4 (crc16 l.body) ++ [0x0D#8, 0x0A#8]

/-! ### Frames on the transmitter links (11.4) -/

def byteOf (n : Nat) : Byte := BitVec.ofNat 8 n

/-- A 16-bit quantity, most significant byte first. -/
def twoBytes (n : Nat) : List Byte := [byteOf (n / 256), byteOf n]

/-- The six bytes of a block, bit 47 first. -/
def Block.bytes (b : Block) : List Byte :=
  [b.extractLsb' 40 8, b.extractLsb' 32 8, b.extractLsb' 24 8, b.extractLsb' 16 8, b.extractLsb' 8 8,
   b.extractLsb' 0 8]

def OrderKind.byte : OrderKind → Byte | .scheduled => 0x01#8 | .test => 0x02#8

def Layout.byte : Layout → Byte | .locked => 0x00#8 | .degraded => 0x01#8

/-- The bytes of a frame after its start marker and before its check. -/
def TxFrame.content : TxFrame → List Byte
  | .order zone info layout bridge slots =>
    [info.kind.byte, byteOf zone] ++ twoBytes info.round ++
      [byteOf info.window, layout.byte, BitVec.ofInt 8 info.keyOn, byteOf info.keyOff,
       if bridge then 0x01#8 else 0x00#8] ++ slots.flatMap Block.bytes
  | .withdraw zone round window => [0x03#8, byteOf zone] ++ twoBytes round ++ [byteOf window]

/-- A frame as it travels: the marker 3Ch, the content and the CRC-16 over the content (11.4). -/
def TxFrame.bytes (f : TxFrame) : List Byte := 0x3C#8 :: f.content ++ twoBytes (crc16 f.content).toNat

end Sys2Proof.Machine
end

