-- ==== Sys2Proof/Safety.lean ====
section
/-! DEFINITION. What stays true at every step: the capacities of the tables, queues and counters, the order of the notice
queue, the canonical form of the tables, the agreement of entries, records and places, the bounds of the money fields,
the order and the room of the journal, the ranges of the settings, and the images and orders that each air state has. -/

namespace Sys2Proof.Machine

/-! ### Capacities (00_scope.md, "Capacities at a Glance") -/

/-- Queues and counters of the Host Line Controller (R168, R169, R175). -/
def Hlc.Sized (h : Hlc) : Prop :=
  h.buffer.length ≤ Config.bufferLines ∧ h.notices.length ≤ Config.notices ∧ h.badLine ≤ Config.counterTop ∧
    h.dropped ≤ Config.counterTop

/-- A receiver link has taken fewer than the 13 bytes after a marker (R183). -/
def RxLink.Sized : RxLink → Prop
  | .hunting => True
  | .taking got => got.length < 13

/-- The reply queue, the links and the counters of RXI (R107, R125, R183). -/
def Rxi.Sized (x : Rxi) : Prop :=
  x.replies.length ≤ Config.replies ∧ x.noise ≤ Config.counterTop ∧ x.overflow ≤ Config.overflowTop ∧
    ∀ l : LinkNo, x.links[l].Sized

/-- The counters of RMAT (R125). -/
def Rmat.Sized (m : Rmat) : Prop :=
  m.unknown ≤ Config.counterTop ∧ m.unexpected ≤ Config.counterTop ∧ m.stale ≤ Config.counterTop ∧
    m.duplicate ≤ Config.counterTop

/-- The counts of a zone (R104). -/
def ZoneCell.Sized (c : ZoneCell) : Prop :=
  c.orders ≤ Config.counterTop ∧ c.tests ≤ Config.counterTop ∧ c.bridges ≤ Config.counterTop ∧
    c.withdraws ≤ Config.counterTop

/-- The lock detector: fewer than 64 strobes in the group, a count of 1 to 7 while acquiring (R65, R66). -/
def Aclk.Sized (a : Aclk) : Prop :=
  a.strobes < 64 ∧ ∀ k, a.detector = .acquiring k → 1 ≤ k ∧ k ≤ 7

/-- The counters of ACCT (R158, R159). -/
def Acct.Sized (a : Acct) : Prop := a.overflow ≤ Config.overflowTop ∧ a.lost ≤ Config.counterTop

/-- An entry has at most 64 live records, and the age of its last-heard zone stays at 255 (R6, R8). -/
def Entry.Sized (e : Entry) : Prop := e.live ≤ 64 ∧ ∀ h, e.heard = some h → h.age ≤ 255

/-- Entries stand at the numbers 0-4095 (R1). -/
def State.EntriesSized (s : State) : Prop := ∀ c ∈ s.subs.cells, c.1 < Config.subscribers ∧ c.2.Sized

/-- Each record stands in its own slot, of 0-2047, with a deferral count of at most 255, and the records take at most
the 12,288 chunks of the pool (R20, R27, R83). -/
def Store.Sized (x : Store) : Prop :=
  (∀ c ∈ x.records.cells, c.1 < Config.slots ∧ c.2.id.slot = c.1 ∧ c.2.deferral ≤ 255) ∧
    (∀ c ∈ x.gens.cells, c.1 < Config.slots) ∧
    (x.records.values.flatMap PageRec.chunkList).length ≤ Config.chunks

/-- Every table, queue and counter is within its capacity. The awaiting list and the held lists are bounded by the
records they hold (`State.Linked`). -/
def State.Sized (s : State) : Prop :=
  s.hlc.Sized ∧ s.rxi.Sized ∧ s.rmat.Sized ∧ (∀ z : Zone, s.txi[z].Sized) ∧ s.aclk.Sized ∧ s.acct.Sized ∧
    s.wsch.deferrals ≤ Config.counterTop ∧ s.EntriesSized ∧ s.store.Sized

/-! ### Order of the notice queue (R175) -/

/-- The notice `a` stands ahead of the notice `b`: its kind has a higher level, or the same level and it was placed
before. -/
def Hlc.Ahead (h : Hlc) (a b : Notice) : Prop :=
  h.level b.kind < h.level a.kind ∨ h.level b.kind = h.level a.kind ∧ a.stamp < b.stamp

/-- The notice queue stands by level and within a level by age; none of it has level 0 (R174), no two were placed at
once, and what is placed next is the youngest. -/
def Hlc.InOrder (h : Hlc) : Prop :=
  h.notices.Pairwise h.Ahead ∧ (h.notices.map Notice.stamp).Nodup ∧
    ∀ n ∈ h.notices, n.stamp < h.nextStamp ∧ 0 < h.level n.kind

/-! ### Canonical form -/

/-- The tables list their numbers strictly rising, each once, and no slot under the vacant generation 0. -/
def State.Canonical (s : State) : Prop :=
  s.subs.wf = true ∧ s.store.records.wf = true ∧ s.store.gens.wf = true ∧ ∀ c ∈ s.store.gens.cells, c.2 ≠ 0

/-! ### Entries, records and places (R3, R7, R8, R20, R29, R147) -/

/-- No address is held by two entries (R3). -/
def State.AddressesDiffer (s : State) : Prop := (s.subs.values.map Entry.addr).Nodup

/-- The live records of a subscriber. -/
def State.liveOf (s : State) (n : Nat) : List PageRec := s.live.filter (fun r => r.sub == n)

/-- An entry counts its live records (R8), holds the tags they hold, no two of them the same (R7), and reserves what
they reserve (R147). -/
def State.EntryAgrees (s : State) (n : Nat) (e : Entry) : Prop :=
  e.live = (s.liveOf n).length ∧
    ((s.liveOf n).filterMap PageRec.tag).Nodup ∧ (∀ g, g ∈ e.tags ↔ g ∈ (s.liveOf n).filterMap PageRec.tag) ∧
    e.money.reserved = ((s.liveOf n).map (fun r => r.reservation.getD 0)).sum

/-- A record holds a reservation only until its first airing (R147), chunks until it is delivered (R20, R111), and in
them the whole of the text it was accepted with, which stays with it (R47, log 12). In QUEUED and HELD it holds no tag (R7, R110). -/
def PageRec.Whole (r : PageRec) : Prop :=
  (r.reservation.isSome = true → r.series = .first ∧ r.count = 0) ∧
    (r.state = .awaiting ∨ r.state = .retryWait ∨ r.state = .held → r.reservation = none) ∧
    (r.chunks = none ↔ r.len = 0 ∨ r.state = .delivered) ∧
    (r.kept.length = r.len ∧ ∀ cs, r.chunks = some cs → cs.length = (r.len + 15) / 16 ∧ r.text = r.kept) ∧
    (r.state = .queued ∨ r.state = .held → r.tag = none)

/-- Entries and records agree; no chunk is in use twice. -/
def State.Agrees (s : State) : Prop :=
  (∀ n e, s.sub? n = some e → s.EntryAgrees n e) ∧ (∀ r ∈ s.live, (s.sub? r.sub).isSome = true ∧ r.Whole) ∧
    s.usedChunks.Nodup ∧ ∀ i ∈ s.usedChunks, i < Config.chunks

/-- The records that stand in an image: those of the image under build, and those of the image on air not yet aired. -/
def State.inImages (s : State) : List MsgId :=
  (match s.wsch.build with | some b => b.image.order | none => []) ++
    (match s.wsch.onAir with | some o => o.toAir | none => [])

/-- The one place a live record has by its state (R29): its home window's queue, an image, the awaiting list, or its
subscriber's held list; a DELIVERED one stands in an image or on the awaiting list, not on both. -/
def State.InPlace (s : State) (r : PageRec) (e : Entry) : Prop :=
  (∀ w : Window, r.id ∈ s.queue w ↔ (r.state = .queued ∨ r.state = .retryWait) ∧ w = e.home) ∧
    (r.id ∈ s.inImages ↔ r.state = .placed ∨ r.state = .delivered ∧ r.id ∉ s.rmat.awaiting) ∧
    (r.id ∈ s.rmat.awaiting ↔ r.state = .awaiting ∨ r.state = .delivered ∧ r.id ∉ s.inImages) ∧
    ∀ n x, s.sub? n = some x → (r.id ∈ x.held ↔ r.state = .held ∧ n = r.sub)

/-- Every live record is in its one place, and every place holds live records only, each once. -/
def State.Placed (s : State) : Prop :=
  (∀ r ∈ s.live, ∀ e, s.sub? r.sub = some e → s.InPlace r e) ∧
    (∀ w : Window, (s.queue w).Nodup ∧ ∀ m ∈ s.queue w, (s.rec? m).isSome = true) ∧
    (s.inImages.Nodup ∧ ∀ m ∈ s.inImages, (s.rec? m).isSome = true) ∧
    (s.rmat.awaiting.Nodup ∧ ∀ m ∈ s.rmat.awaiting, (s.rec? m).isSome = true) ∧
    ∀ n e, s.sub? n = some e → e.held.Nodup ∧ ∀ m ∈ e.held, (s.rec? m).isSome = true

/-- Entries, records and places agree with one another. -/
def State.Linked (s : State) : Prop := s.Agrees ∧ s.Placed

/-! ### Money (R146) -/

/-- The bounds of the money fields of one entry. -/
def Money.Bounded (m : Money) : Prop :=
  -16777215 ≤ m.floor ∧ m.floor ≤ 0 ∧ m.floor ≤ m.balance ∧ m.balance ≤ Config.balanceTop ∧
    m.periodPages ≤ Config.counterTop ∧ m.periodCharges ≤ Config.chargesTop

/-- Every account is within its bounds: no balance below its floor or above the top. -/
def State.Solvent (s : State) : Prop := ∀ e ∈ s.subs.values, e.money.Bounded

/-! ### The journal (R155) -/

/-- The ring holds at most 1024 records, the newest written, in sequence order, and every unread record. -/
def Acct.Ordered (a : Acct) : Prop :=
  a.ring.length ≤ Config.journal ∧ a.unread ≤ a.ring.length ∧
    ∀ (i : Nat) (h : i < a.ring.length), (a.ring[i]).seq = a.nextSeq - BitVec.ofNat 32 (a.ring.length - i)

/-- In HOLD mode there is one AIR reservation for each placement not yet aired, and unread records and reservations
together fit the ring; in OVERWRITE mode there is no reservation (R157, R159). -/
def State.Roomy (s : State) : Prop :=
  match s.office.journalMode with
  | .hold => s.acct.airReserved = s.inImages.length ∧ s.acct.unread + s.acct.airReserved ≤ Config.journal
  | .overwrite => s.acct.airReserved = 0

/-! ### Settings (R9, R90, R127, R178) -/

def ZoneSettings.Ranged (z : ZoneSettings) : Prop := z.lead ≤ 7 ∧ z.tail ≤ 7 ∧ z.gap ≤ 31

def Plan.Ranged (p : Plan) : Prop :=
  (1 ≤ p.maxChars ∧ p.maxChars ≤ 200) ∧ (1 ≤ p.maxPages ∧ p.maxPages ≤ 64) ∧ (1 ≤ p.attempts ∧ p.attempts ≤ 7) ∧
    (1 ≤ p.repeats ∧ p.repeats ≤ 3) ∧ (∀ i : Fin 6, 1 ≤ p.backoff[i] ∧ p.backoff[i] ≤ 15) ∧ p.retryPct ≤ 100 ∧
    p.refundPct ≤ 100 ∧ p.readWait ≤ 255 ∧ (1 ≤ p.hold ∧ p.hold ≤ 65535) ∧ p.included ≤ 65535 ∧ p.receiptFee ≤ 65535

def Tariff.Ranged (t : Tariff) : Prop :=
  t.toneFee ≤ 65535 ∧ t.numFee ≤ 65535 ∧ t.alphaFee ≤ 65535 ∧ t.blockRate ≤ 65535 ∧ t.zoneInc ≤ 100 ∧
    (∀ p : Priority, 50 ≤ t.priF[p] ∧ t.priF[p] ≤ 400) ∧ (∀ c : Band, 25 ≤ t.bandF[c] ∧ t.bandF[c] ≤ 400) ∧
    (1 ≤ t.cap ∧ t.cap ≤ 1000000)

def Office.Ranged (o : Office) : Prop :=
  (1 ≤ o.replyWait ∧ o.replyWait ≤ 15) ∧ o.minBurst ≤ 255 ∧ o.minQuality ≤ 15 ∧
    (1 ≤ o.zoneMemory ∧ o.zoneMemory ≤ 255) ∧ o.unbarMargin ≤ 65535 ∧ o.congestion ≤ 2047 ∧
    (1 ≤ o.journalHigh ∧ o.journalHigh ≤ 1024)

/-- Every setting the office can give is in its range. -/
def State.Ranged (s : State) : Prop :=
  (∀ z : Zone, s.txi[z].settings.Ranged) ∧ (∀ p : PlanNo, s.plans[p].Ranged) ∧ s.rate.active.Ranged ∧
    (∀ t a, s.rate.pending = some (t, a) → t.Ranged) ∧ s.office.Ranged

/-! ### The air states (R58, R71, R95) -/

/-- No zone has a next or a current order. -/
def State.NoOrders (s : State) : Prop := ∀ z : Zone, s.txi[z].next = none ∧ s.txi[z].current = none

/-- The images that each air state has (the table of R71), with the orders of STOPPED (R95) and the event that may be
held (R60 to R62). In RUNNING an image is on air but while the first window-start event is held (log 17). -/
def State.AirShape (s : State) : Prop :=
  match s.aclk.air with
  | .stopped => s.wsch.build = none ∧ s.wsch.onAir = none ∧ s.aclk.holding = .none_ ∧ s.NoOrders
  | .starting => s.wsch.build.isSome = true ∧ s.wsch.onAir = none ∧ s.aclk.holding = .none_
  | .running =>
    s.wsch.build.isSome = true ∧
      (s.aclk.holding = .none_ ∧ s.wsch.onAir.isSome = true ∨ s.aclk.holding = .windowStart)
  | .stopping => s.wsch.build = none ∧ s.wsch.onAir.isSome = true ∧ s.aclk.holding ≠ .windowStart

end Sys2Proof.Machine
end

