-- ==== Sys2Proof/Certificates/Slice0/Obligations.lean ====
section
/-! DEFINITION. The statements for the provers, in the order of the manual's blocks. A statement of what a row does
says the whole next state, so that what it does not name stands as it was. Every `.settle` in them, by which an idle
line takes at the end of a step what waits, is the model's choice (log 4). -/

open Sys2Proof Sys2Proof.Machine

namespace Sys2Proof.Machine

/-- The line `l`, which gives the command `c`, stands at the head of the buffer, `rest` behind it (R169, R170). -/
def State.Heads (s : State) (c : HostCommand) (l : CmdLine) (rest : List CmdLine) : Prop :=
  s.hlc.buffer = l :: rest ∧ l.command = some c

/-- The state once the head line has left the buffer (R169). -/
def State.lineOff (s : State) (rest : List CmdLine) : State := { s with hlc := { s.hlc with buffer := rest } }

/-- What the 16-bit check computes (R182, R183): the register starts at FFFFh; each bit of each character, the most
significant first, is combined with the register's top bit, the register shifts left, and it is combined with 1021h if
the combined bit was 1. -/
def Check16 : Prop :=
  crc16 [] = 0xFFFF#16 ∧
  ∀ (t : Text) (b : Byte), crc16 (t ++ [b]) = [7, 6, 5, 4, 3, 2, 1, 0].foldl
    (fun (reg : BitVec 16) (i : Nat) =>
      if xor (b.getLsbD i) (reg.getLsbD 15) = true then (reg <<< 1) ^^^ 0x1021#16 else reg <<< 1) (crc16 t)

/-- What the 12-bit check computes (R184): the register starts at 0; each of the 36 payload bits, bit 47 of the block
first, is combined with the register's top bit, the register shifts left, and it is combined with 80Fh if the combined
bit was 1. -/
def Check12 : Prop :=
  ∀ payload : BitVec 36, crc12 payload = (List.range 36).foldl
    (fun (reg : BitVec 12) (i : Nat) =>
      if xor (payload.getLsbD (35 - i)) (reg.getLsbD 11) = true then (reg <<< 1) ^^^ 0x80F#12 else reg <<< 1) 0#12

end Sys2Proof.Machine

/-! ### The queue of rows -/

/-- A step carries out the command at the front of the queue on the state with the queue's rest. -/
def Obligations.StepTakesFrontCommand : Prop :=
  ∀ (c : Instr) (rest : List Instr) (s : State), s.pending = c :: rest → step s = exec c { s with pending := rest }

/-- Every row ends in a next state, whatever the state, and leaves the queue of rows alone. -/
def Obligations.EveryRowEndsInNextState : Prop :=
  ∀ (c : Instr) (s : State), ∃ t, exec c s = .next t ∧ t.pending = s.pending

/-! ### Cold start (R181). That the queue of rows stands is the model's choice (log 31). -/

/-- A cold start gives every piece of state its cold-start value. The log of lines sent, the order of placing notices
and the free-value counter are the model's own (log 5, log 29). -/
def Obligations.ColdStartValues : Prop :=
  ∀ s : State, ∃ t, exec .coldStart s = .next t ∧ t.pending = s.pending ∧
    t.hlc.start = .cold ∧ t.hlc.buffer = [] ∧ t.hlc.notices = [] ∧ t.hlc.sending = none ∧ t.hlc.answers = [] ∧
    t.hlc.busy = [] ∧ t.hlc.underWay = [] ∧ (∀ k : NoticeKind, t.hlc.flags[k.index] = false) ∧ t.hlc.badLine = 0 ∧
    t.hlc.dropped = 0 ∧ t.hlc.sent = [] ∧ t.hlc.nextStamp = 0 ∧ t.fresh = 0 ∧
    (t.hlc.level .lock = 3 ∧ t.hlc.level .barred = 3 ∧ t.hlc.level .journalHigh = 3 ∧ t.hlc.level .journalLost = 3 ∧
      t.hlc.level .pageMissed = 2 ∧ t.hlc.level .pageExpired = 2 ∧ t.hlc.level .lowBalance = 2 ∧
      t.hlc.level .congestion = 2 ∧ t.hlc.level .periodDone = 2 ∧ t.hlc.level .tariffActive = 2 ∧
      t.hlc.level .pageRead = 1 ∧ t.hlc.level .usageHigh = 1 ∧ t.hlc.level .unbarred = 1 ∧
      t.hlc.level .replyOverflow = 1 ∧ t.hlc.level .oversize = 1 ∧ t.hlc.level .pageDelivered = 0 ∧
      t.hlc.level .pageSent = 0 ∧ t.hlc.level .pageDone = 0) ∧
    (∀ n, t.sub? n = none) ∧ (∀ a, t.holderOf a = none) ∧
    (∀ p : PlanNo, t.plans[p] =
      { maxChars := 200, maxPri := 1, maxPages := 8, attempts := 3, repeats := 1, backoff := #v[1, 1, 2, 2, 4, 4]
        retryPct := 50, refundPct := 0, readWait := 0, hold := 96, autoRecover := false, included := 0
        receiptFee := 0 }) ∧
    (∀ m, t.rec? m = none) ∧ (∀ slot, t.generation slot = 0) ∧ t.store.nextSeq = 0 ∧ t.store.congested = false ∧
    t.freeRecords = 2048 ∧ t.freeChunks = 12288 ∧
    (t.aclk.air = .stopped ∧ t.aclk.round = 0 ∧ t.aclk.window = 0 ∧ t.aclk.holding = .none_ ∧
      t.aclk.detector = .unlocked ∧ t.aclk.strobes = 0 ∧ t.aclk.badMark = false) ∧
    (∀ w : Window, t.queue w = []) ∧ t.wsch.build = none ∧ t.wsch.onAir = none ∧ t.wsch.oversize = [] ∧
    t.wsch.deferrals = 0 ∧
    (∀ z : Zone, t.txi[z].settings = { state := .outOfService, color := .a, lead := 2, tail := 1, gap := 4 } ∧
      t.txi[z].next = none ∧ t.txi[z].current = none ∧ t.txi[z].orders = 0 ∧ t.txi[z].tests = 0 ∧
      t.txi[z].bridges = 0 ∧ t.txi[z].withdraws = 0 ∧ t.txi[z].sent = []) ∧
    (∀ l : LinkNo, t.rxi.links[l] = .hunting) ∧ t.rxi.replies = [] ∧ t.rxi.noise = 0 ∧ t.rxi.overflow = 0 ∧
    t.rmat.awaiting = [] ∧ t.rmat.unknown = 0 ∧ t.rmat.unexpected = 0 ∧ t.rmat.stale = 0 ∧ t.rmat.duplicate = 0 ∧
    (t.rate.active = { toneFee := 0, numFee := 0, alphaFee := 0, blockRate := 0, zoneInc := 0
                       priF := #v[100, 100, 100, 100], bandF := #v[100, 100, 100, 100], cap := 1000000 } ∧
      t.rate.version = 0 ∧ t.rate.pending = none ∧ t.rate.band = 0 ∧ t.rate.nextBand = none) ∧
    (t.acct.ring = [] ∧ t.acct.nextSeq = 1 ∧ t.acct.cursor = 1 ∧ t.acct.overflow = 0 ∧ t.acct.highLatch = false ∧
      t.acct.airReserved = 0 ∧ t.acct.lost = 0 ∧ t.acct.sweep = none) ∧
    t.office = { airRate := 1, replyWait := 4, minBurst := 8, minQuality := 3, zoneMemory := 16, unbarMargin := 0
                 congestion := 128, journalMode := .hold, journalHigh := 768, highType := .once, clearOnRead := false
                 replyPolicy := .discardNew, lockEdge := .both }

/-! ### The host line (chapter 10) -/

namespace Sys2Proof.Machine

/-- The row by which a command is taken. -/
def HostCommand.row : HostCommand → Instr
  | .subAdd => .subAdd | .subSet => .subSet | .subGet => .subGet | .subSuspend => .subSuspend
  | .subResume => .subResume | .subRemove => .subRemove | .planSet => .planSet | .planGet => .planGet
  | .submit => .submit | .cancel => .cancel | .pageGet => .pageGet | .heldList => .heldList
  | .heldRelease => .heldRelease | .airStart => .airStart | .airStop => .airStop | .zoneSet => .zoneSet
  | .zoneGet => .zoneGet | .tariffLoad => .tariffLoad | .bandSet => .bandSet | .tariffGet => .tariffGet
  | .credit => .credit | .adjust => .adjust | .billRead => .billRead | .billRewind => .billRewind
  | .periodClose => .periodClose | .periodCloseAll => .periodCloseAll | .noticeLevels => .noticeLevels
  | .status => .status | .officeSet => .officeSet | .officeGet => .officeGet | .restart => .restart

/-- The refusal a check has come to, if it has come to one. -/
def refusalOf {α : Type} : Except Denial α → Option Denial
  | .error d => some d
  | .ok _ => none

/-- The refusal the checks of a command come to on the fields of its line. -/
def HostCommand.refusal (c : HostCommand) (s : State) (fs : List RawField) : Option Denial :=
  match c with
  | .subAdd => refusalOf (checkSubAdd s fs)
  | .subSet => refusalOf (checkSubSet s fs)
  | .subGet | .subSuspend | .subResume | .heldList | .heldRelease => refusalOf (namedEntry s fs)
  | .subRemove => refusalOf (checkSubRemove s fs)
  | .planSet => refusalOf (checkPlanSet fs)
  | .planGet => refusalOf (checkForm [keyForm "PLAN" (readFin 8)] [] fs)
  | .submit => refusalOf (checkSubmit s fs)
  | .cancel | .pageGet => refusalOf (namedRecord s fs)
  | .airStart => refusalOf (checkAirStart s fs)
  | .airStop => refusalOf (checkAirStop s fs)
  | .zoneSet => refusalOf (checkZoneSet fs)
  | .zoneGet => refusalOf (checkForm (zoneGetForms fs) [] fs)
  | .tariffLoad => refusalOf (checkTariffLoad fs)
  | .bandSet => refusalOf (checkBandSet fs)
  | .tariffGet | .officeGet => refusalOf (checkNoFields fs)
  | .credit => refusalOf (checkMoney readCredit s fs)
  | .adjust => refusalOf (checkMoney readAdjust s fs)
  | .billRead => refusalOf (checkForm [keyForm "COUNT" (readIn 1 8)] [] fs)
  | .billRewind => refusalOf (checkBillRewind s fs)
  | .periodClose => refusalOf (checkPeriodClose s fs)
  | .periodCloseAll => refusalOf (checkPeriodCloseAll s fs)
  | .noticeLevels => refusalOf (checkForm levelForms [] fs)
  | .status => refusalOf (checkForm [yesForm "CLEAR"] [] fs)
  | .officeSet => refusalOf (checkOfficeSet s fs)
  | .restart => refusalOf (checkRestart s fs)

/-- A field of a line is at fault: it has no value, its key is not taken, its value does not have its form, or its key
stands among the fields before it (R170). -/
def Faulty (forms : List KeyForm) (before : List RawField) (f : RawField) : Prop :=
  (¬ ∃ v form, f.value = some v ∧ forms.find? (fun k => k.1 == f.key) = some form ∧ form.2 v = true) ∨
    ∃ x ∈ before, x.key = f.key

/-- `f` is the first field of a line that is at fault. -/
def FirstFaulty (forms : List KeyForm) (fs : List RawField) (f : RawField) : Prop :=
  ∃ before after, fs = before ++ f :: after ∧ Faulty forms before f ∧
    ∀ b x a, before = b ++ x :: a → ¬ Faulty forms b x

end Sys2Proof.Machine

namespace Sys2Proof.Machine

/-- The commands by their words, as the rules spell them. -/
def commandNames : List (HostCommand × String) :=
  [(.subAdd, "SUB ADD"), (.subSet, "SUB SET"), (.subGet, "SUB GET"), (.subSuspend, "SUB SUSPEND"),
   (.subResume, "SUB RESUME"), (.subRemove, "SUB REMOVE"), (.planSet, "PLAN SET"), (.planGet, "PLAN GET"),
   (.submit, "SUBMIT"), (.cancel, "CANCEL"), (.pageGet, "PAGE GET"), (.heldList, "HELD LIST"),
   (.heldRelease, "HELD RELEASE")] ++
  [(.airStart, "AIR START"), (.airStop, "AIR STOP"), (.zoneSet, "ZONE SET"), (.zoneGet, "ZONE GET"),
   (.tariffLoad, "TARIFF LOAD"), (.bandSet, "BAND SET"), (.tariffGet, "TARIFF GET"), (.credit, "CREDIT"),
   (.adjust, "ADJUST")] ++
  [(.billRead, "BILL READ"), (.billRewind, "BILL REWIND"), (.periodClose, "PERIOD CLOSE"),
   (.periodCloseAll, "PERIOD CLOSE ALL"), (.noticeLevels, "NOTICE LEVELS"), (.status, "STATUS"),
   (.officeSet, "OFFICE SET"), (.officeGet, "OFFICE GET"), (.restart, "RESTART")]

/-- Fields as they stand on a line: each behind a space, its key and its value with an equals sign between. -/
def written (fs : List (Text × Text)) : Text := fs.flatMap (fun f => str " " ++ f.1 ++ str "=" ++ f.2)

/-- What is read of fields so written. -/
def asRead (fs : List (Text × Text)) : List RawField := fs.map (fun f => { key := f.1, value := some f.2 })

/-- Keys without a space and an equals sign, values without a space. -/
def Plain (fs : List (Text × Text)) : Prop :=
  ∀ f ∈ fs, (∀ b ∈ f.1, b ≠ spaceChar ∧ b ≠ equalsChar) ∧ ∀ b ∈ f.2, b ≠ spaceChar

/-- How a command line is read behind its tag (R168, R170): the words of the command, and its fields; on SUBMIT the
field TEXT is its number of characters, a colon, and that many characters, spaces among them (R21). -/
def LineRead : Prop :=
  (∀ cn ∈ commandNames, ∀ (tag : Nat) (fs : List (Text × Text)), Plain fs →
    (cn.1 = .submit → ∀ f ∈ fs, f.1 ≠ str "TEXT") →
    let l : CmdLine := { tag := tag, rest := str " " ++ str cn.2 ++ written fs }
    l.command = some cn.1 ∧ l.fields = asRead fs) ∧
  (∀ (tag : Nat) (before after : List (Text × Text)) (text : Text), Plain before → Plain after →
    (∀ f ∈ before ++ after, f.1 ≠ str "TEXT") → text.length ≤ 200 →
    let l : CmdLine :=
      { tag := tag
        rest := str " SUBMIT" ++ written before ++ str " TEXT=" ++ showNat text.length ++ str ":" ++ text ++ written after }
    l.command = some .submit ∧
      l.fields = asRead before ++ { key := str "TEXT", value := some text } :: asRead after)

end Sys2Proof.Machine

/-- The decimal form the controller writes is the form it reads (11.1), for every number of up to 20 digits: its digits
with no leading zeros; so are the forms of signed amounts, message ids and zone sets. Signed amounts, message ids, lists
or NONE, the lock state with a count, placements and orders are written as 11.1 gives them, with YES and NO, and the
words of the result codes and notice kinds stand as the rules spell them. What the check computes is R182's. A line made
as R168 and R182 give is read as its tag and the characters after it, with 0Dh before the terminator or without; of
these the words give the command and the rest its fields, TEXT on SUBMIT by its count (R21, R168, R170). A sent line is
"#tag RESULT", "#tag =" or "!KIND" and its fields, the asterisk, the check of those characters as four capital digits,
0Dh and 0Ah (R170, R175, R182); the single space between its parts is the model's (log 6). Its check agrees when it is
read as a received line is, where it has no more than 480 characters and is printable. -/
def Obligations.LinesReadBack : Prop :=
  Check16 ∧ LineRead ∧
  (∀ n : Nat, n < 100000000000000000000 → readNat (showNat n) = some n ∧
    showNat n = (if n < 10 then [] else showNat (n / 10)) ++ [(str "0123456789").getD (n % 10) 0]) ∧
  ((∀ n : Nat, (Value.num n).show = showNat n) ∧
    (∀ n : Nat, (Value.int n).show = showNat n) ∧
    (∀ n : Nat, 0 < n → (Value.int (-(n : Int))).show = str "-" ++ showNat n) ∧
    (∀ w : Text, (Value.word w).show = w) ∧ Value.none_.show = str "NONE" ∧
    (Value.yesNo true).show = str "YES" ∧ (Value.yesNo false).show = str "NO" ∧
    (∀ l : List Nat, (Value.nums l).show = if l = [] then str "NONE" else (str ",").intercalate (l.map showNat)) ∧
    (∀ l : List Text, (Value.words l).show = if l = [] then str "NONE" else (str ",").intercalate l) ∧
    (∀ m : MsgId, (Value.msg m).show = showNat m.slot ++ str "." ++ showNat m.gen.toNat) ∧
    (∀ k : Nat, (Value.acquiring k).show = str "ACQUIRING:" ++ showNat k) ∧
    (∀ (round : Round) (window : Window) (firsts : List (Zone × Nat)), (Value.place round window firsts).show =
      showNat round ++ str "." ++ showNat window ++ str ":" ++
        (str ",").intercalate (firsts.map (fun zp => showNat zp.1 ++ str "/" ++ showNat zp.2))) ∧
    (∀ o : OrderInfo, (Value.order o).show =
      showNat o.round ++ str "." ++ showNat o.window ++ str ":" ++
        (match o.kind with | .scheduled => str "SCHEDULED" | .test => str "TEST") ++ str ":" ++
        (Value.int o.keyOn).show ++ str ":" ++ showNat o.keyOff)) ∧
  ((∀ i : Int, i.natAbs < 100000000000000000000 → readInt (Value.int i).show = some i) ∧
    (∀ m : MsgId, m.slot < 2048 → readMsg (Value.msg m).show = some m) ∧
    (∀ zones : ZoneSet, zones ≠ [] → zones.Pairwise (· < ·) →
      readZones (Value.nums (zones.map Fin.val)).show = some zones)) ∧
  ([Result.ok, .okPending, .refused .badCommand, .refused .badField, .refused .badSubscriber, .refused .noSubscriber,
      .refused .exists_, .refused .duplicateAddress, .refused .hasPages, .refused .floorAboveBalance,
      .refused .suspended, .refused .barred, .refused .badText, .refused .subLimit, .refused .congested,
      .refused .storeFull, .refused .textFull, .refused .noCredit, .refused .unknownMessage, .refused .tooLate,
      .refused .delivered, .refused .airRunning, .refused .airStopped, .refused .journalFull, .refused .notRetained,
      .refused .noRoom, .refused .sweepActive, .refused .busyLine].map Result.name =
    ["OK", "OK_PENDING", "BAD_COMMAND", "BAD_FIELD", "BAD_SUBSCRIBER", "NO_SUBSCRIBER", "EXISTS", "DUPLICATE_ADDRESS",
      "HAS_PAGES", "FLOOR_ABOVE_BALANCE", "SUSPENDED", "BARRED", "BAD_TEXT", "SUB_LIMIT", "CONGESTED", "STORE_FULL",
      "TEXT_FULL", "NO_CREDIT", "UNKNOWN_MESSAGE", "TOO_LATE", "DELIVERED", "AIR_RUNNING", "AIR_STOPPED",
      "JOURNAL_FULL", "NOT_RETAINED", "NO_ROOM", "SWEEP_ACTIVE", "BUSY_LINE"].map str) ∧
  ([NoticeKind.lock, .barred, .journalHigh, .journalLost, .pageMissed, .pageExpired, .lowBalance, .congestion,
      .periodDone, .tariffActive, .pageRead, .usageHigh, .unbarred, .replyOverflow, .oversize, .pageDelivered,
      .pageSent, .pageDone].map NoticeKind.name =
    ["LOCK", "BARRED", "JOURNAL_HIGH", "JOURNAL_LOST", "PAGE_MISSED", "PAGE_EXPIRED", "LOW_BALANCE", "CONGESTION",
      "PERIOD_DONE", "TARIFF_ACTIVE", "PAGE_READ", "USAGE_HIGH", "UNBARRED", "REPLY_OVERFLOW", "OVERSIZE",
      "PAGE_DELIVERED", "PAGE_SENT", "PAGE_DONE"].map str) ∧
  (∀ (tag : Nat) (rest : Text), 1 ≤ tag → tag ≤ 65535 → (rest = [] ∨ rest.head? = some spaceChar) →
    (∀ b ∈ rest, 0x20#8 ≤ b ∧ b ≤ 0x7E#8) → (hashChar :: showNat tag ++ rest).length + 5 ≤ 480 →
    let body := hashChar :: showNat tag ++ rest
    let line := body ++ starChar :: showHex4 (crc16 body)
    judgeLine line = some { tag := tag, rest := rest } ∧
      judgeLine (line ++ [0x0D#8]) = some { tag := tag, rest := rest }) ∧
  (∀ (tag : Nat) (result : Result) (k : NoticeKind) (fs : List Field),
    (OutLine.final tag result fs).body = str "#" ++ showNat tag ++ str " " ++ result.name ++ showFields fs ∧
    (OutLine.data tag fs).body = str "#" ++ showNat tag ++ str " =" ++ showFields fs ∧
    (OutLine.notice k fs).body = str "!" ++ k.name ++ showFields fs) ∧
  showFields [] = [] ∧
  (∀ (key : Text) (v : Value) (fs : List Field),
    showFields ((key, v) :: fs) = str " " ++ key ++ str "=" ++ v.show ++ showFields fs) ∧
  (∀ l : OutLine, l.chars = l.body ++ str "*" ++ showHex4 (crc16 l.body) ++ [0x0D#8, 0x0A#8]) ∧
  (∀ v : BitVec 16, ∃ a b c d : Fin 16,
    v.toNat = 4096 * a.val + 256 * b.val + 16 * c.val + d.val ∧
      showHex4 v = [a, b, c, d].map (fun i => (str "0123456789ABCDEF").getD i.val 0)) ∧
  (∀ l : OutLine, l.body.length + 5 ≤ 480 → (∀ b ∈ l.body, 0x20#8 ≤ b ∧ b ≤ 0x7E#8) →
    l.chars.getLast? = some 0x0A#8 ∧ checkedBody (stripReturn l.chars.dropLast) = some l.body)

/-- COMMAND_LINE: a good line joins the buffer, or is answered BUSY_LINE at a full one (R169); a line that fails its
tests raises BAD_LINE, holding at 65,535, and has no reply (R168, R182). A line passes its tests just when, a 0Dh at its
end put aside, it has no more than 480 characters, all from 20h to 7Eh, its last five are an asterisk and the check of
those before it in hexadecimal digits of either case, and these begin with "#" and a tag from 1 to 65,535, with a space
or nothing behind the tag. A line longer than 480 or shorter than five characters, with a character outside 20h-7Eh,
with a wrong check, without the "#", or with a bad tag fails them; that a tag with leading zeros is a bad tag is the
model's reading (log 7). What the check computes is R182's. -/
def Obligations.CommandLineJudged : Prop :=
  Check16 ∧
  (∀ (s : State) (chars : Text),
    (∀ l, judgeLine chars = some l → s.hlc.buffer.length < 4 →
      exec (.commandLine chars) s = .next { s with hlc := { s.hlc with buffer := s.hlc.buffer ++ [l] } }.settle) ∧
    (∀ l, judgeLine chars = some l → 4 ≤ s.hlc.buffer.length →
      exec (.commandLine chars) s = .next { s with hlc := { s.hlc with busy := s.hlc.busy ++ [l.tag] } }.settle) ∧
    (judgeLine chars = none →
      exec (.commandLine chars) s =
        .next { s with hlc := { s.hlc with badLine := min (s.hlc.badLine + 1) 65535 } }.settle)) ∧
  (∀ (chars : Text) (l : CmdLine), judgeLine chars = some l ↔
    ∃ digits, readHex4 digits = some (crc16 (hashChar :: showNat l.tag ++ l.rest)) ∧
      (chars = hashChar :: showNat l.tag ++ l.rest ++ starChar :: digits ∨
        chars = hashChar :: showNat l.tag ++ l.rest ++ starChar :: digits ++ [0x0D#8]) ∧
      (hashChar :: showNat l.tag ++ l.rest ++ starChar :: digits).length ≤ 480 ∧
      (∀ b ∈ l.rest, 0x20#8 ≤ b ∧ b ≤ 0x7E#8) ∧ 1 ≤ l.tag ∧ l.tag ≤ 65535 ∧
      (l.rest = [] ∨ l.rest.head? = some spaceChar)) ∧
  (∀ line : Text, line.getLast? ≠ some 0x0D#8 →
    (480 < line.length → judgeLine line = none) ∧ (line.length < 5 → judgeLine line = none) ∧
    (∀ b ∈ line, b < 0x20#8 ∨ 0x7E#8 < b → judgeLine line = none) ∧
    (∀ body digits, line = body ++ starChar :: digits → digits.length = 4 → readHex4 digits ≠ some (crc16 body) →
      judgeLine line = none) ∧
    (∀ body digits, line = body ++ digits → digits.length = 5 → digits.head? ≠ some starChar → judgeLine line = none) ∧
    (line.head? ≠ some hashChar → judgeLine line = none)) ∧
  (∀ (tag rest digits : Text), (rest = [] ∨ rest.head? = some spaceChar) → spaceChar ∉ tag →
    (∀ n, 1 ≤ n → n ≤ 65535 → tag ≠ showNat n) →
    digits.length = 4 → judgeLine (hashChar :: tag ++ rest ++ starChar :: digits) = none) ∧
  (∀ a b c d : Byte, ∀ v, readHex4 [a, b, c, d] = some v →
    ∃ w x y z, readHex a = some w ∧ readHex b = some x ∧ readHex c = some y ∧ readHex d = some z ∧
      v.toNat = 4096 * w + 256 * x + 16 * y + z) ∧
  (∀ i : Fin 16, readHex ((str "0123456789ABCDEF").getD i.val 0) = some i.val ∧
    readHex ((str "0123456789abcdef").getD i.val 0) = some i.val)

/-- LINE_SENT: what goes next. The rest of the answer under way comes first, then a BUSY_LINE answer, then the next
answer, then the notice at the head of the queue. That of several BUSY_LINE answers the one waiting longest goes first
is the model's choice (log 34). An idle line takes by the same choice what waits at the end of a step, which `.settle`
says (log 4). -/
def Obligations.LineSentChoosesNext : Prop :=
  ∀ (s : State) (l : OutLine), s.hlc.sending = some l →
    (∀ x xs, s.hlc.underWay = x :: xs →
      exec .lineSent s = .next { s with hlc :=
        { s.hlc with sending := some x, underWay := xs, sent := s.hlc.sent ++ [x] } }) ∧
    (∀ tag tags, s.hlc.underWay = [] → s.hlc.busy = tag :: tags →
      exec .lineSent s = .next { s with hlc :=
        { s.hlc with
          sending := some (.final tag (.refused .busyLine) []), busy := tags
          sent := s.hlc.sent ++ [.final tag (.refused .busyLine) []] } }) ∧
    (∀ x xs more, s.hlc.underWay = [] → s.hlc.busy = [] → s.hlc.answers = (x :: xs) :: more →
      exec .lineSent s = .next { s with hlc :=
        { s.hlc with sending := some x, underWay := xs, answers := more, sent := s.hlc.sent ++ [x] } }) ∧
    (∀ n ns, s.hlc.underWay = [] → s.hlc.busy = [] → s.hlc.answers = [] → s.hlc.notices = n :: ns →
      exec .lineSent s = .next { s with hlc :=
        { s.hlc with
          sending := some (.notice n.kind n.fields), notices := ns
          sent := s.hlc.sent ++ [.notice n.kind n.fields] } }) ∧
    (s.hlc.underWay = [] → s.hlc.busy = [] → s.hlc.answers = [] → s.hlc.notices = [] →
      exec .lineSent s = .next { s with hlc := { s.hlc with sending := none } }) ∧
    s.settle = s ∧ (∀ t : State, t.hlc.sending = none →
      exec .lineSent { t with hlc := { t.hlc with sending := some l } } = .next t.settle)

/-- BAD_COMMAND: words that name no command are answered BAD_COMMAND, with no other effect. A host command whose checks
come to a refusal is taken off the buffer and answered with that refusal alone under its tag, with no other effect
(R170): BAD_FIELD with the key at fault, or with a missing key, or another code with the fields its rule gives it. Where
two or more keys are missing, which of them FIELD names is a free value, drawn at the model's own counter (log 8). The
key at fault is that of the first field on the line that has no value, no known key, not its form, or a key already
given, as the check of a command's fields finds it; a missing key is named only on a line without such a field (log 8).
SUB ADD and SUB SET judge SUB before the other fields (log 9, SubAddProvisions, SubSetChanges). That FIELD carries the
key whole, also one that takes the line past 480 characters, is the model's choice (log 33). An answer joins those
waiting (R170), and a key's value is that of the first field of that key. -/
def Obligations.RefusalsOnlyAnswer : Prop :=
  (∀ (s : State) (l : CmdLine) (rest : List CmdLine), s.hlc.buffer = l :: rest → l.command = none →
    exec .badCommand s = .next ((s.lineOff rest).answer [.final l.tag (.refused .badCommand) []]).settle) ∧
  (∀ (s : State) (c : HostCommand) (l : CmdLine) (rest : List CmdLine) (d : Denial), s.Heads c l rest →
    c.refusal (s.lineOff rest) l.fields = some d →
    exec c.row s = .next ((s.lineOff rest).deny l.tag d).settle) ∧
  (∀ (s : State) (tag : Nat),
    (∀ key, s.deny tag (.badField key) =
      s.answer [.final tag (.refused .badField) [(str "FIELD", .word key)]]) ∧
    (∀ key, s.deny tag (.missing key []) =
      s.answer [.final tag (.refused .badField) [(str "FIELD", .word key)]]) ∧
    (∀ key k more, ∃ named ∈ key :: k :: more, s.deny tag (.missing key (k :: more)) =
      { s with fresh := s.fresh + 1 }.answer [.final tag (.refused .badField) [(str "FIELD", .word named)]]) ∧
    (∀ code fs, s.deny tag (.refusal code fs) = s.answer [.final tag (.refused code) fs]) ∧
    (∀ lines, s.answer lines = { s with hlc := { s.hlc with answers := s.hlc.answers ++ [lines] } })) ∧
  (∀ (key : String) (α : Type) (read : Text → Option α),
    (∀ fs : List RawField, hasKey fs key = true ↔ ∃ f ∈ fs, f.key = str key) ∧
    (∀ fs : List RawField, hasKey fs key = false → fieldOf fs key read = none) ∧
    (∀ (before after : List RawField) (f : RawField), (∀ x ∈ before, x.key ≠ str key) → f.key = str key →
      fieldOf (before ++ f :: after) key read = f.value.bind read)) ∧
  (∀ (forms : List KeyForm) (required : List String) (fs : List RawField),
    let absent := (required.map str).filter (fun k => fs.all (fun f => f.key != k))
    (∀ f, FirstFaulty forms fs f → checkForm forms required fs = .error (.badField f.key)) ∧
    ((∀ f, ¬ FirstFaulty forms fs f) →
      (absent = [] → checkForm forms required fs = .ok ()) ∧
      (∀ key more, absent = key :: more → checkForm forms required fs = .error (.missing key more))))

/-- Raising a condition sets its flag whatever the level; a notice is placed only above level 0, and for a LOCK edge
only as LOCK EDGE asks (R67, R173), in a queue of 32: at a full one the tail is displaced by a kind of higher level and
otherwise the new notice is dropped, and either counts (R175). A notice stands behind those of its own and of higher
levels and ahead of those of lower ones, and the queue stays in that order. Congestion goes on at a free record count at
or below the setting and off more than 16 above it; each change of state raises CONGESTION, and no other judgement
changes anything (R26). -/
def Obligations.ConditionRaised : Prop :=
  (∀ (h : Hlc) (k : NoticeKind) (fs : List Field),
    (h.raise k fs true).flags = h.flags.set k.index true ∧ h.level k = h.levels[k.index].val ∧
    h.raise k fs false = { h with flags := h.flags.set k.index true } ∧
    (0 < h.level k → h.raise k fs true = ({ h with flags := h.flags.set k.index true } : Hlc).place k fs) ∧
    (h.level k = 0 → (h.raise k fs true).notices = h.notices ∧ (h.raise k fs true).dropped = h.dropped) ∧
    (0 < h.level k → h.notices.length < 32 →
      (h.raise k fs true).notices.Perm ({ kind := k, fields := fs, stamp := h.nextStamp } :: h.notices) ∧
      (h.raise k fs true).dropped = h.dropped ∧
      ∀ higher lower, h.notices = higher ++ lower → (∀ n ∈ higher, h.level k ≤ h.level n.kind) →
        (∀ n ∈ lower, h.level n.kind < h.level k) → (∀ n ∈ h.notices, n.stamp < h.nextStamp) →
        (h.raise k fs true).notices = higher ++ { kind := k, fields := fs, stamp := h.nextStamp } :: lower) ∧
    (∀ q tail, 0 < h.level k → h.notices = q ++ [tail] → 32 ≤ h.notices.length →
      (h.raise k fs true).dropped = min (h.dropped + 1) 65535 ∧
      (h.level tail.kind < h.level k →
        (h.raise k fs true).notices.Perm ({ kind := k, fields := fs, stamp := h.nextStamp } :: q)) ∧
      (h.level k ≤ h.level tail.kind → (h.raise k fs true).notices = h.notices)) ∧
    (h.InOrder → (h.raise k fs true).InOrder)) ∧
  (∀ s : State,
    (∀ k fs, s.raise k fs = { s with hlc := s.hlc.raise k fs true }) ∧
    s.freeRecords = 2048 - s.store.records.cells.length ∧
    (s.store.congested = false → s.freeRecords ≤ s.office.congestion →
      s.judgeCongestion = { s with store := { s.store with congested := true } }.raise .congestion
        [(str "STATE", .word (str "ON")), (str "FREE", .num s.freeRecords)]) ∧
    (s.store.congested = false → s.office.congestion < s.freeRecords → s.judgeCongestion = s) ∧
    (s.store.congested = true → s.office.congestion + 16 < s.freeRecords →
      s.judgeCongestion = { s with store := { s.store with congested := false } }.raise .congestion
        [(str "STATE", .word (str "OFF")), (str "FREE", .num s.freeRecords)]) ∧
    (s.store.congested = true → s.freeRecords ≤ s.office.congestion + 16 → s.judgeCongestion = s))

/-- NOTICE LEVELS without a field reports the levels; with fields it changes them in the order of the line, one change
for each field, of the kind its key names to the level its value gives. What a change of one level does: the same level
again does nothing; to 0 the kind's notices leave the queue uncounted; from 0 a set flag places a notice with SUMMARY;
otherwise the notices stay, in the order the new levels give (R174, R175). -/
def Obligations.NoticeLevelsTaken : Prop :=
  (∀ (s : State) (l : CmdLine) (rest : List CmdLine), s.Heads .noticeLevels l rest →
      (l.fields = [] →
        exec .noticeLevels s = .next ((s.lineOff rest).answer
          [.data l.tag (NoticeKind.all.map (fun k => (k.name, .num (s.hlc.level k)))), .final l.tag .ok []]).settle) ∧
      (l.fields ≠ [] → checkForm levelForms [] l.fields = .ok () →
        ∃ changes : List (NoticeKind × Fin 4),
          List.Forall₂ (fun (f : RawField) (c : NoticeKind × Fin 4) =>
            f.key = c.1.name ∧ ∃ v, f.value = some v ∧ readNat v = some c.2.val) l.fields changes ∧
          exec .noticeLevels s = .next ({ s.lineOff rest with
            hlc := changes.foldl (fun (h : Hlc) (c : NoticeKind × Fin 4) => h.setLevel c.1 c.2)
              (s.lineOff rest).hlc }.answer
              [.final l.tag .ok []]).settle)) ∧
  (∀ (h : Hlc) (k : NoticeKind) (v : Fin 4),
      (h.setLevel k v).flags = h.flags ∧
      (h.levels[k.index] = v → h.setLevel k v = h) ∧
      (h.levels[k.index] ≠ v → (h.setLevel k v).levels = h.levels.set k.index v) ∧
      (h.levels[k.index] ≠ v → v = 0 → (h.setLevel k v).notices = h.notices.filter (fun n => n.kind != k)) ∧
      (h.levels[k.index] ≠ 0 ∨ v = 0 ∨ h.flags[k.index] = false → (h.setLevel k v).dropped = h.dropped) ∧
      (h.levels[k.index] = 0 → v ≠ 0 → h.flags[k.index] = false → (h.setLevel k v).notices = h.notices) ∧
      (h.levels[k.index] = 0 → v ≠ 0 → h.flags[k.index] = true →
        h.setLevel k v =
          ({ h with levels := h.levels.set k.index v } : Hlc).place k [(str "SUMMARY", .yesNo true)]) ∧
      (h.levels[k.index] ≠ 0 → v ≠ 0 → (h.setLevel k v).notices.Perm h.notices) ∧
      (h.InOrder → (h.setLevel k v).InOrder))

/-- STATUS answers its four lines; with CLEAR=YES it then clears the condition set and zeroes the ten counters of its
fourth line, and nothing else (R176, R177). CONDITIONS lists the kinds whose flags are set in the order of the kinds
table. -/
def Obligations.StatusReportsAndClears : Prop :=
  (∀ (s : State) (l : CmdLine) (rest : List CmdLine), s.Heads .status l rest →
    (l.fields = [] →
      exec .status s = .next ((s.lineOff rest).report l.tag (statusLines (s.lineOff rest)) []).settle) ∧
    (l.fields = [{ key := str "CLEAR", value := some (str "YES") }] →
      let t := (s.lineOff rest).report l.tag (statusLines (s.lineOff rest)) []
      exec .status s = .next { t with
        hlc := { t.hlc with flags := Vector.replicate 18 false, badLine := 0, dropped := 0 }
        rxi := { t.rxi with noise := 0, overflow := 0 }
        rmat := { t.rmat with unknown := 0, unexpected := 0, stale := 0, duplicate := 0 }
        wsch := { t.wsch with deferrals := 0 }
        acct := { t.acct with lost := 0 } }.settle)) ∧
  (∀ (s : State) (tag : Nat) (lines : List (List Field)) (fs : List Field),
    s.report tag lines fs = s.answer (lines.map (fun l => .data tag l) ++ [.final tag .ok fs])) ∧
  (∀ s : State,
    let unread := (s.acct.nextSeq - s.acct.cursor).toNat
    statusLines s =
      [ [(str "START", .word (match s.hlc.start with | .cold => str "COLD" | .warm => str "WARM")),
         (str "AIR", .word (match s.aclk.air with
           | .stopped => str "STOPPED" | .starting => str "STARTING" | .running => str "RUNNING"
           | .stopping => str "STOPPING")),
         (str "LOCK", match s.aclk.detector with
           | .unlocked => .word (str "UNLOCKED") | .acquiring k => .acquiring k | .locked => .word (str "LOCKED")),
         (str "ROUND", .num s.aclk.round), (str "WINDOW", .num s.aclk.window),
         (str "CONGEST", .word (if s.store.congested then str "ON" else str "OFF")),
         (str "SWEEP", match s.acct.sweep with | some w => .num w.cursor | none => .none_)],
        [(str "FREEREC", .num (2048 - s.store.records.cells.length)),
         (str "FREECHUNK", .num (12288 - (s.store.records.cells.flatMap (fun c => c.2.chunks.getD [])).length)),
         (str "MODE", .word (match s.office.journalMode with | .hold => str "HOLD" | .overwrite => str "OVERWRITE")),
         (str "UNREAD", .num unread), (str "FREE", .num (1024 - unread)), (str "RESERVED", .num s.acct.airReserved),
         (str "OPEN", .num (1024 - unread - s.acct.airReserved))],
        [(str "CONDITIONS", .words ((
            [NoticeKind.lock, .barred, .journalHigh, .journalLost, .pageMissed, .pageExpired, .lowBalance, .congestion,
             .periodDone, .tariffActive, .pageRead, .usageHigh, .unbarred, .replyOverflow, .oversize, .pageDelivered,
             .pageSent, .pageDone].filter (fun k => s.hlc.flags[k.index])).map NoticeKind.name)),
         (str "NOTICES", .num s.hlc.notices.length), (str "REPLIES", .num s.rxi.replies.length),
         (str "BUFFER", .num s.hlc.buffer.length)],
        [(str "BADLINE", .num s.hlc.badLine), (str "NOISE", .num s.rxi.noise), (str "UNKNOWN", .num s.rmat.unknown),
         (str "UNEXPECTED", .num s.rmat.unexpected), (str "STALE", .num s.rmat.stale),
         (str "DUPLICATE", .num s.rmat.duplicate), (str "OVERFLOW", .num s.rxi.overflow),
         (str "DEFERRALS", .num s.wsch.deferrals), (str "DROPPED", .num s.hlc.dropped),
         (str "LOST", .num s.acct.lost)] ])

/-- OFFICE SET (R178): every setting given takes its value and the others stand; a change of AIR RATE restarts the lock
detector (R65), with the LOCK condition of its exit and an empty oversize set if it was LOCKED (R67, R81); a change of
CONGESTION judges congestion (R26); the answer is OK. That the settings come first, then the detector, then congestion
is the model's choice (log 24). With AIRRATE or JOURNALMODE it is refused AIR_RUNNING outside STOPPED. -/
def Obligations.OfficeSetTaken : Prop :=
  ∀ (s : State) (l : CmdLine) (rest : List CmdLine), s.Heads .officeSet l rest →
    (checkOfficeSet (s.lineOff rest) l.fields = .ok () →
      let old := s.office
      let new : Office :=
        { airRate := (fieldOf l.fields "AIRRATE" (readFin 4)).getD old.airRate
          replyWait := (fieldOf l.fields "REPLYWAIT" (readIn 1 15)).getD old.replyWait
          minBurst := (fieldOf l.fields "MINBURST" (readIn 0 255)).getD old.minBurst
          minQuality := (fieldOf l.fields "MINQUALITY" (readIn 0 15)).getD old.minQuality
          zoneMemory := (fieldOf l.fields "ZONEMEMORY" (readIn 1 255)).getD old.zoneMemory
          unbarMargin := (fieldOf l.fields "UNBARMARGIN" (readIn 0 65535)).getD old.unbarMargin
          congestion := (fieldOf l.fields "CONGESTION" (readIn 0 2047)).getD old.congestion
          journalMode := (fieldOf l.fields "JOURNALMODE"
            (wordValue [(str "HOLD", JournalMode.hold), (str "OVERWRITE", .overwrite)])).getD old.journalMode
          journalHigh := (fieldOf l.fields "JOURNALHIGH" (readIn 1 1024)).getD old.journalHigh
          highType := (fieldOf l.fields "HIGHTYPE"
            (wordValue [(str "ONCE", HighType.once), (str "EACH", .each)])).getD old.highType
          clearOnRead := (fieldOf l.fields "CLEARONREAD"
            (wordValue [(str "YES", true), (str "NO", false)])).getD old.clearOnRead
          replyPolicy := (fieldOf l.fields "REPLYPOLICY"
            (wordValue [(str "DISCARD_NEW", ReplyPolicy.discardNew), (str "OVERWRITE_OLDEST", .overwriteOldest)])).getD
              old.replyPolicy
          lockEdge := (fieldOf l.fields "LOCKEDGE"
            (wordValue [(str "NONE", LockEdge.none_), (str "GAINED", .gained), (str "LOST", .lost),
              (str "BOTH", .both)])).getD old.lockEdge }
      let set : State := { s.lineOff rest with office := new }
      let fresh : Aclk := { s.aclk with detector := .unlocked, strobes := 0, badMark := false }
      let detected : State :=
        if new.airRate = old.airRate then set
        else if s.aclk.detector = .locked then
          { set with
            aclk := fresh, wsch := { s.wsch with oversize := [] }
            hlc := set.hlc.raise .lock
              [(str "STATE", .word (str "UNLOCKED")), (str "ROUND", .num s.aclk.round),
               (str "WINDOW", .num s.aclk.window)]
              (new.lockEdge = .lost ∨ new.lockEdge = .both) }
        else { set with aclk := fresh }
      let judged : State := if new.congestion = old.congestion then detected else detected.judgeCongestion
      exec .officeSet s = .next (judged.answer [.final l.tag .ok []]).settle) ∧
    (checkForm officeForms [] l.fields = .ok () →
      hasKey l.fields "AIRRATE" = true ∨ hasKey l.fields "JOURNALMODE" = true → s.aclk.air ≠ .stopped →
      exec .officeSet s = .next ((s.lineOff rest).answer [.final l.tag (.refused .airRunning) []]).settle)

/-- OFFICE GET takes no field and answers every setting by its key in the order of the table (R179). -/
def Obligations.OfficeGetAnswers : Prop :=
  ∀ (s : State) (l : CmdLine) (rest : List CmdLine), s.Heads .officeGet l rest →
    (l.fields = [] → exec .officeGet s = .next ((s.lineOff rest).answer
      [.data l.tag
        [(str "AIRRATE", .num s.office.airRate), (str "REPLYWAIT", .num s.office.replyWait),
         (str "MINBURST", .num s.office.minBurst), (str "MINQUALITY", .num s.office.minQuality),
         (str "ZONEMEMORY", .num s.office.zoneMemory), (str "UNBARMARGIN", .num s.office.unbarMargin),
         (str "CONGESTION", .num s.office.congestion), (str "JOURNALMODE", .word s.office.journalMode.name),
         (str "JOURNALHIGH", .num s.office.journalHigh), (str "HIGHTYPE", .word s.office.highType.name),
         (str "CLEARONREAD", .yesNo s.office.clearOnRead), (str "REPLYPOLICY", .word s.office.replyPolicy.name),
         (str "LOCKEDGE", .word s.office.lockEdge.name)],
       .final l.tag .ok []]).settle) ∧
    (∀ f fs, l.fields = f :: fs → exec .officeGet s =
      .next ((s.lineOff rest).answer [.final l.tag (.refused .badField) [(str "FIELD", .word f.key)]]).settle)

/-- RESTART (R180): its checks in order, what is cleared, what is kept, and the answer: OK with DISCARDED, the number of
records discarded, and, when FORCE has abandoned a sweep, with CURSOR. The answers, the BUSY_LINE answers and the line
being sent stand as they were, with the answer behind the answers already waiting; that answers waiting stand is the
model's reading (log 25). -/
def Obligations.RestartClearsTraffic : Prop :=
  (∀ (s : State) (fs : List RawField),
    checkRestart s fs =
      match checkForm [(str "FORCE", fun v => v == str "YES")] [] fs with
      | .error d => .error d
      | .ok _ =>
        if s.aclk.air ≠ .stopped then .error (.refusal .airRunning [])
        else if s.acct.sweep.isSome = true ∧ hasKey fs "FORCE" = false then .error (.refusal .sweepActive [])
        else .ok ()) ∧
  (∀ (s : State) (l : CmdLine) (rest : List CmdLine), s.Heads .restart l rest →
    checkRestart (s.lineOff rest) l.fields = .ok () →
    let discarded : Field := (str "DISCARDED", .num s.store.records.cells.length)
    let cursor : List Field := match s.acct.sweep with | some w => [(str "CURSOR", .num w.cursor)] | none => []
    let t : State := { s with
      hlc := { s.hlc with
        start := .warm, buffer := rest, flags := Vector.replicate 18 false, notices := [], badLine := 0, dropped := 0
        answers := s.hlc.answers ++ [[.final l.tag .ok (discarded :: cursor)]] }
      subs := ⟨s.subs.cells.map (fun c => (c.1,
        { c.2 with heard := none, tags := [], live := 0, held := [], money := { c.2.money with reserved := 0 } }))⟩
      store := { records := ⟨[]⟩, gens := s.store.gens, nextSeq := 0, congested := false }
      aclk := { s.aclk with detector := .unlocked, strobes := 0, badMark := false, holding := .none_ }
      wsch := { queues := Vector.replicate 32 [], build := none, onAir := none, oversize := [], deferrals := 0 }
      txi := s.txi.map (fun z =>
        { z with next := none, current := none, orders := 0, tests := 0, bridges := 0, withdraws := 0 })
      rxi := { links := Vector.replicate 6 .hunting, replies := [], noise := 0, overflow := 0 }
      rmat := { awaiting := [], unknown := 0, unexpected := 0, stale := 0, duplicate := 0 }
      acct := { s.acct with airReserved := 0, lost := 0, sweep := none } }
    exec .restart s = .next t.settle ∧
    (s.hlc.sending.isSome = true → t.settle = t) ∧
    (s.hlc.sending = none → s.hlc.underWay = [] → s.hlc.busy = [] → s.hlc.answers = [] →
      t.settle.hlc.sending = some (.final l.tag .ok (discarded :: cursor)) ∧ t.settle.hlc.answers = []))

/-! ### Subscribers and plans (chapter 1) -/

namespace Sys2Proof.Machine

/-- How a command finds the record its MSG names (R27): a number outside its range is BAD_FIELD, a free slot or one that
holds a record of another generation UNKNOWN_MESSAGE. The range of the generation is log 9. -/
def State.NamesRecord (s : State) : Prop :=
  (∀ slot gen : Nat, slot < 100000000000000000000 → gen < 100000000000000000000 →
    namedRecord s [{ key := str "MSG", value := some (showNat slot ++ str "." ++ showNat gen) }] =
      if 2048 ≤ slot ∨ 65536 ≤ gen then .error (.badField (str "MSG"))
      else match s.store.records.get? slot with
        | none => .error (.refusal .unknownMessage [])
        | some r =>
          if r.id = { slot := slot, gen := BitVec.ofNat 16 gen } then .ok r
          else .error (.refusal .unknownMessage [])) ∧
  ∀ (fs : List RawField) (r : PageRec), namedRecord s fs = .ok r →
    fieldOf fs "MSG" readMsg = some r.id ∧ s.store.records.get? r.id.slot = some r

end Sys2Proof.Machine

/-- SUB ADD provisions the entry with the state, flags and counters a new entry starts with. The checks of R13 in their
order, and what a SUB ADD that passes them gives: a vacant number, an address no entry holds, the values of its fields
and the defaults, each in its range, and a balance between the floor and the top. That SUB is judged before the form of
the other fields is the model's reading (log 9). -/
def Obligations.SubAddProvisions : Prop :=
  (∀ (s : State) (l : CmdLine) (rest : List CmdLine) (a : SubAddArgs), s.Heads .subAdd l rest →
      checkSubAdd (s.lineOff rest) l.fields = .ok a →
      exec .subAdd s = .next ({ s.lineOff rest with
        subs := s.subs.set a.sub
          { state := .active, addr := a.addr, kind := a.kind, home := a.home, zones := a.zones, plan := a.plan
            heard := none, tags := [], live := 0, held := []
            money :=
              { balance := a.balance, floor := a.floor, reserved := 0, credit := .clear, low := a.low
                lowArmed := decide (a.low ≤ a.balance), usage := a.usage, usageArmed := true, periodPages := 0
                periodCharges := 0 } } }.answer [.final l.tag .ok [(str "SUB", .num a.sub)]]).settle) ∧
  (∀ (s : State) (fs : List RawField) (a : SubAddArgs), checkSubAdd s fs = .ok a →
      a.sub < 4096 ∧ s.sub? a.sub = none ∧ (∀ c ∈ s.subs.cells, c.2.addr ≠ a.addr) ∧
      fieldOf fs "SUB" readNat = some a.sub ∧ fieldOf fs "ADDR" readAddr = some a.addr ∧
      fieldOf fs "KIND" (wordValue pagerKindWords) = some a.kind ∧ fieldOf fs "HOME" (readFin 32) = some a.home ∧
      fieldOf fs "ZONES" readZones = some a.zones ∧ fieldOf fs "PLAN" (readFin 8) = some a.plan ∧
      (hasKey fs "FLOOR" = true → fieldOf fs "FLOOR" readInt = some a.floor) ∧
      (hasKey fs "BALANCE" = true → fieldOf fs "BALANCE" readInt = some a.balance) ∧
      (hasKey fs "LOW" = true → fieldOf fs "LOW" readInt = some a.low) ∧
      (hasKey fs "USAGE" = true → fieldOf fs "USAGE" readNat = some a.usage) ∧
      (hasKey fs "FLOOR" = false → a.floor = 0) ∧ (hasKey fs "BALANCE" = false → a.balance = 0) ∧
      (hasKey fs "LOW" = false → a.low = -16777215) ∧ (hasKey fs "USAGE" = false → a.usage = 2147483647) ∧
      -16777215 ≤ a.floor ∧ a.floor ≤ 0 ∧ a.floor ≤ a.balance ∧ a.balance ≤ 16777215 ∧
      -16777215 ≤ a.low ∧ a.low ≤ 16777215 ∧ a.usage ≤ 2147483647) ∧
  (∀ (s : State) (fs : List RawField),
      (hasKey fs "SUB" = false → checkSubAdd s fs = .error (.missing (str "SUB") [])) ∧
      (hasKey fs "SUB" = true → fieldOf fs "SUB" readNat = none →
        checkSubAdd s fs = .error (.badField (str "SUB"))) ∧
      (∀ n, fieldOf fs "SUB" readNat = some n → 4096 ≤ n →
        checkSubAdd s fs = .error (.refusal .badSubscriber [])) ∧
      (∀ n, fieldOf fs "SUB" readNat = some n → n < 4096 →
        let fields := checkForm (subAddForms fs) ["SUB", "ADDR", "KIND", "HOME", "ZONES", "PLAN"] fs
        (∀ d, fields = .error d → checkSubAdd s fs = .error d) ∧
        (fields = .ok () → s.sub? n ≠ none → checkSubAdd s fs = .error (.refusal .exists_ [])) ∧
        (fields = .ok () → s.sub? n = none → ∃ addr, fieldOf fs "ADDR" readAddr = some addr ∧
          ((∃ c ∈ s.subs.cells, c.2.addr = addr) → checkSubAdd s fs = .error (.refusal .duplicateAddress [])) ∧
          ((∀ c ∈ s.subs.cells, c.2.addr ≠ addr) → ∃ a, checkSubAdd s fs = .ok a))))

/-- SUB SET: every field given takes its value; a change of address or kind takes the last-heard zone away; a LOW given
re-arms its alarm by the balance and a USAGE given arms its own; a raised floor makes the bar test and a lowered one the
unbar test (R15, R149), each with its condition and the fields it carries. The checks of R14 in their order, and that
those passed give the values of the line's fields. That SUB is judged before the form of the other fields is the model's
reading (log 9). -/
def Obligations.SubSetChanges : Prop :=
  (∀ (s : State) (l : CmdLine) (rest : List CmdLine) (a : SubSetArgs) (e : Entry), s.Heads .subSet l rest →
    checkSubSet (s.lineOff rest) l.fields = .ok (a, e) →
    let e' : Entry :=
      { e with
        addr := a.addr.getD e.addr, kind := a.kind.getD e.kind, home := a.home.getD e.home
        zones := a.zones.getD e.zones, plan := a.plan.getD e.plan
        heard := if a.addr.getD e.addr ≠ e.addr ∨ a.kind.getD e.kind ≠ e.kind then none else e.heard
        money := { e.money with
          floor := a.floor.getD e.money.floor, low := a.low.getD e.money.low
          lowArmed := if a.low.isSome then decide (a.low.getD 0 ≤ e.money.balance) else e.money.lowArmed
          usage := a.usage.getD e.money.usage, usageArmed := a.usage.isSome || e.money.usageArmed } }
    let set := (s.lineOff rest).setSub a.sub e'
    let tested :=
      if e.money.floor < e'.money.floor then set.barTest a.sub
      else if e'.money.floor < e.money.floor then set.unbarTest a.sub else set
    s.sub? a.sub = some e ∧
      exec .subSet s = .next (tested.answer [.final l.tag .ok [(str "SUB", .num a.sub)]]).settle) ∧
  (∀ (s : State) (fs : List RawField),
      (hasKey fs "SUB" = false → checkSubSet s fs = .error (.missing (str "SUB") [])) ∧
      (hasKey fs "SUB" = true → fieldOf fs "SUB" readNat = none →
        checkSubSet s fs = .error (.badField (str "SUB"))) ∧
      (∀ n, fieldOf fs "SUB" readNat = some n → 4096 ≤ n →
        checkSubSet s fs = .error (.refusal .badSubscriber [])) ∧
      (∀ n, fieldOf fs "SUB" readNat = some n → n < 4096 →
        let fields := checkForm (keyForm "SUB" readNat :: subSetForms) [] fs
        let some_ : Prop := ∃ f ∈ fs, f.key ∈ [str "ADDR", str "KIND", str "HOME", str "ZONES", str "PLAN", str "FLOOR",
          str "LOW", str "USAGE"]
        (∀ d, fields = .error d → checkSubSet s fs = .error d) ∧
        (fields = .ok () → ¬ some_ → ∃ key more, checkSubSet s fs = .error (.missing key more)) ∧
        (fields = .ok () → some_ → s.sub? n = none → checkSubSet s fs = .error (.refusal .noSubscriber [])) ∧
        (∀ e, fields = .ok () → some_ → s.sub? n = some e →
          let a : SubSetArgs :=
            { sub := n, addr := fieldOf fs "ADDR" readAddr, kind := fieldOf fs "KIND" (wordValue pagerKindWords)
              home := fieldOf fs "HOME" (readFin 32), zones := fieldOf fs "ZONES" readZones
              plan := fieldOf fs "PLAN" (readFin 8), floor := fieldOf fs "FLOOR" (readIntIn (-16777215) 0)
              low := fieldOf fs "LOW" (readIntIn (-16777215) 16777215)
              usage := fieldOf fs "USAGE" (readIn 0 2147483647) }
          let pages : Prop := 0 < e.live ∧
            (a.addr.getD e.addr ≠ e.addr ∨ a.kind.getD e.kind ≠ e.kind ∨ a.home.getD e.home ≠ e.home)
          let taken : Prop := ∃ x m, a.addr = some x ∧ s.holderOf x = some m ∧ m ≠ n
          (pages → checkSubSet s fs = .error (.refusal .hasPages [])) ∧
          (¬ pages → taken → checkSubSet s fs = .error (.refusal .duplicateAddress [])) ∧
          (¬ pages → ¬ taken → e.money.balance < a.floor.getD e.money.balance →
            checkSubSet s fs = .error (.refusal .floorAboveBalance [])) ∧
          (¬ pages → ¬ taken → a.floor.getD e.money.balance ≤ e.money.balance →
            checkSubSet s fs = .ok (a, e))))) ∧
  (∀ (s : State) (n : Nat) (e : Entry), s.sub? n = some e →
      s.barTest n =
        (if e.money.credit = .clear ∧ e.money.balance = e.money.floor then
          { s with
            subs := s.subs.set n { e with money := { e.money with credit := .barred } }
            hlc := s.hlc.raise .barred
              [(str "SUB", .num n), (str "BALANCE", .int e.money.balance), (str "FLOOR", .int e.money.floor)] true }
        else s) ∧
      s.unbarTest n =
        (if e.money.credit = .barred ∧ (s.office.unbarMargin : Int) < e.money.balance - e.money.floor then
          { s with
            subs := s.subs.set n { e with money := { e.money with credit := .clear } }
            hlc := s.hlc.raise .unbarred [(str "SUB", .num n), (str "BALANCE", .int e.money.balance)] true }
        else s))

/-- SUB GET, PLAN GET, PAGE GET, HELD LIST and TARIFF GET answer with their data lines and change nothing else, and what
each line carries (R12, R16, R36, R37, R133). That the line of a PLAN GET with PLAN does not carry the key PLAN is the
model's reading (log 9). MSG finds its record as R27 gives. -/
def Obligations.ReadingCommandsOnlyAnswer : Prop :=
  (∀ s : State, s.NamesRecord) ∧
  (∀ (s : State) (l : CmdLine) (rest : List CmdLine),
    (∀ n e, s.Heads .subGet l rest → namedEntry (s.lineOff rest) l.fields = .ok (n, e) →
      exec .subGet s = .next ((s.lineOff rest).report l.tag (subLines n e) []).settle) ∧
    (s.Heads .planGet l rest → checkForm [keyForm "PLAN" (readFin 8)] [] l.fields = .ok () →
      exec .planGet s = .next ((s.lineOff rest).report l.tag (planLines s l.fields) []).settle) ∧
    (∀ r, s.Heads .pageGet l rest → namedRecord (s.lineOff rest) l.fields = .ok r →
      exec .pageGet s = .next ((s.lineOff rest).report l.tag (pageLines r) []).settle) ∧
    (∀ n e, s.Heads .heldList l rest → namedEntry (s.lineOff rest) l.fields = .ok (n, e) →
      let lines := (e.held.filterMap s.rec?).map heldFields
      exec .heldList s = .next ((s.lineOff rest).report l.tag lines [(str "COUNT", .num lines.length)]).settle) ∧
    (s.Heads .tariffGet l rest → l.fields = [] →
      exec .tariffGet s = .next ((s.lineOff rest).report l.tag (tariffLines s.rate) []).settle)) ∧
  (∀ (n : Nat) (e : Entry), subLines n e =
    [ [(str "SUB", .num n), (str "STATE", .word (if e.state = .active then str "ACTIVE" else str "SUSPENDED")),
       (str "ADDR", .num e.addr.toNat),
       (str "KIND", .word (if e.kind = .oneWay then str "ONE_WAY" else str "TWO_WAY")), (str "HOME", .num e.home),
       (str "ZONES", .nums (e.zones.map Fin.val)), (str "PLAN", .num e.plan)],
      (match e.heard with
        | some h => [(str "HEARD", .num h.zone), (str "AGE", .num h.age)]
        | none => [(str "HEARD", .none_)]) ++
        [(str "TAGS", .nums (e.tags.map Fin.val)), (str "LIVE", .num e.live), (str "HELD", .num e.held.length)],
      [(str "BALANCE", .int e.money.balance), (str "FLOOR", .int e.money.floor),
       (str "RESERVED", .num e.money.reserved),
       (str "HEADROOM", .int (e.money.balance - e.money.floor - e.money.reserved)),
       (str "CREDIT", .word (if e.money.credit = .clear then str "CLEAR" else str "BARRED")),
       (str "LOW", .int e.money.low), (str "USAGE", .num e.money.usage), (str "LOWARMED", .yesNo e.money.lowArmed),
       (str "USAGEARMED", .yesNo e.money.usageArmed), (str "PPAGES", .num e.money.periodPages),
       (str "PCHARGES", .num e.money.periodCharges)] ]) ∧
  (∀ (s : State) (fs : List RawField),
    let terms (p : PlanNo) : List Field :=
      let plan := s.plans[p]
      [(str "MAXCHARS", .num plan.maxChars), (str "MAXPRI", .num plan.maxPri), (str "MAXPAGES", .num plan.maxPages),
       (str "ATTEMPTS", .num plan.attempts), (str "REPEATS", .num plan.repeats),
       (str "BACKOFF", .nums plan.backoff.toList), (str "RETRYPCT", .num plan.retryPct),
       (str "REFUNDPCT", .num plan.refundPct), (str "READWAIT", .num plan.readWait), (str "HOLD", .num plan.hold),
       (str "AUTORECOVER", .yesNo plan.autoRecover), (str "INCLUDED", .num plan.included),
       (str "RECEIPTFEE", .num plan.receiptFee)]
    (∀ p, fieldOf fs "PLAN" (readFin 8) = some p → planLines s fs = [terms p]) ∧
    (fieldOf fs "PLAN" (readFin 8) = none →
      planLines s fs = [(0 : PlanNo), 1, 2, 3, 4, 5, 6, 7].map (fun p => (str "PLAN", .num p) :: terms p))) ∧
  (∀ r : PageRec,
    let num (v : Option Nat) : Value := match v with | some n => .num n | none => .none_
    let state : Text := match r.state with
      | .queued => str "QUEUED" | .retryWait => str "RETRY_WAIT" | .placed => str "PLACED" | .awaiting => str "AWAITING"
      | .delivered => str "DELIVERED" | .held => str "HELD"
    let enc : Text := match r.enc with | .tone => str "TONE" | .numeric => str "NUMERIC" | .alpha => str "ALPHA"
    pageLines r =
      [ [(str "MSG", .msg r.id), (str "SUB", .num r.sub), (str "STATE", .word state),
         (str "SERIES", .word (if r.series = .first then str "FIRST" else str "RECOVERY")), (str "ENC", .word enc),
         (str "PRI", .num r.pri), (str "LEN", .num r.len), (str "TRUNC", .yesNo r.truncated), (str "N", .num r.blocks),
         (str "CHUNKS", .num (r.chunks.getD []).length), (str "ORIGIN", .num r.origin),
         (str "SEQ", .num r.seq.toNat)],
        [(str "COUNT", .num r.count), (str "LIMIT", .num r.limit), (str "TAG", num (r.tag.map Fin.val)),
         (str "SKIP", .num r.skip), (str "DEFER", .num r.deferral), (str "RESERVE", num r.reservation),
         (str "FIRST", num r.firstCharge), (str "POSTED", .num r.posted), (str "REFUNDED", .yesNo r.refunded),
         (str "CANCELLED", .yesNo r.cancelled), (str "LATE", .yesNo r.late)],
        [(str "WAIT", num (r.replyWait.map (·.left))), (str "READWAIT", num (r.readWait.map (·.left))),
         (str "HOLD", num (r.holdWait.map (·.left))),
         (str "ZONES", match r.lastZones with | some z => .nums (z.map Fin.val) | none => .none_),
         (str "PLACE", match r.placement with | some p => .place p.round p.window p.firsts | none => .none_)] ] ∧
    heldFields r =
      [(str "MSG", .msg r.id), (str "ENC", .word enc), (str "LEN", .num r.len), (str "PRI", .num r.pri),
       (str "SEQ", .num r.seq.toNat), (str "HOLD", num (r.holdWait.map (·.left))), (str "COUNT", .num r.count),
       (str "POSTED", .num r.posted), (str "REFUNDED", .yesNo r.refunded)]) ∧
  (∀ rate : Rate,
    let table (t : Tariff) : List Field :=
      [(str "TONEFEE", .num t.toneFee), (str "NUMFEE", .num t.numFee), (str "ALPHAFEE", .num t.alphaFee),
       (str "BLOCKRATE", .num t.blockRate), (str "ZONEINC", .num t.zoneInc), (str "PRIF", .nums t.priF.toList),
       (str "BANDF", .nums t.bandF.toList), (str "CAP", .num t.cap)]
    tariffLines rate =
      [ (str "VERSION", .num rate.version.toNat) :: table rate.active,
        (match rate.pending with
          | some (t, .next) => (str "PENDING", .yesNo true) :: (str "AT", .word (str "NEXT")) :: table t
          | some (t, .atRound r) => (str "PENDING", .yesNo true) :: (str "AT", .num r) :: table t
          | none => [(str "PENDING", .none_)]),
        [(str "BAND", .num rate.band),
         (str "NEXTBAND", match rate.nextBand with | some b => .num b | none => .none_)] ])

/-- SUB SUSPEND and SUB RESUME set the state of the entry and nothing else (R17, R18). A command that takes SUB alone
reads it so: a number outside 0-4095 is BAD_SUBSCRIBER, a vacant entry NO_SUBSCRIBER (R1, R16). SUB REMOVE writes the
CLOSE record with the final balance and the period counters, vacates the entry and answers OK with SUB and BALANCE (R19,
R156). Its checks after the entry is found: live pages are HAS_PAGES, then a journal with no open entry is JOURNAL_FULL.
-/
def Obligations.SuspendResumeRemove : Prop :=
  (∀ (s : State) (l : CmdLine) (rest : List CmdLine) (n : Nat) (e : Entry),
      namedEntry (s.lineOff rest) l.fields = .ok (n, e) →
      (s.Heads .subSuspend l rest → exec .subSuspend s =
        .next ({ s.lineOff rest with subs := s.subs.set n { e with state := .suspended } }.answer
          [.final l.tag .ok []]).settle) ∧
      (s.Heads .subResume l rest → exec .subResume s =
        .next ({ s.lineOff rest with subs := s.subs.set n { e with state := .active } }.answer
          [.final l.tag .ok []]).settle)) ∧
  (∀ (s : State) (n : Nat), n < 100000000000000000000 →
      namedEntry s [{ key := str "SUB", value := some (showNat n) }] =
        if 4096 ≤ n then .error (.refusal .badSubscriber [])
        else match s.sub? n with
          | none => .error (.refusal .noSubscriber [])
          | some e => .ok (n, e)) ∧
  (∀ (s : State) (l : CmdLine) (rest : List CmdLine) (n : Nat) (e : Entry), s.Heads .subRemove l rest →
      checkSubRemove (s.lineOff rest) l.fields = .ok (n, e) →
      ∃ t j, exec .subRemove s = .next t ∧
        t = ({ (s.lineOff rest).journal
          { seq := 0, kind := .close, sub := n, round := s.aclk.round, window := s.aclk.window, amount := 0, short := 0
            balance := e.money.balance, waived := false, late := false, clamped := false, msg := none, air := none
            ref := none, period := some (e.money.periodPages, e.money.periodCharges) } with subs := t.subs }.answer
          [.final l.tag .ok [(str "SUB", .num n), (str "BALANCE", .int e.money.balance)]]).settle ∧
        t.sub? n = none ∧ (∀ m, m ≠ n → t.sub? m = s.sub? m) ∧
        t.acct.ring.getLast? = some j ∧ j.kind = .close ∧ j.sub = n ∧ j.seq = s.acct.nextSeq ∧ j.amount = 0 ∧
        j.short = 0 ∧ j.balance = e.money.balance ∧ j.period = some (e.money.periodPages, e.money.periodCharges) ∧
        j.round = s.aclk.round ∧ j.window = s.aclk.window ∧ t.acct.nextSeq = s.acct.nextSeq + 1 ∧
        t.plans = s.plans ∧ t.store = s.store ∧ t.aclk = s.aclk ∧ t.wsch = s.wsch ∧ t.txi = s.txi ∧ t.rxi = s.rxi ∧
        t.rmat = s.rmat ∧ t.rate = s.rate ∧ t.office = s.office) ∧
  (∀ (s : State) (fs : List RawField) (n : Nat) (e : Entry), namedEntry s fs = .ok (n, e) →
      checkSubRemove s fs =
        if 0 < e.live then .error (.refusal .hasPages [])
        else if s.office.journalMode = .hold ∧ s.acct.openEntries = 0 then .error (.refusal .journalFull [])
        else .ok (n, e))

/-- PLAN SET changes the fields given of the one plan it names (R11). -/
def Obligations.PlanSetChanges : Prop :=
  ∀ (s : State) (l : CmdLine) (rest : List CmdLine) (p : PlanNo), s.Heads .planSet l rest →
    checkPlanSet l.fields = .ok p →
    fieldOf l.fields "PLAN" (readFin 8) = some p ∧
    exec .planSet s = .next ({ s.lineOff rest with
      plans := s.plans.set p
        { maxChars := (fieldOf l.fields "MAXCHARS" (readIn 1 200)).getD s.plans[p].maxChars
          maxPri := (fieldOf l.fields "MAXPRI" (readFin 4)).getD s.plans[p].maxPri
          maxPages := (fieldOf l.fields "MAXPAGES" (readIn 1 64)).getD s.plans[p].maxPages
          attempts := (fieldOf l.fields "ATTEMPTS" (readIn 1 7)).getD s.plans[p].attempts
          repeats := (fieldOf l.fields "REPEATS" (readIn 1 3)).getD s.plans[p].repeats
          backoff := (fieldOf l.fields "BACKOFF" (readVector 6 1 15)).getD s.plans[p].backoff
          retryPct := (fieldOf l.fields "RETRYPCT" (readIn 0 100)).getD s.plans[p].retryPct
          refundPct := (fieldOf l.fields "REFUNDPCT" (readIn 0 100)).getD s.plans[p].refundPct
          readWait := (fieldOf l.fields "READWAIT" (readIn 0 255)).getD s.plans[p].readWait
          hold := (fieldOf l.fields "HOLD" (readIn 1 65535)).getD s.plans[p].hold
          autoRecover := (fieldOf l.fields "AUTORECOVER" (wordValue yesNoWords)).getD s.plans[p].autoRecover
          included := (fieldOf l.fields "INCLUDED" (readIn 0 65535)).getD s.plans[p].included
          receiptFee := (fieldOf l.fields "RECEIPTFEE" (readIn 0 65535)).getD s.plans[p].receiptFee } }.answer
            [.final l.tag .ok []]).settle

/-! ### The page store (chapter 2) -/

namespace Sys2Proof.Machine

/-- Among records waiting in a window queue `r` stands ahead of `x`: by priority, then by acceptance (R69). -/
def PageRec.QueueAhead (r x : PageRec) : Prop := x.pri < r.pri ∨ x.pri = r.pri ∧ older r.seq x.seq = true

/-- On a held list `r` stands ahead of `x`: by acceptance (R8). -/
def PageRec.HeldAhead (r x : PageRec) : Prop := older r.seq x.seq = true

/-- The list `new` is the list `old` with the record `r` put in: behind the records it does not stand ahead of, and
right before the first one it does. -/
def State.PutIn (s : State) (ahead : PageRec → PageRec → Prop) (r : PageRec) (old new : List MsgId) : Prop :=
  ∃ before after, old = before ++ after ∧ new = before ++ r.id :: after ∧
    (∀ m ∈ before, ∀ x, s.rec? m = some x → ¬ ahead r x) ∧
    (∀ m, after.head? = some m → ∃ x, s.rec? m = some x ∧ ahead r x)

/-- The records of a list stand in an order. -/
def State.Stand (s : State) (ahead : PageRec → PageRec → Prop) (l : List MsgId) : Prop :=
  l.Pairwise (fun m m' => ∃ x x', s.rec? m = some x ∧ s.rec? m' = some x' ∧ ahead x x')

end Sys2Proof.Machine

/-- The nine checks of SUBMIT in their order, on a line whose fields have their form (R22, R24), and what the accepted
message is adjusted to (R23). The characters NUMERIC takes are the digits, space, hyphen, period and the two parentheses
(R22); the payload block count of a kept length c is 0 for TONE, ceil(c / 9) for NUMERIC and ceil(7c / 36) for ALPHA
(R23, R48). -/
def Obligations.SubmitChecksInOrder : Prop :=
  (∀ b : Byte, isNumericChar b = true ↔ b ∈ str "0123456789 -.()") ∧
  (∀ c : Nat, payloadBlocks .tone c = 0 ∧ payloadBlocks .numeric c = (c + 8) / 9 ∧
    payloadBlocks .alpha c = (7 * c + 35) / 36) ∧
  (∀ s : State, s.freeRecords = 2048 - s.store.records.cells.length ∧
    s.freeChunks = 12288 - (s.store.records.cells.flatMap (fun c => c.2.chunks.getD [])).length) ∧
  ∀ (s : State) (fs : List RawField) (enc : Encoding) (n : Nat), checkForm submitForms ["SUB", "ENC"] fs = .ok () →
    fieldOf fs "ENC" (wordValue encodingWords) = some enc → fieldOf fs "SUB" readNat = some n →
    let pri := (fieldOf fs "PRI" (readFin 4)).getD 1
    let given := (fieldOf fs "TEXT" some).getD []
    checkSubmit s fs =
      if 4096 ≤ n then .error (.refusal .badSubscriber [])
      else match s.sub? n with
        | none => .error (.refusal .noSubscriber [])
        | some e =>
          let plan := s.plans[e.plan]
          let kept := min pri plan.maxPri
          let text := if enc = .tone then [] else given.take plan.maxChars
          let blocks := payloadBlocks enc text.length
          let estimate := charge s.rate.active false enc blocks e.zones.length kept s.rate.band
          if e.state = .suspended then .error (.refusal .suspended [])
          else if e.money.credit = .barred then .error (.refusal .barred [])
          else if enc = .numeric ∧ given.all isNumericChar = false then .error (.refusal .badText [])
          else if plan.maxPages ≤ e.live then .error (.refusal .subLimit [])
          else if kept = 0 ∧ s.store.congested = true then .error (.refusal .congested [])
          else if s.freeRecords = 0 then .error (.refusal .storeFull [])
          else if s.freeChunks < (text.length + 15) / 16 then .error (.refusal .textFull [])
          else if e.money.balance - e.money.floor - e.money.reserved < estimate then
            .error (.refusal .noCredit
              [(str "EST", .num estimate),
               (str "HEADROOM", .int (e.money.balance - e.money.floor - e.money.reserved))])
          else
            .ok { sub := n, enc := enc, pri := kept, origin := (fieldOf fs "ORIGIN" (readIn 0 255)).getD 0
                  text := text, truncated := decide (enc ≠ .tone ∧ text.length < given.length)
                  lowered := decide (kept < pri), blocks := blocks + 1, estimate := estimate }

/-- An accepted SUBMIT allocates the lowest free slot under a new generation, fills the record, with the truncated flag
and as many chunks of at most 16 characters as its text needs, out of those free (R20; which of them is a free value,
log 10), keeps the text with the record beside them (R47, log 12), reserves the estimate, counts the record live, judges congestion, files the record in its home window's queue
and answers OK with MSG, N and EST, with TRUNCATED if text was cut and PRIORITY if it was lowered (R23, R25, R26). The
place of a record in a queue is by priority and then by age, and filing keeps that order (R25, R69, R70); a sequence is
older than one it is behind by less than half the range. The lowest free slot is one no record stands in, with a record
in every one below it. -/
def Obligations.SubmitAccepted : Prop :=
  (∀ (s : State) (l : CmdLine) (rest : List CmdLine) (a : SubmitArgs) (e : Entry), s.Heads .submit l rest →
    checkSubmit (s.lineOff rest) l.fields = .ok a → s.sub? a.sub = some e →
    let slot := s.store.records.lowest
    let id : MsgId := { slot := slot, gen := s.generation slot + 1 }
    ∃ t r, exec .submit s = .next t ∧ t.rec? id = some r ∧ r.id = id ∧ r.sub = a.sub ∧ r.state = .queued ∧
      r.series = .first ∧ r.enc = a.enc ∧ r.pri = a.pri ∧ r.len = a.text.length ∧ r.text = a.text ∧
      r.kept = a.text ∧ r.truncated = a.truncated ∧
      (a.text = [] → r.chunks = none) ∧
      (a.text ≠ [] → ∃ cs, r.chunks = some cs ∧ cs.length = (a.text.length + 15) / 16 ∧
        (∀ c ∈ cs, c.chars.length ≤ 16) ∧
        (s.usedChunks.Nodup → (∀ i ∈ s.usedChunks, i < 12288) → (cs.map (·.index)).Nodup ∧
          ∀ c ∈ cs, c.index < 12288 ∧ c.index ∉ s.usedChunks)) ∧
      r.blocks = a.blocks ∧ r.origin = a.origin ∧ r.seq = s.store.nextSeq ∧ r.count = 0 ∧ r.skip = 0 ∧
      r.deferral = 0 ∧ r.tag = none ∧ r.reservation = some a.estimate ∧ r.firstCharge = none ∧ r.posted = 0 ∧
      r.refunded = false ∧ r.cancelled = false ∧ r.late = false ∧ r.replyWait = none ∧ r.readWait = none ∧
      r.holdWait = none ∧ r.lastZones = none ∧ r.placement = none ∧ r.freeAfterAiring = false ∧
      r.limit = (match e.kind with | .twoWay => s.plans[e.plan].attempts | .oneWay => s.plans[e.plan].repeats) ∧
      r.terms.backoff = s.plans[e.plan].backoff ∧ r.terms.retryPct = s.plans[e.plan].retryPct ∧
      r.terms.refundPct = s.plans[e.plan].refundPct ∧ r.terms.readWait = s.plans[e.plan].readWait ∧
      r.terms.hold = s.plans[e.plan].hold ∧
      t.store.nextSeq = s.store.nextSeq + 1 ∧ t.generation slot = s.generation slot + 1 ∧
      t.sub? a.sub = some
        { e with live := e.live + 1, money := { e.money with reserved := e.money.reserved + a.estimate } } ∧
      (∀ m, m ≠ a.sub → t.sub? m = s.sub? m) ∧ (∀ m : MsgId, m.slot ≠ slot → t.rec? m = s.rec? m) ∧
      (t.queue e.home).Perm (id :: s.queue e.home) ∧
      t.PutIn PageRec.QueueAhead r (s.queue e.home) (t.queue e.home) ∧
      (∀ w : Window, w ≠ e.home → t.queue w = s.queue w) ∧
      (let judged := { s.lineOff rest with store := { t.store with congested := s.store.congested } }.judgeCongestion
       t.store = judged.store ∧
       t.hlc = (judged.answer [.final l.tag .ok
         ([(str "MSG", .msg id), (str "N", .num a.blocks), (str "EST", .num a.estimate)] ++
           (if a.truncated then [(str "TRUNCATED", .num a.text.length)] else []) ++
           (if a.lowered then [(str "PRIORITY", .num a.pri)] else []))]).settle.hlc) ∧
      t.plans = s.plans ∧ t.aclk = s.aclk ∧ t.txi = s.txi ∧ t.rxi = s.rxi ∧ t.rmat = s.rmat ∧ t.rate = s.rate ∧
      t.acct = s.acct ∧ t.office = s.office ∧ t.wsch.build = s.wsch.build ∧ t.wsch.onAir = s.wsch.onAir) ∧
  (∀ records : Table PageRec, (records.cells.map Prod.fst).Pairwise (· < ·) →
    records.get? records.lowest = none ∧ ∀ k, k < records.lowest → records.get? k ≠ none) ∧
  (∀ (s : State) (slot : Nat), s.generation slot = (s.store.gens.get? slot).getD 0) ∧
  (∀ a b : BitVec 32,
    ((b - a).toNat < 2147483648 → (older a b = true ↔ a ≠ b)) ∧ (2147483648 < (b - a).toNat → older a b = false)) ∧
  (∀ (s : State) (r : PageRec) (e : Entry), s.sub? r.sub = some e → s.rec? r.id = some r →
    s.PutIn PageRec.QueueAhead r (s.queue e.home) ((s.fileRec r).queue e.home)) ∧
  (∀ (s : State) (r : PageRec) (base : BitVec 32) (old new : List MsgId), s.rec? r.id = some r →
    (r.seq - base).toNat < 2147483648 →
    (∀ m ∈ old, ∃ x, s.rec? m = some x ∧ (x.seq - base).toNat < 2147483648 ∧ x.seq ≠ r.seq) →
    (s.PutIn PageRec.QueueAhead r old new → s.Stand PageRec.QueueAhead old → s.Stand PageRec.QueueAhead new) ∧
    (s.PutIn PageRec.HeldAhead r old new → s.Stand PageRec.HeldAhead old → s.Stand PageRec.HeldAhead new))

/-- CANCEL by the state of the record (R33). MSG finds its record as R27 gives: a free slot or another generation is
UNKNOWN_MESSAGE. -/
def Obligations.CancelByState : Prop :=
  (∀ s : State, s.NamesRecord) ∧
  ∀ (s : State) (l : CmdLine) (rest : List CmdLine) (r : PageRec), s.Heads .cancel l rest →
    namedRecord (s.lineOff rest) l.fields = .ok r →
    let found : List Field := [(str "MSG", .msg r.id), (str "STATE", .word r.state.name)]
    (r.state = .queued ∨ r.state = .retryWait ∨ r.state = .held → exec .cancel s =
      .next (((s.lineOff rest).freeRec r .cancelled).answer [.final l.tag .ok found]).settle) ∧
    (r.state = .placed → exec .cancel s =
      .next ((s.lineOff rest).answer [.final l.tag (.refused .tooLate) []]).settle) ∧
    (r.state = .awaiting → exec .cancel s =
      .next (((s.lineOff rest).putRec { r with cancelled := true }).answer [.final l.tag .okPending found]).settle) ∧
    (r.state = .delivered → exec .cancel s =
      .next ((s.lineOff rest).answer [.final l.tag (.refused .delivered) []]).settle)

namespace Sys2Proof.Machine

/-- The notice of an outcome (R32): its kind, and MSG, SUB and OUTCOME, with FEE for a read (R113, log 20). -/
def PageOutcome.notice (o : PageOutcome) (r : PageRec) : NoticeKind × List Field :=
  let made (word : String) : List Field :=
    [(str "MSG", .msg r.id), (str "SUB", .num r.sub), (str "OUTCOME", .word (str word))]
  match o with
  | .read fee => (.pageRead, made "READ" ++ [(str "FEE", .num fee)])
  | .deliveredDone => (.pageDone, made "DELIVERED")
  | .sent => (.pageSent, made "SENT")
  | .expired => (.pageExpired, made "EXPIRED")
  | .cancelled => (.pageDone, made "CANCELLED")

end Sys2Proof.Machine

/-- Freeing a record (R32): the slot is returned with its generation kept, the tag and the reservation are released, the
live count falls, the outcome's condition is raised with MSG, SUB and the outcome (log 20) and then congestion judged
(the order of the two conditions: log 21), no other record, entry or place changes, and nothing is journaled. -/
def Obligations.RecordFreed : Prop :=
  ∀ (s : State) (r : PageRec) (e : Entry) (o : PageOutcome), s.rec? r.id = some r → s.sub? r.sub = some e →
    let t := s.freeRec r o
    t = { t with
      store := { t.store with congested := s.store.congested }
      hlc := s.hlc.raise (o.notice r).1 (o.notice r).2 true }.judgeCongestion ∧
    t.rec? r.id = none ∧ t.store.records = s.store.records.erase r.id.slot ∧ t.store.gens = s.store.gens ∧
    t.store.nextSeq = s.store.nextSeq ∧ (∀ m : MsgId, m.slot ≠ r.id.slot → t.rec? m = s.rec? m) ∧
    (∃ e', t.sub? r.sub = some e' ∧ e'.live = e.live - 1 ∧
      e'.tags = (match r.tag with | some g => e.tags.filter (fun x => x != g) | none => e.tags) ∧
      e'.held = (if r.state = .held then e.held.filter (fun m => m != r.id) else e.held) ∧
      e'.money = { e.money with reserved := e.money.reserved - r.reservation.getD 0 } ∧
      e'.state = e.state ∧ e'.addr = e.addr ∧ e'.kind = e.kind ∧ e'.home = e.home ∧ e'.zones = e.zones ∧
      e'.plan = e.plan ∧ e'.heard = e.heard) ∧
    (∀ m, m ≠ r.sub → t.sub? m = s.sub? m) ∧
    (∀ w : Window, t.queue w =
      if (r.state = .queued ∨ r.state = .retryWait) ∧ w = e.home then (s.queue w).filter (fun m => m != r.id)
      else s.queue w) ∧
    t.rmat = { s.rmat with
      awaiting := if r.state = .awaiting ∨ r.state = .delivered then s.rmat.awaiting.filter (fun m => m != r.id)
        else s.rmat.awaiting } ∧
    t.wsch.oversize = s.wsch.oversize.filter (fun m => m != r.id) ∧ t.wsch.deferrals = s.wsch.deferrals ∧
    t.hlc.flags[o.kind.index] = true ∧
    t.plans = s.plans ∧ t.aclk = s.aclk ∧ t.txi = s.txi ∧ t.rxi = s.rxi ∧ t.rate = s.rate ∧ t.acct = s.acct ∧
    t.office = s.office ∧ t.wsch.build = s.wsch.build ∧ t.wsch.onAir = s.wsch.onAir ∧ t.fresh = s.fresh ∧
    t.pending = s.pending

/-- HELD RELEASE starts a recovery series for every record of the held list, in its order, and answers their number
(R38). The start of one series (R31): the record leaves the held list and is filed QUEUED in its home window's queue as
a RECOVERY series at attempt 0, with no hold and no reservation. -/
def Obligations.RecoverySeriesStarts : Prop :=
  (∀ (s : State) (l : CmdLine) (rest : List CmdLine) (n : Nat) (e : Entry), s.Heads .heldRelease l rest →
      namedEntry (s.lineOff rest) l.fields = .ok (n, e) →
      exec .heldRelease s = .next ((e.held.foldl State.recoverRec (s.lineOff rest)).answer
        [.final l.tag .ok [(str "COUNT", .num e.held.length)]]).settle) ∧
  (∀ (s : State) (r : PageRec) (e : Entry), s.rec? r.id = some r → s.sub? r.sub = some e →
      let t := s.recoverRec r.id
      t.rec? r.id = some
        { r with
          state := .queued, series := .recovery, count := 0, skip := 0, late := false, holdWait := none
          reservation := none } ∧
      t.sub? r.sub = some { e with held := e.held.filter (fun m => m != r.id) } ∧
      (t.queue e.home).Perm (r.id :: s.queue e.home) ∧
      t.PutIn PageRec.QueueAhead r (s.queue e.home) (t.queue e.home) ∧
      (∀ w : Window, w ≠ e.home → t.queue w = s.queue w) ∧
      (∀ m : MsgId, m.slot ≠ r.id.slot → t.rec? m = s.rec? m) ∧ (∀ m, m ≠ r.sub → t.sub? m = s.sub? m) ∧
      t.hlc = s.hlc ∧ t.acct = s.acct ∧ t.rmat = s.rmat ∧ t.aclk = s.aclk ∧ t.txi = s.txi ∧ t.rate = s.rate)

/-! ### The air clock (chapter 4) -/

/-- AIR START in STOPPED enters STARTING and begins the build of the window the counters name, with the layout of the
lock detector and the zone settings as they stand (R59, R68, R72, R92). With a field it is refused BAD_FIELD and outside
STOPPED AIR_RUNNING. AIR STOP, refused BAD_FIELD with a field, by the air state (R62): the image under build is
withdrawn; STARTING becomes STOPPED at once; RUNNING becomes STOPPING, or, with a window-start event held and no airing
under way, STOPPED at once. In STOPPED no image is on air and every keying record is empty. The counters stay. -/
def Obligations.AirStartedAndStopped : Prop :=
  (∀ (s : State) (l : CmdLine) (rest : List CmdLine), s.Heads .airStart l rest →
    (l.fields = [] → s.aclk.air = .stopped →
      exec .airStart s = .next ({ s.lineOff rest with
        aclk := { s.aclk with air := .starting }
        wsch := { s.wsch with
          build := some
            { image :=
                { round := s.aclk.round, window := s.aclk.window
                  layout := if s.aclk.detector = Detector.locked then Layout.locked else Layout.degraded
                  view := s.txi.map ZoneCell.settings, pages := Vector.replicate 8 [], order := [] }
              reached := none, closed := false, ended := false } } }.answer
        [.final l.tag .ok
          [(str "STATE", .word (str "STARTING")), (str "ROUND", .num s.aclk.round),
           (str "WINDOW", .num s.aclk.window)]]).settle) ∧
    (l.fields = [] → s.aclk.air ≠ .stopped →
      exec .airStart s = .next ((s.lineOff rest).answer [.final l.tag (.refused .airRunning) []]).settle) ∧
    (∀ f fs, l.fields = f :: fs → exec .airStart s =
      .next ((s.lineOff rest).answer [.final l.tag (.refused .badField) [(str "FIELD", .word f.key)]]).settle)) ∧
  (∀ (s : State) (l : CmdLine) (rest : List CmdLine), s.Heads .airStop l rest → l.fields = [] →
    let w := (s.lineOff rest).withdrawImage
    let answered (t : State) (st : String) : State :=
      t.answer [.final l.tag .ok
        [(str "STATE", .word (str st)), (str "ROUND", .num s.aclk.round), (str "WINDOW", .num s.aclk.window)]]
    (s.aclk.air = .stopped → exec .airStop s =
      .next ((s.lineOff rest).answer [.final l.tag (.refused .airStopped) []]).settle) ∧
    (s.aclk.air = .starting → exec .airStop s = .next (answered w.arriveStopped "STOPPED").settle) ∧
    (s.aclk.air = .running → s.aclk.holding ≠ .windowStart → exec .airStop s =
      .next (answered { w with aclk := { s.aclk with air := .stopping, holding := .none_ } } "STOPPING").settle) ∧
    (s.aclk.air = .running → s.aclk.holding = .windowStart → s.airingUnderWay = true → exec .airStop s =
      .next (answered { w with aclk := { s.aclk with air := .stopping, holding := .stop } } "STOPPING").settle) ∧
    (s.aclk.air = .running → s.aclk.holding = .windowStart → s.airingUnderWay = false → exec .airStop s =
      .next (answered w.arriveStopped "STOPPED").settle) ∧
    (s.aclk.air = .stopping → exec .airStop s =
      .next ((s.lineOff rest).answer [.final l.tag .ok [(str "STATE", .word (str "STOPPING"))]]).settle)) ∧
  (∀ (s : State) (l : CmdLine) (rest : List CmdLine), s.Heads .airStop l rest → ∀ f fs, l.fields = f :: fs →
    exec .airStop s =
      .next ((s.lineOff rest).answer [.final l.tag (.refused .badField) [(str "FIELD", .word f.key)]]).settle) ∧
  (∀ s : State,
    (s.airingUnderWay = true ↔ ∃ o, s.wsch.onAir = some o ∧ o.toAir ≠ []) ∧
    s.arriveStopped = { s with
      aclk := { s.aclk with air := .stopped, holding := .none_ }
      wsch := { s.wsch with onAir := none }
      txi := s.txi.map (fun z => { z with current := none, next := none }) })

/-- A withdrawn image (R63, R102): its records leave it one by one, in the order they were placed, which is the model's
choice (log 22). No image under build is left, every placement's AIR reservation is released in HOLD
mode, and each zone whose next order is for the withdrawn window is sent a withdraw, which is counted, and loses that
order; the other zones stand. A record that leaves it at attempt count 0 returns QUEUED and its tag is released; at 1 or
more it returns RETRY_WAIT with skip count 0 and keeps its tag; a DELIVERED one moves to the awaiting list with its late
flag clear, or is freed if it was to be. -/
def Obligations.ImageWithdrawn : Prop :=
  (∀ (s : State) (b : Build), s.wsch.build = some b →
      let t := s.withdrawImage
      let left := b.image.order.foldl State.withdrawRec s
      t = { left with wsch := { left.wsch with build := none }, txi := t.txi, acct := t.acct } ∧
      t.wsch.build = none ∧ t.wsch.onAir = s.wsch.onAir ∧
      t.acct = { s.acct with
        airReserved := if s.office.journalMode = .hold then s.acct.airReserved - b.image.order.length
          else s.acct.airReserved } ∧
      (∀ (z : Zone) (o : OrderInfo), s.txi[z].next = some o → o.round = b.image.round → o.window = b.image.window →
        t.txi[z] = { s.txi[z] with
          next := none, withdraws := min (s.txi[z].withdraws + 1) 65535
          sent := s.txi[z].sent ++ [.withdraw z b.image.round b.image.window] }) ∧
      (∀ z : Zone, (∀ o, s.txi[z].next = some o → o.round ≠ b.image.round ∨ o.window ≠ b.image.window) →
        t.txi[z] = s.txi[z]) ∧
      t.aclk = s.aclk ∧ t.plans = s.plans ∧ t.rate = s.rate ∧ t.rxi = s.rxi ∧ t.office = s.office) ∧
  (∀ (s : State) (r : PageRec) (e : Entry), s.rec? r.id = some r → s.sub? r.sub = some e →
      let t := s.withdrawRec r.id
      (r.state = .placed → r.count = 0 →
        t.rec? r.id = some { r with state := .queued, placement := none, tag := none } ∧
        (t.queue e.home).Perm (r.id :: s.queue e.home) ∧
        t.PutIn PageRec.QueueAhead r (s.queue e.home) (t.queue e.home) ∧
        t.sub? r.sub = some
          { e with tags := match r.tag with | some g => e.tags.filter (fun x => x != g) | none => e.tags } ∧
        t.rmat = s.rmat ∧ t.hlc = s.hlc ∧ t.acct = s.acct) ∧
      (r.state = .placed → r.count ≠ 0 →
        t.rec? r.id = some { r with state := .retryWait, placement := none, skip := 0 } ∧
        (t.queue e.home).Perm (r.id :: s.queue e.home) ∧
        t.PutIn PageRec.QueueAhead r (s.queue e.home) (t.queue e.home) ∧ t.subs = s.subs ∧ t.rmat = s.rmat ∧
        t.hlc = s.hlc ∧ t.acct = s.acct) ∧
      (r.state = .delivered → r.freeAfterAiring = false →
        t.rec? r.id = some { r with late := false, placement := none } ∧ t.rmat.awaiting = s.rmat.awaiting ++ [r.id] ∧
        t.wsch = s.wsch ∧ t.subs = s.subs ∧ t.hlc = s.hlc ∧ t.acct = s.acct) ∧
      (r.state = .delivered → r.freeAfterAiring = true →
        let d : PageRec := { r with late := false, placement := none }
        t = (s.putRec d).freeRec d .deliveredDone ∧
        t.rec? r.id = none ∧ t.hlc.flags[NoticeKind.pageDone.index] = true ∧ t.acct = s.acct) ∧
      (∀ m : MsgId, m.slot ≠ r.id.slot → t.rec? m = s.rec? m) ∧ (∀ n, n ≠ r.sub → t.sub? n = s.sub? n) ∧
      (∀ w : Window, w ≠ e.home → t.queue w = s.queue w))

/-- LEAD_IN_END in STARTING: RUNNING, the counters as they stand, and the window-start event (R60). WINDOW_BOUNDARY in
RUNNING: the counters advance, window 31 to window 0 of the next round, and the window-start event (R56, R61). Either is
held while the build or the airing has not ended, and HELD_WINDOW_START issues it once they have (R61, R84) and changes
nothing before (log 1). That the air counts as RUNNING while the first event is held is the model's reading (log 17).
STOPPING_WINDOW_END: the counters advance, no window-start event is issued, the air is STOPPED, the image on air is
retired and every keying record is empty (R64); with the airing under way the end is held for it, which is the model's
choice (log 18). -/
def Obligations.BoundariesTaken : Prop :=
  (∀ s : State, s.windowReady = true ↔
    (∃ b, s.wsch.build = some b ∧ b.ended = true) ∧ ∀ o, s.wsch.onAir = some o → o.toAir = []) ∧
  (∀ s : State, s.aclk.air = .starting →
      let t : State := { s with aclk := { s.aclk with air := .running } }
      (s.windowReady = true → exec .leadInEnd s = .next t.windowStart.settle) ∧
      (s.windowReady = false → exec .leadInEnd s =
        .next { s with aclk := { s.aclk with air := .running, holding := .windowStart } }.settle)) ∧
  (∀ s : State, s.aclk.air = .running → s.aclk.holding = .none_ →
      let t : State := { s with aclk := { s.aclk with
        round := if s.aclk.window = 31 then s.aclk.round + 1 else s.aclk.round, window := s.aclk.window + 1 } }
      (s.windowReady = true → exec .windowBoundary s = .next t.windowStart.settle) ∧
      (s.windowReady = false → exec .windowBoundary s =
        .next { t with aclk := { t.aclk with holding := .windowStart } }.settle)) ∧
  (∀ s : State, s.aclk.air = .running → s.aclk.holding = .windowStart →
      (∀ b, s.wsch.build = some b → b.ended = true → (∀ o, s.wsch.onAir = some o → o.toAir = []) →
        exec .heldWindowStart s = .next s.windowStart.settle) ∧
      (s.windowReady = false → exec .heldWindowStart s = .next s)) ∧
  (∀ (s : State) (o : OnAir), s.aclk.air = .stopping → s.aclk.holding = .none_ → s.wsch.onAir = some o → o.toAir ≠ [] →
    exec .stoppingWindowEnd s = .next { s with aclk := { s.aclk with holding := .windowEnd } }.settle) ∧
  (∀ s : State, s.aclk.air = .stopping → s.aclk.holding = .none_ →
    (∀ o, s.wsch.onAir = some o → o.toAir = []) → exec .stoppingWindowEnd s = .next ({ s with
      aclk := { s.aclk with
        air := .stopped, holding := .none_
        round := if s.aclk.window = 31 then s.aclk.round + 1 else s.aclk.round, window := s.aclk.window + 1 }
      wsch := { s.wsch with onAir := none }
      txi := s.txi.map (fun z => { z with current := none, next := none }) } : State).settle)

/-- What a window-start event does (R57, R84, R95, R116): the built image goes on air with its records to air, each
zone's next order becomes its current one, every AWAITING record's countdown is lowered, and the build of the window
after begins with an empty image. At window 0 the work of the round-start event comes first, in the same step, which is
the model's reading (log 16). A countdown at its last unit is marked as run out and ends with its own row (log 14). The
work of the round-start event (R6, R57, R121, R122, R131): a due table and a pending band are applied, a table with
TARIFF_ACTIVE, which carries VERSION and ROUND, and with none due no condition is raised; last-heard ages rise, and the
holds of HELD records and the read waits of DELIVERED ones on the awaiting list are lowered. -/
def Obligations.WindowStartEvent : Prop :=
  (∀ (s : State) (b : Build), s.wsch.build = some b →
    let u := if s.aclk.window = 0 then { s with aclk := { s.aclk with holding := .none_ } }.roundStart
      else { s with aclk := { s.aclk with holding := .none_ } }
    s.windowStart = { u with
      store := { u.store with
        records := u.store.records.mapValues (fun r =>
          if r.state = .awaiting then
            { r with replyWait := r.replyWait.map (fun c =>
                if c.left ≤ 1 then { c with due := true } else { c with left := c.left - 1 }) }
          else r) }
      wsch := { s.wsch with
        onAir := some { image := b.image, toAir := b.image.order }
        build := some
          { image :=
              { round := if s.aclk.window = 31 then s.aclk.round + 1 else s.aclk.round, window := s.aclk.window + 1
                layout := if s.aclk.detector = .locked then .locked else .degraded
                view := s.txi.map ZoneCell.settings, pages := Vector.replicate 8 [], order := [] }
            reached := none, closed := false, ended := false } }
      txi := s.txi.map (fun z => { z with current := z.next, next := none }) }) ∧
  (∀ s : State,
    let t := s.roundStart
    (∀ n, t.sub? n = (s.sub? n).map (fun e =>
      { e with heard := e.heard.map (fun h => { h with age := min (h.age + 1) 255 }) })) ∧
    (∀ m r, s.rec? m = some r → r.state = .held →
      t.rec? m = some { r with holdWait := r.holdWait.map Countdown.lower }) ∧
    (∀ m r, s.rec? m = some r → r.state = .delivered → r.id ∈ s.rmat.awaiting →
      t.rec? m = some { r with readWait := r.readWait.map Countdown.lower }) ∧
    (∀ m r, s.rec? m = some r → r.state ≠ .held → (r.state ≠ .delivered ∨ r.id ∉ s.rmat.awaiting) →
      t.rec? m = some r) ∧
    (∀ tbl c, s.rate.pending = some (tbl, c) → (c = .next ∨ c = .atRound s.aclk.round) →
      t.rate.active = tbl ∧ t.rate.version = s.rate.version + 1 ∧ t.rate.pending = none ∧
      t.hlc = s.hlc.raise .tariffActive
        [(str "VERSION", .num (s.rate.version + 1).toNat), (str "ROUND", .num s.aclk.round)] true) ∧
    (s.rate.pending = none → t.rate.active = s.rate.active ∧ t.rate.version = s.rate.version ∧
      t.rate.pending = none ∧ t.hlc = s.hlc) ∧
    (∀ tbl r, s.rate.pending = some (tbl, .atRound r) → r ≠ s.aclk.round →
      t.rate.active = s.rate.active ∧ t.rate.version = s.rate.version ∧ t.rate.pending = s.rate.pending ∧
      t.hlc = s.hlc) ∧
    t.rate.band = s.rate.nextBand.getD s.rate.band ∧ t.rate.nextBand = none ∧
    t.plans = s.plans ∧ t.acct = s.acct ∧ t.txi = s.txi ∧ t.wsch = s.wsch ∧ t.rmat = s.rmat ∧ t.aclk = s.aclk)

/-- STROBE and MISSING_STROBE: a strobe counts once, by its mark, and the 64th of a group is its judgement; a missing
one counts as bad (R65). Every entry to and exit from LOCKED sets the LOCK flag; the notice follows LOCK EDGE; an exit
empties the oversize set (R67, R81). -/
def Obligations.StrobesAreCounted : Prop :=
  (∀ (s : State) (good : Bool),
      (s.aclk.strobes + 1 < 64 →
        exec (.strobe good) s = .next { s with aclk :=
          { s.aclk with strobes := s.aclk.strobes + 1, badMark := s.aclk.badMark || !good } }.settle) ∧
      (64 ≤ s.aclk.strobes + 1 →
        let t : State := { s with aclk := { s.aclk with strobes := 0, badMark := false } }
        exec (.strobe good) s =
          .next (if (s.aclk.badMark || !good) = true then t.unlock else t.goodGroup).settle) ∧
      exec .missingStrobe s = exec (.strobe false) s) ∧
  (∀ s : State, s.aclk.strobes + 1 < 64 → exec .missingStrobe s =
      .next { s with aclk := { s.aclk with strobes := s.aclk.strobes + 1, badMark := true } }.settle) ∧
  (∀ s : State,
      (s.aclk.detector = .acquiring 7 →
        s.goodGroup.hlc = s.hlc.raise .lock
          [(str "STATE", .word (str "LOCKED")), (str "ROUND", .num s.aclk.round), (str "WINDOW", .num s.aclk.window)]
          (s.office.lockEdge = .gained ∨ s.office.lockEdge = .both)) ∧
      (s.aclk.detector = .locked →
        s.unlock.hlc = s.hlc.raise .lock
          [(str "STATE", .word (str "UNLOCKED")), (str "ROUND", .num s.aclk.round), (str "WINDOW", .num s.aclk.window)]
          (s.office.lockEdge = .lost ∨ s.office.lockEdge = .both) ∧
        s.unlock.wsch.oversize = []) ∧
      (s.aclk.detector ≠ .locked → s.unlock.hlc = s.hlc ∧ s.unlock.wsch = s.wsch))

/-- How a judged group moves the detector, the 8 groups or 512 good strobes that gain lock, and how the state is
reported (R66). -/
def Obligations.DetectorTable : Prop :=
  (∀ s : State, s.unlock.aclk.detector = .unlocked) ∧
  (∀ s : State, s.aclk.detector = .unlocked → s.goodGroup.aclk.detector = .acquiring 1) ∧
  (∀ (s : State) (k : Nat), s.aclk.detector = .acquiring k → 1 ≤ k → k ≤ 6 →
    s.goodGroup.aclk.detector = .acquiring (k + 1)) ∧
  (∀ s : State, s.aclk.detector = .acquiring 7 → s.goodGroup.aclk.detector = .locked) ∧
  (∀ s : State, s.aclk.detector = .locked → s.goodGroup = s) ∧
  (∀ s : State, s.aclk.detector = .unlocked →
    (State.goodGroup^[8] s).aclk.detector = .locked ∧
      ∀ i, i < 8 → (State.goodGroup^[i] s).aclk.detector ≠ .locked) ∧
  (∀ s : State, s.aclk.detector = .unlocked → s.aclk.strobes = 0 → s.aclk.badMark = false →
    ((fun x : State => x.countStrobe true)^[512] s).aclk.detector = .locked ∧
      ∀ i, i < 512 → ((fun x : State => x.countStrobe true)^[i] s).aclk.detector ≠ .locked) ∧
  State.reset.aclk.detector = .unlocked ∧
  (∀ s : State, s.restarted.aclk.detector = .unlocked ∧ s.restarted.aclk.strobes = 0 ∧
    s.restarted.aclk.badMark = false ∧ s.restarted.hlc.flags[NoticeKind.lock.index] = false ∧
    s.restarted.hlc.notices = []) ∧
  (∀ s : State, ∃ line lines, statusLines s = line :: lines ∧ (str "LOCK", s.aclk.detector.value) ∈ line) ∧
  Detector.unlocked.value = .word (str "UNLOCKED") ∧ Detector.locked.value = .word (str "LOCKED") ∧
  (∀ k, (Detector.acquiring k).value = .acquiring k)

/-! ### Window building (chapter 5) -/

namespace Sys2Proof.Machine

/-- The walk of the build `b` reaches the record `r` of the entry `e` next. -/
def State.Reaches (s : State) (b : Build) (r : PageRec) (e : Entry) : Prop :=
  s.wsch.build = some b ∧ b.ended = false ∧ s.nextOfWalk b = some r ∧ s.sub? r.sub = some e

/-- The state once the walk has reached a place of the queue. -/
def State.reachedAt (s : State) (b : Build) : State := { s with wsch := { s.wsch with build := some b } }

/-- A deferral and nothing more (R83). -/
def State.deferred (s : State) (r : PageRec) : State :=
  { s with
    store := { s.store with records := s.store.records.set r.id.slot { r with deferral := min (r.deferral + 1) 255 } }
    wsch := { s.wsch with deferrals := min (s.wsch.deferrals + 1) 65535 } }

end Sys2Proof.Machine

/-- WALK_RECORD, what keeps a record from being placed. A SUSPENDED subscriber's record is passed over as it stands; a
skip count above 0 is lowered by one (R74, R75). A record with skip count 0 is deferred by a closed image, an empty zone
set, no free tag, no journal room, which closes the image, oversize in the DEGRADED layout, raised once in a loss of
lock, or no run of positions (R76 to R81, R83). The record the walk reaches is the first in queue order that stands
behind the place reached before, by priority and age (R73). -/
def Obligations.WalkPassesSkipsDefers : Prop :=
  (∀ (s : State) (b : Build) (r : PageRec) (e : Entry), s.Reaches b r e →
      let b' : Build := { b with reached := some { pri := r.pri, seq := r.seq } }
      (e.state = .suspended → exec .walkRecord s = .next (s.reachedAt b').settle) ∧
      (e.state = .active → 0 < r.skip →
        exec .walkRecord s = .next ((s.reachedAt b').putRec { r with skip := r.skip - 1 }).settle)) ∧
  (∀ (s : State) (b : Build) (r : PageRec) (e : Entry), s.Reaches b r e → e.state = .active → r.skip = 0 →
      let b' : Build := { b with reached := some { pri := r.pri, seq := r.seq } }
      let zones := reducedZones s.office.zoneMemory r e b.image
      let noTag : Prop := e.kind = .twoWay ∧ r.tag = none ∧ ∀ g : PageTag, g ∈ e.tags
      let noRoom : Prop := s.office.journalMode = .hold ∧ s.acct.freeEntries < 64 + s.acct.airReserved + 1
      let oversize : Prop := b.image.layout = .degraded ∧ 30 < r.blocks
      (b.closed = true → exec .walkRecord s = .next ((s.reachedAt b').deferred r).settle) ∧
      (b.closed = false → (zones = [] ∨ noTag) → exec .walkRecord s = .next ((s.reachedAt b').deferred r).settle) ∧
      (b.closed = false → zones ≠ [] → ¬ noTag → noRoom → exec .walkRecord s =
        .next (((s.reachedAt b').deferred r).reachedAt { b' with closed := true }).settle) ∧
      (b.closed = false → zones ≠ [] → ¬ noTag → ¬ noRoom → oversize → r.id ∈ s.wsch.oversize →
        exec .walkRecord s = .next ((s.reachedAt b').deferred r).settle) ∧
      (b.closed = false → zones ≠ [] → ¬ noTag → ¬ noRoom → oversize → r.id ∉ s.wsch.oversize →
        let d := (s.reachedAt b').deferred r
        exec .walkRecord s =
          .next ({ d with wsch := { d.wsch with oversize := s.wsch.oversize ++ [r.id] } }.raise .oversize
            [(str "MSG", .msg r.id), (str "N", .num r.blocks)]).settle) ∧
      (b.closed = false → zones ≠ [] → ¬ noTag → ¬ noRoom → ¬ oversize → b.image.runs zones r.blocks = none →
        exec .walkRecord s = .next ((s.reachedAt b').deferred r).settle)) ∧
  (∀ (s : State) (b : Build),
      let left (x : PageRec) : Prop :=
        ∀ p, b.reached = some p → x.pri < p.pri ∨ x.pri = p.pri ∧ older p.seq x.seq = true
      (∀ r, s.nextOfWalk b = some r → s.rec? r.id = some r ∧ left r ∧
        ∃ before after, s.queue b.image.window = before ++ r.id :: after ∧
          ∀ m ∈ before, ∀ x, s.rec? m = some x → ¬ left x) ∧
      (∀ r before after, s.queue b.image.window = before ++ r.id :: after → s.rec? r.id = some r → left r →
        (∀ m ∈ before, ∀ x, s.rec? m = some x → ¬ left x) → s.nextOfWalk b = some r) ∧
      (s.nextOfWalk b = none ↔ ∀ m ∈ s.queue b.image.window, ∀ x, s.rec? m = some x → ¬ left x))

/-- WALK_RECORD, placement (R82): a record that passes every step is PLACED in the image at the runs found, with its
tag, the lowest its subscriber does not hold if it had none (R7), one AIR reservation in HOLD mode, and everything else
of it as it was. The image takes the page at its run in each zone, the lists ordered by position, and at the end of its
order of placing. -/
def Obligations.WalkPlaces : Prop :=
  (∀ (s : State) (b : Build) (r : PageRec) (e : Entry) (runs : List (Zone × Nat)), s.Reaches b r e →
    e.state = .active → r.skip = 0 → b.closed = false → r.id.slot < 2048 →
    let zones := reducedZones s.office.zoneMemory r e b.image
    zones ≠ [] → ¬ (e.kind = .twoWay ∧ r.tag = none ∧ e.freeTag = none) →
    (s.office.journalMode = .hold → 64 + s.acct.airReserved + 1 ≤ s.acct.freeEntries) →
    ¬ (b.image.layout = .degraded ∧ 30 < r.blocks) → b.image.runs zones r.blocks = some runs →
    let tag := if e.kind = .twoWay ∧ r.tag = none then e.freeTag else r.tag
    ∃ t, exec .walkRecord s = .next t ∧
      t.rec? r.id = some
        { r with
          state := .placed, lastZones := some zones, tag := tag
          placement := some
            { round := b.image.round, window := b.image.window, layout := b.image.layout, firsts := runs } } ∧
      (∀ m : MsgId, m.slot ≠ r.id.slot → t.rec? m = s.rec? m) ∧ r.id ∉ t.queue e.home ∧
      (∀ m, m ≠ r.id → (m ∈ t.queue e.home ↔ m ∈ s.queue e.home)) ∧
      (∀ w : Window, w ≠ e.home → t.queue w = s.queue w) ∧
      t.wsch.build = some
        { image := b.image.placed r.id r.blocks runs, reached := some { pri := r.pri, seq := r.seq }, closed := false
          ended := false } ∧
      (∀ g, tag = some g → ∃ e', t.sub? r.sub = some e' ∧ (∀ x : PageTag, x ∈ e'.tags ↔ x = g ∨ x ∈ e.tags) ∧
        e' = { e with tags := e'.tags }) ∧
      (tag = none → t.sub? r.sub = some e) ∧
      (∀ m, m ≠ r.sub → t.sub? m = s.sub? m) ∧
      t.acct = { s.acct with
        airReserved := if s.office.journalMode = .hold then s.acct.airReserved + 1 else s.acct.airReserved } ∧
      t.wsch.oversize = s.wsch.oversize ∧ t.wsch.deferrals = s.wsch.deferrals ∧ t.wsch.onAir = s.wsch.onAir ∧
      t.plans = s.plans ∧ t.aclk = s.aclk ∧ t.txi = s.txi ∧ t.rxi = s.rxi ∧ t.rmat = s.rmat ∧ t.rate = s.rate ∧
      t.office = s.office ∧ t.hlc.flags = s.hlc.flags) ∧
  (∀ (e : Entry),
    (∀ g, e.freeTag = some g ↔ g ∉ e.tags ∧ ∀ x, x < g → x ∈ e.tags) ∧ (e.freeTag = none ↔ ∀ x : PageTag, x ∈ e.tags)) ∧
  (∀ (im : Image) (m : MsgId) (n : Nat) (runs : List (Zone × Nat)), (runs.map Prod.fst).Nodup →
    let im' := im.placed m n runs
    im' = { im with pages := im'.pages, order := im.order ++ [m] } ∧
    (∀ z p, (z, p) ∈ runs → im'.pages[z].Perm ({ first := p, id := m, blocks := n } :: im.pages[z]) ∧
      (im.pages[z].Pairwise (fun q q' => q.first ≤ q'.first) → im'.pages[z].Pairwise (fun q q' => q.first ≤ q'.first))) ∧
    (∀ z : Zone, (∀ p, (z, p) ∉ runs) → im'.pages[z] = im.pages[z]))

/-- The zone set of attempt k and its reduction (R76). The run of a page in the LOCKED layout is the lowest one inside
2-63 free in every zone of its set (R49, R79); in the DEGRADED layout the run in one zone is the lowest free one
inside the half of the zone's color, 2-31 for A and 34-63 for B (R50, R80). No run is found only when there is none. A
page is placed in every zone of its set or in none: in the DEGRADED layout each zone has its own run, and one zone
without leaves the page without (R80). -/
def Obligations.ZonesAndRuns : Prop :=
  (∀ (zm : Nat) (r : PageRec) (e : Entry) (im : Image) (z : Zone),
      (z ∈ reducedZones zm r e im ↔
        im.view[z].state = .inService ∧
          if r.count + 1 = 1 then
            (∃ h, e.heard = some h ∧ h.age ≤ zm ∧ im.view[h.zone].state = .inService ∧ z = h.zone) ∨
            ((∀ h, e.heard = some h → zm < h.age ∨ im.view[h.zone].state ≠ .inService) ∧ z ∈ e.zones)
          else if r.count + 1 = 2 then z ∈ e.zones else True)) ∧
  (∀ (im : Image) (zones : ZoneSet) (n : Nat), im.layout = .locked → 1 ≤ n →
      (∀ runs, im.runs zones n = some runs → ∃ p, 2 ≤ p ∧ p + n ≤ 64 ∧ runs = zones.map (fun z => (z, p)) ∧
        (∀ z ∈ zones, im.runFree z p n = true) ∧
        ∀ q, 2 ≤ q → q < p → ∃ z ∈ zones, im.runFree z q n = false) ∧
      (im.runs zones n = none → ∀ p, 2 ≤ p → p + n ≤ 64 → ∃ z ∈ zones, im.runFree z p n = false)) ∧
  (∀ (im : Image) (z : Zone) (n : Nat), 1 ≤ n →
      let lo := match im.view[z].color with | .a => 2 | .b => 34
      (∀ zp, im.zoneRun n z = some zp → zp.1 = z ∧ lo ≤ zp.2 ∧ zp.2 + n ≤ lo + 30 ∧ im.runFree z zp.2 n = true ∧
        ∀ q, lo ≤ q → q < zp.2 → im.runFree z q n = false) ∧
      (im.zoneRun n z = none → ∀ p, lo ≤ p → p + n ≤ lo + 30 → im.runFree z p n = false)) ∧
  (∀ (im : Image) (zones : ZoneSet) (n : Nat), im.layout = .degraded →
      (∀ runs, im.runs zones n = some runs ↔
        runs.map Prod.fst = zones ∧ ∀ zp ∈ runs, im.zoneRun n zp.1 = some zp) ∧
      (im.runs zones n = none ↔ ∃ z ∈ zones, im.zoneRun n z = none)) ∧
  (∀ (im : Image) (z : Zone) (p n : Nat),
      im.runFree z p n = true ↔ ∀ q ∈ im.pages[z], q.first + q.blocks ≤ p ∨ p + n ≤ q.first)

/-! ### Window orders and blocks (chapters 3 and 6) -/

namespace Sys2Proof.Machine

/-- An order whose keying begins at `keyOn` bridges to the zone's current order: that is for the window before, and the
gap is below MIN GAP or is 0 or less (R98). -/
def BridgesTo (current : Option OrderInfo) (im : Image) (keyOn : Int) (minGap : Nat) : Prop :=
  ∃ c, current = some c ∧ windowAfter c.round c.window = (im.round, im.window) ∧
    (64 + keyOn - c.keyOff < minGap ∨ 64 + keyOn - c.keyOff ≤ 0)

/-- A zone once an order has been sent on its link (R95, R98, R104). -/
def ZoneCell.ordered (c : ZoneCell) (o : OrderInfo) (flag : Bool) (frame : TxFrame) : ZoneCell :=
  { c with
    next := some o
    orders := if o.kind = .scheduled then min (c.orders + 1) 65535 else c.orders
    tests := if o.kind = .test then min (c.tests + 1) 65535 else c.tests
    bridges := if flag then min (c.bridges + 1) 65535 else c.bridges
    sent := c.sent ++ [frame] }

end Sys2Proof.Machine

/-- BUILD_END (R73, R93): the image is built. Each zone in service with a page is sent a scheduled order with the key
envelope of R96, each zone in TEST a test order keyed over 0 to 64 (R100), each with its bridge flag (R98); the other
zones are sent nothing. -/
def Obligations.OrdersMade : Prop :=
  ∀ (s : State) (b : Build), s.wsch.build = some b → b.ended = false → s.nextOfWalk b = none →
    let im := b.image
    ∃ t, exec .buildEnd s = .next t ∧ t.wsch = { s.wsch with build := some { b with ended := true } } ∧
      (∀ z : Zone, im.view[z].state = .inService → im.pages[z] ≠ [] →
        ∃ (last : Nat) (flag : Bool),
          (∃ q ∈ im.pages[z], last = q.first + q.blocks - 1) ∧ (∀ q ∈ im.pages[z], q.first + q.blocks - 1 ≤ last) ∧
          let keyOn : Int := (if im.layout = .degraded ∧ im.view[z].color = .b then 32 else 0) - im.view[z].lead
          (flag = true ↔ BridgesTo s.txi[z].current im keyOn im.view[z].gap) ∧
          let o : OrderInfo :=
            { round := im.round, window := im.window, kind := .scheduled, keyOn := keyOn
              keyOff := last + 1 + im.view[z].tail }
          t.txi[z] = s.txi[z].ordered o flag (.order z o im.layout flag (s.scheduledSlots im z))) ∧
      (∀ z : Zone, im.view[z].state = .test → ∃ flag : Bool,
          (flag = true ↔ BridgesTo s.txi[z].current im 0 im.view[z].gap) ∧
          let o : OrderInfo := { round := im.round, window := im.window, kind := .test, keyOn := 0, keyOff := 64 }
          let layout : Layout := if s.aclk.detector = .locked then .locked else .degraded
          let header := headerBlock im.round im.window im.view[z].color 0 (decide (s.aclk.detector = .locked)) true
          t.txi[z] = s.txi[z].ordered o flag
            (.order z o layout flag (syncBlock :: header :: List.replicate 62 testBlock))) ∧
      (∀ z : Zone, im.view[z].state = .outOfService ∨ im.view[z].state = .inService ∧ im.pages[z] = [] →
        t.txi[z] = s.txi[z]) ∧
      t.hlc = s.hlc.settle ∧ t.subs = s.subs ∧ t.plans = s.plans ∧ t.store = s.store ∧ t.aclk = s.aclk ∧
      t.rxi = s.rxi ∧ t.rmat = s.rmat ∧ t.rate = s.rate ∧ t.acct = s.acct ∧ t.office = s.office ∧ t.fresh = s.fresh

/-- The slots of a scheduled order (R49, R50, R94): 64 of them, the sync and header blocks at the zone's header pair,
each page's blocks at its run, and idle fill everywhere else. The blocks of a page are its address block and the text
blocks of its kept text, of a record delivered before the order is made too (R47): while a record holds its chunks they
are read there (R94), and one delivered keeps the text it was accepted with, outside the pool (log 12). On its link an
order travels as 396 bytes and a withdraw as 8: the marker 3Ch, the fields and the blocks as 11.4 lays them out, and the
CRC-16 over them. -/
def Obligations.OrderSlots : Prop :=
  Check16 ∧
  (∀ (s : State) (im : Image) (z : Zone),
      let base := if im.layout = .degraded ∧ im.view[z].color = .b then 32 else 0
      let top := if im.layout = .degraded ∧ im.view[z].color = .a then 32 else 64
      (∀ q ∈ im.pages[z], base + 2 ≤ q.first ∧ q.first + q.blocks ≤ top ∧ (s.pageBlocks q.id).length = q.blocks) →
      im.pages[z].Pairwise (fun q q' => q.first + q.blocks ≤ q'.first) →
      let slots := s.scheduledSlots im z
      slots.length = 64 ∧ slots[base]? = some syncBlock ∧
      slots[base + 1]? = some (headerBlock im.round im.window im.view[z].color im.pages[z].length
        (decide (im.layout = .locked)) false) ∧
      (∀ q ∈ im.pages[z], ∀ i, i < q.blocks → slots[q.first + i]? = (s.pageBlocks q.id)[i]?) ∧
      (∀ p, p < 64 → p ≠ base → p ≠ base + 1 → (∀ q ∈ im.pages[z], p < q.first ∨ q.first + q.blocks ≤ p) →
        slots[p]? = some idleBlock)) ∧
  (∀ (s : State) (m : MsgId) (r : PageRec) (e : Entry), s.rec? m = some r → s.sub? r.sub = some e →
      (s.pageBlocks m).head? = some (addressBlock r e) ∧ (s.pageBlocks m).length = r.blocks - 1 + 1 ∧
      (r.state ≠ .delivered → (s.pageBlocks m).tail = textBlocks r.enc r.text (r.blocks - 1)) ∧
      (r.state = .delivered → (s.pageBlocks m).tail = textBlocks r.enc r.kept (r.blocks - 1)) ∧
      (r.Whole → (s.pageBlocks m).tail = textBlocks r.enc r.kept (r.blocks - 1))) ∧
  (∀ (zone : Zone) (o : OrderInfo) (layout : Layout) (bridge : Bool) (slots : List Block), slots.length = 64 →
      let content : List Byte :=
        [(match o.kind with | .scheduled => 0x01#8 | .test => 0x02#8), BitVec.ofNat 8 zone.val,
         BitVec.ofNat 8 (o.round.val / 256), BitVec.ofNat 8 (o.round.val % 256), BitVec.ofNat 8 o.window.val,
         (match layout with | .locked => 0x00#8 | .degraded => 0x01#8), BitVec.ofInt 8 o.keyOn,
         BitVec.ofNat 8 o.keyOff, if bridge then 0x01#8 else 0x00#8] ++
        slots.flatMap (fun b => [5, 4, 3, 2, 1, 0].map (fun i => b.extractLsb' (8 * i) 8))
      let check := crc16 content
      (TxFrame.order zone o layout bridge slots).bytes =
        0x3C#8 :: content ++ [check.extractLsb' 8 8, check.extractLsb' 0 8] ∧
      (TxFrame.order zone o layout bridge slots).bytes.length = 396) ∧
  (∀ (zone : Zone) (round : Round) (window : Window),
      let content : List Byte :=
        [0x03#8, BitVec.ofNat 8 zone.val, BitVec.ofNat 8 (round.val / 256), BitVec.ofNat 8 (round.val % 256),
         BitVec.ofNat 8 window.val]
      let check := crc16 content
      (TxFrame.withdraw zone round window).bytes =
        0x3C#8 :: content ++ [check.extractLsb' 8 8, check.extractLsb' 0 8] ∧
      (TxFrame.withdraw zone round window).bytes.length = 8)

/-- The fields of header and address blocks at the bits of 11.5, the fixed blocks, the check of each kind of block,
header, address, text and test, with those of idle fill and sync (R45, R46, R184), what that check computes, and the
address block of the example in 11.6. A header has as many as 62 pages. The text blocks of a page (R47): as many as its
payload block count, each with its check over its own 36 payload bits; in NUMERIC each holds nine 4-bit codes with 15
after the text, in ALPHA the stream of 7-bit codes runs over the blocks with zeros after the text. -/
def Obligations.BlocksCarryTheirFields : Prop :=
  Check12 ∧
  (∀ (round : Round) (window : Window) (color : Color) (pages : Nat) (lock test : Bool), pages ≤ 62 →
      let h := headerBlock round window color pages lock test
      h.extractLsb' 36 12 = BitVec.ofNat 12 round ∧ h.extractLsb' 31 5 = BitVec.ofNat 5 window ∧
      h.getLsbD 30 = decide (color = .b) ∧ h.extractLsb' 24 6 = BitVec.ofNat 6 pages ∧ h.getLsbD 23 = lock ∧
      h.getLsbD 22 = test ∧ h.extractLsb' 12 10 = 0#10 ∧
      h.extractLsb' 0 12 = crc12 (h.extractLsb' 12 36)) ∧
  (∀ (r : PageRec) (e : Entry),
      let a := addressBlock r e
      a.extractLsb' 26 22 = e.addr ∧ a.getLsbD 25 = decide (e.kind = .twoWay) ∧
      a.extractLsb' 22 3 = (if e.kind = .twoWay then BitVec.ofNat 3 (r.tag.getD 0).val else 0#3) ∧
      a.extractLsb' 20 2 = (match r.enc with | .tone => 0#2 | .numeric => 1#2 | .alpha => 2#2) ∧
      a.extractLsb' 14 6 = BitVec.ofNat 6 (r.blocks - 1) ∧
      a.extractLsb' 12 2 =
        (if r.series = .recovery then 3#2 else if r.count = 0 then 0#2 else if e.kind = .twoWay then 1#2 else 2#2) ∧
      a.extractLsb' 0 12 = crc12 (a.extractLsb' 12 36)) ∧
  testBlock.extractLsb' 12 36 = 0xAAAAAAAAA#36 ∧ testBlock.extractLsb' 0 12 = crc12 0xAAAAAAAAA#36 ∧
  idleBlock = 0x000000000FFF#48 ∧ crc12 0#36 = 0#12 ∧
  syncBlock.extractLsb' 12 36 = 0xE4B71D28C#36 ∧ syncBlock.extractLsb' 0 12 = crc12 0xE4B71D28C#36 ^^^ 0x5A5#12 ∧
  addressPayload 300100#22 true 0 .alpha 12 .retry = 0x125112231#36 ∧
  (∀ (enc : Encoding) (text : Text) (b : Nat), (textBlocks enc text b).length = b) ∧
  (∀ (enc : Encoding) (text : Text) (b : Nat), ∀ blk ∈ textBlocks enc text b,
      blk.extractLsb' 0 12 = crc12 (blk.extractLsb' 12 36)) ∧
  (∀ (text : Text) (b i : Nat) (blk : Block), text.length ≤ 9 * b → i < 9 * b →
      (textBlocks .numeric text b)[i / 9]? = some blk →
      blk.extractLsb' (44 - 4 * (i % 9)) 4 = (text[i]?.map numericCode).getD 15#4) ∧
  (∀ (text : Text) (b k : Nat) (blk : Block), 7 * text.length ≤ 36 * b → k < 36 * b →
      (textBlocks .alpha text b)[k / 36]? = some blk →
      blk.getLsbD (47 - k % 36) = (text[k / 7]?.map (fun c => c.getLsbD (6 - k % 7))).getD false) ∧
  (∀ d : Fin 10, numericCode (BitVec.ofNat 8 (0x30 + d)) = BitVec.ofNat 4 d) ∧ numericCode 0x20#8 = 10#4 ∧
  numericCode 0x2D#8 = 11#4 ∧ numericCode 0x2E#8 = 12#4 ∧ numericCode 0x28#8 = 13#4 ∧ numericCode 0x29#8 = 14#4

/-! ### Rating (chapter 8) -/

/-- The charge computation: its five steps with the bounds each lies in (R134), the waived TONE page, the payload block
count the two callers give it, of a kept length by its encoding, and that it changes nothing of RATE. -/
def Obligations.ChargeComputation : Prop :=
  (∀ (t : Tariff) (waived : Bool) (enc : Encoding) (b z : Nat) (p : Priority) (c : Band),
      t.Ranged → b ≤ 39 → 1 ≤ z → z ≤ 8 →
      let fee := match enc with | .tone => t.toneFee | .numeric => t.numFee | .alpha => t.alphaFee
      let raw := (if waived then 0 else fee) + b * t.blockRate
      let factor := 100 + (z - 1) * t.zoneInc
      let product := raw * factor * t.priF[p] * t.bandF[c]
      let rounded := (product + 500000) / 1000000
      charge t waived enc b z p c = (if rounded ≤ t.cap then rounded else t.cap) ∧
      raw ≤ 2621400 ∧ 100 ≤ factor ∧ factor ≤ 800 ∧ product ≤ 335539200000000 ∧
      (∀ k, product < 1000000 * k + 500000 → 1000000 * k ≤ product + 500000 → rounded = k) ∧
      (waived = true → b = 0 → charge t waived enc b z p c = 0)) ∧
  (∀ n, payloadBlocks .tone n = 0 ∧ payloadBlocks .numeric n = (n + 8) / 9 ∧
    payloadBlocks .alpha n = (7 * n + 35) / 36) ∧
  (∀ (s : State) (enc : Encoding) (b z : Nat) (p : Priority),
      s.estimate enc b z p = charge s.rate.active false enc b z p s.rate.band) ∧
  (∀ (s : State) (r : PageRec) (e : Entry) (z : Nat), r.late = false →
      (s.airingPrice r e .first z).amount =
        charge s.rate.active (s.airingPrice r e .first z).waived r.enc (r.blocks - 1) z r.pri s.rate.band) ∧
  (∀ (s : State) (im : Image) (r : PageRec) (e : Entry), (s.airPost im r e).1.rate = s.rate) ∧
  (∀ s t : State, exec .submit s = .next t → t.rate = s.rate)

/-- The amount of an airing: 0 for a late or a RECOVERY one, the share of the first charge for a RETRY or REPEAT, the
charge with its waiver for a FIRST (R137 to R139); the class by series and number (R85); the refund of a miss (R120,
R141). -/
def Obligations.AmountsOfAirings : Prop :=
  (∀ (s : State) (r : PageRec) (e : Entry) (cls : AttemptClass) (z : Nat),
      let answer := s.airingPrice r e cls z
      (r.late = true → answer = { amount := 0, waived := false }) ∧
      (r.late = false → cls = .recovery → answer = { amount := 0, waived := false }) ∧
      (r.late = false → cls = .retry ∨ cls = .repeat_ → ∀ f, r.firstCharge = some f →
        answer = { amount := (f * r.terms.retryPct + 50) / 100, waived := false } ∧
          (r.terms.retryPct ≤ 100 → answer.amount ≤ f)) ∧
      (r.late = false → cls = .first →
        (answer.waived = true ↔ e.money.periodPages < s.plans[e.plan].included) ∧
        answer.amount = charge s.rate.active answer.waived r.enc (r.blocks - 1) z r.pri s.rate.band)) ∧
  (∀ (kind : PagerKind) (k : Nat),
      attemptClass .recovery kind k = .recovery ∧ attemptClass .first kind 1 = .first ∧
      (k ≠ 1 → attemptClass .first .twoWay k = .retry ∧ attemptClass .first .oneWay k = .repeat_)) ∧
  (∀ r : PageRec,
      (r.series = .first → r.refunded = false → r.refund = (r.posted * r.terms.refundPct + 50) / 100) ∧
      (r.series = .recovery ∨ r.refunded = true → r.refund = 0) ∧
      (r.terms.refundPct ≤ 100 → r.refund ≤ r.posted))

/-- TARIFF LOAD (R129, R130): the new table takes its fields from the line and the rest from the active table, and takes
the slot, or with AT=NEXT in STOPPED is applied at once. BAND SET (R132): the current band changes at once in STOPPED,
otherwise the pending one. -/
def Obligations.TariffAndBandTaken : Prop :=
  (∀ (s : State) (l : CmdLine) (rest : List CmdLine) (a : Activation), s.Heads .tariffLoad l rest →
      checkTariffLoad l.fields = .ok a →
      let old := s.rate.active
      let new : Tariff :=
        { toneFee := (fieldOf l.fields "TONEFEE" (readIn 0 65535)).getD old.toneFee
          numFee := (fieldOf l.fields "NUMFEE" (readIn 0 65535)).getD old.numFee
          alphaFee := (fieldOf l.fields "ALPHAFEE" (readIn 0 65535)).getD old.alphaFee
          blockRate := (fieldOf l.fields "BLOCKRATE" (readIn 0 65535)).getD old.blockRate
          zoneInc := (fieldOf l.fields "ZONEINC" (readIn 0 100)).getD old.zoneInc
          priF := (fieldOf l.fields "PRIF" (readVector 4 50 400)).getD old.priF
          bandF := (fieldOf l.fields "BANDF" (readVector 4 25 400)).getD old.bandF
          cap := (fieldOf l.fields "CAP" (readIn 1 1000000)).getD old.cap }
      fieldOf l.fields "AT" readActivation = some a ∧
      (a = .next → s.aclk.air = .stopped → exec .tariffLoad s =
        .next (({ s.lineOff rest with
            rate := { s.rate with active := new, version := s.rate.version + 1, pending := none } }.raise .tariffActive
          [(str "VERSION", .num (s.rate.version + 1).toNat), (str "ROUND", .num s.aclk.round)]).answer
          [.final l.tag .ok
            [(str "STATE", .word (str "ACTIVE")), (str "VERSION", .num (s.rate.version + 1).toNat)]]).settle) ∧
      (a ≠ .next ∨ s.aclk.air ≠ .stopped → exec .tariffLoad s =
        .next ({ s.lineOff rest with rate := { s.rate with pending := some (new, a) } }.answer
          [.final l.tag .ok
            [(str "STATE", .word (str "PENDING")),
             (str "AT", match a with | .next => .word (str "NEXT") | .atRound r => .num r)]]).settle)) ∧
  (∀ (s : State) (l : CmdLine) (rest : List CmdLine) (band : Band), s.Heads .bandSet l rest →
      checkBandSet l.fields = .ok band →
      fieldOf l.fields "BAND" (readFin 4) = some band ∧
      (s.aclk.air = .stopped → exec .bandSet s =
        .next ({ s.lineOff rest with rate := { s.rate with band := band, nextBand := none } }.answer
          [.final l.tag .ok [(str "BAND", .num band), (str "STATE", .word (str "ACTIVE"))]]).settle) ∧
      (s.aclk.air ≠ .stopped → exec .bandSet s =
        .next ({ s.lineOff rest with rate := { s.rate with nextBand := some band } }.answer
          [.final l.tag .ok [(str "BAND", .num band), (str "STATE", .word (str "PENDING"))]]).settle))

/-- ZONE SET (R91): the settings given take their values, those not given stand; it is refused BAD_FIELD for any fault.
ZONE GET (R104) answers with the two lines of one zone, zeroing its counts with CLEAR=YES, or with the eight first
lines: the settings on the first, and the next and the current order with the four counts on the second. -/
def Obligations.ZoneSettingsTaken : Prop :=
  (∀ (s : State) (l : CmdLine) (rest : List CmdLine) (z : Zone), s.Heads .zoneSet l rest →
      checkZoneSet l.fields = .ok z →
      let old := s.txi[z].settings
      fieldOf l.fields "ZONE" (readFin 8) = some z ∧
      exec .zoneSet s = .next ({ s.lineOff rest with
        txi := s.txi.set z { s.txi[z] with
          settings :=
            { state := (fieldOf l.fields "STATE" (wordValue zoneStateWords)).getD old.state
              color := (fieldOf l.fields "COLOR" (wordValue colorWords)).getD old.color
              lead := (fieldOf l.fields "LEAD" (readIn 0 7)).getD old.lead
              tail := (fieldOf l.fields "TAIL" (readIn 0 7)).getD old.tail
              gap := (fieldOf l.fields "GAP" (readIn 0 31)).getD old.gap } } }.answer
        [.final l.tag .ok [(str "ZONE", .num z)]]).settle) ∧
  (∀ (fs : List RawField) (d : Denial), checkZoneSet fs = .error d →
      (∃ key, d = .badField key) ∨ ∃ key more, d = .missing key more) ∧
  (∀ (s : State) (l : CmdLine) (rest : List CmdLine) (z : Zone), s.Heads .zoneGet l rest →
      fieldOf l.fields "ZONE" (readFin 8) = some z → checkForm (zoneGetForms l.fields) [] l.fields = .ok () →
      let t := (s.lineOff rest).report l.tag [zoneLine s z, zoneCountLine s z] []
      exec .zoneGet s = .next (if hasKey l.fields "CLEAR" = true then
        { t with txi := s.txi.set z { s.txi[z] with orders := 0, tests := 0, bridges := 0, withdraws := 0 } }
        else t).settle) ∧
  (∀ (s : State) (l : CmdLine) (rest : List CmdLine), s.Heads .zoneGet l rest → l.fields = [] →
      exec .zoneGet s = .next ((s.lineOff rest).report l.tag
        ([(0 : Zone), 1, 2, 3, 4, 5, 6, 7].map (zoneLine s)) []).settle) ∧
  (∀ (s : State) (z : Zone),
      let order (o : Option OrderInfo) : Value := match o with | some i => .order i | none => .none_
      let c := s.txi[z]
      zoneLine s z =
        [(str "ZONE", .num z),
         (str "STATE", .word (match c.settings.state with
           | .inService => str "IN_SERVICE" | .outOfService => str "OUT_OF_SERVICE" | .test => str "TEST")),
         (str "COLOR", .word (match c.settings.color with | .a => str "A" | .b => str "B")),
         (str "LEAD", .num c.settings.lead), (str "TAIL", .num c.settings.tail), (str "GAP", .num c.settings.gap)] ∧
      zoneCountLine s z =
        [(str "NEXT", order c.next), (str "CURRENT", order c.current), (str "ORDERS", .num c.orders),
         (str "TESTS", .num c.tests), (str "BRIDGES", .num c.bridges), (str "WITHDRAWS", .num c.withdraws)])

/-! ### Airing (chapter 5, 5.5) -/

/-- Steps 1 to 5 of an airing (R85, R88, R147, R148, R156, R157): the attempt counted, the first charge and the posted
total, the reservation released at a FIRST airing, the balance and the period counters, the AIR record, which is always
written, and the AIR reservation it takes. The conditions raised and the alarms are those of the posting
(PostingsApplied). -/
def Obligations.AiringPosts : Prop :=
  ∀ (s : State) (im : Image) (r : PageRec) (e : Entry), s.sub? r.sub = some e →
    let cls := attemptClass r.series e.kind (r.count + 1)
    let price := s.airingPrice r e cls (r.lastZones.getD []).length
    let applied := min price.amount (e.money.balance - e.money.floor).toNat
    let t := (s.airPost im r e).1
    (s.airPost im r e).2 =
      { r with
        count := r.count + 1, posted := r.posted + applied
        reservation := if cls = .first then none else r.reservation
        firstCharge := if cls = .first then some price.amount else r.firstCharge } ∧
    (∃ e', t.sub? r.sub = some e' ∧ e'.money.balance = e.money.balance - applied ∧
      e'.money.reserved = (if cls = .first then e.money.reserved - r.reservation.getD 0 else e.money.reserved) ∧
      e'.money.periodPages =
        (if cls = .first then min (e.money.periodPages + 1) 65535 else e.money.periodPages) ∧
      e'.money.periodCharges =
        (if price.amount = 0 then e.money.periodCharges else min (e.money.periodCharges + applied) 2147483647) ∧
      e'.money.floor = e.money.floor ∧ e'.money.low = e.money.low ∧ e'.money.usage = e.money.usage ∧
      (price.amount = 0 → e'.money.credit = e.money.credit ∧ e'.money.lowArmed = e.money.lowArmed ∧
        e'.money.usageArmed = e.money.usageArmed) ∧
      { e' with money := e.money } = e) ∧
    (let taken : State := { s with acct := { s.acct with
        airReserved := if s.office.journalMode = .hold then s.acct.airReserved - 1 else s.acct.airReserved } }
     let posted := taken.postCharge r.sub price.amount
      { seq := 0, kind := .air, sub := r.sub, round := im.round, window := im.window, amount := 0, short := 0
        balance := 0, waived := price.waived, late := r.late, clamped := false, msg := some r.id
        air := some
          { cls := cls, zones := (r.lastZones.getD []).length, blocks := r.blocks, version := s.rate.version
            origin := r.origin }
        ref := none, period := none }
     t = { posted with subs := t.subs } ∧ ∃ e0 e', posted.sub? r.sub = some e0 ∧ t.sub? r.sub = some e' ∧
       e'.money.credit = e0.money.credit ∧ e'.money.lowArmed = e0.money.lowArmed ∧
       e'.money.usageArmed = e0.money.usageArmed) ∧
    (∀ m, m ≠ r.sub → t.sub? m = s.sub? m) ∧
    (∃ j, t.acct.ring.getLast? = some j ∧ j =
      { seq := s.acct.nextSeq, kind := .air, sub := r.sub, round := im.round, window := im.window
        amount := price.amount, short := price.amount - applied, balance := e.money.balance - applied
        waived := price.waived, late := r.late, clamped := decide (0 < price.amount - applied), msg := some r.id
        air := some
          { cls := cls, zones := (r.lastZones.getD []).length, blocks := r.blocks, version := s.rate.version
            origin := r.origin }
        ref := none, period := none }) ∧
    t.acct.nextSeq = s.acct.nextSeq + 1 ∧
    t.acct.airReserved = (if s.office.journalMode = .hold then s.acct.airReserved - 1 else s.acct.airReserved) ∧
    t.store = s.store ∧ t.plans = s.plans ∧ t.aclk = s.aclk ∧ t.wsch = s.wsch ∧ t.txi = s.txi ∧ t.rxi = s.rxi ∧
    t.rmat = s.rmat ∧ t.rate = s.rate ∧ t.office = s.office

/-- AIRING_RECORD, where an aired record goes (R84, R86 to R88): a PLACED two-way one to the end of the awaiting list, a
one-way one back to its queue or freed SENT at its last repeat, a DELIVERED one to the awaiting list or freed. Steps 1
to 5 come first, as in AiringPosts; a record that is freed raises what RecordFreed says, and no other condition is
raised. The first clause leaves out an airing whose end STOPPED waits for; the second is that one (R62, R64, log 18). -/
def Obligations.AiringMovesOn : Prop :=
  ∀ (s : State) (im : Image) (r : PageRec) (e : Entry) (rest : List MsgId),
    s.wsch.onAir = some { image := im, toAir := r.id :: rest } → s.rec? r.id = some r → s.sub? r.sub = some e →
    let u : State := { s with wsch := { s.wsch with onAir := some { image := im, toAir := rest } } }
    let p := (u.airPost im r e).1
    let q := { (u.airPost im r e).2 with placement := none }
    ∃ t, exec .airingRecord s = .next t ∧
      (rest ≠ [] ∨ s.aclk.holding = .none_ ∨ s.aclk.holding = .windowStart →
        t.wsch.onAir = some { image := im, toAir := rest } ∧ t.aclk = s.aclk ∧ t.txi = s.txi) ∧
      (rest = [] → s.aclk.holding = .windowEnd ∨ s.aclk.holding = .stop →
        t.wsch.onAir = none ∧ t.aclk.air = .stopped ∧ t.aclk.holding = .none_ ∧
        (s.aclk.holding = .stop → t.aclk.round = s.aclk.round ∧ t.aclk.window = s.aclk.window) ∧
        (s.aclk.holding = .windowEnd → t.aclk.window = s.aclk.window + 1 ∧
          t.aclk.round = if s.aclk.window = 31 then s.aclk.round + 1 else s.aclk.round) ∧
        ∀ z : Zone, t.txi[z] = { s.txi[z] with current := none, next := none }) ∧
      (r.state = .placed → e.kind = .twoWay →
        t.rec? r.id = some { q with
          state := .awaiting, replyWait := some { left := s.office.replyWait, due := false } } ∧
        t.rmat.awaiting = s.rmat.awaiting ++ [r.id] ∧ t.subs = p.subs ∧ t.wsch.queues = s.wsch.queues ∧
        t.hlc = p.hlc.settle) ∧
      (r.state = .placed → e.kind = .oneWay → r.count + 1 < r.limit →
        t.hlc = p.hlc.settle ∧
        t.rec? r.id = some { q with state := .retryWait, skip := 0 } ∧ t.rmat = s.rmat ∧ t.subs = p.subs ∧
        (t.queue e.home).Perm (r.id :: s.queue e.home) ∧
        t.PutIn PageRec.QueueAhead r (s.queue e.home) (t.queue e.home) ∧ (∀ w : Window, w ≠ e.home → t.queue w = s.queue w)) ∧
      (r.state = .placed → e.kind = .oneWay → r.limit ≤ r.count + 1 →
        t.rec? r.id = none ∧ t.hlc.flags[NoticeKind.pageSent.index] = true ∧ t.wsch.queues = s.wsch.queues ∧
        t.rmat = s.rmat ∧ t.hlc = ((p.putRec q).freeRec q .sent).hlc.settle ∧
        t.subs = ((p.putRec q).freeRec q .sent).subs ∧ t.store = ((p.putRec q).freeRec q .sent).store) ∧
      (r.state = .delivered → r.freeAfterAiring = false →
        t.rec? r.id = some q ∧ t.rmat.awaiting = s.rmat.awaiting ++ [r.id] ∧ t.subs = p.subs ∧
        t.wsch.queues = s.wsch.queues ∧ t.hlc = p.hlc.settle) ∧
      (r.state = .delivered → r.freeAfterAiring = true →
        t.rec? r.id = none ∧ t.hlc.flags[NoticeKind.pageDone.index] = true ∧
        t.hlc = ((p.putRec q).freeRec q .deliveredDone).hlc.settle ∧
        t.subs = ((p.putRec q).freeRec q .deliveredDone).subs ∧
        t.store = ((p.putRec q).freeRec q .deliveredDone).store) ∧
      t.acct = p.acct ∧ (∀ m : MsgId, m.slot ≠ r.id.slot → t.rec? m = s.rec? m) ∧
      (∀ m, m ≠ r.sub → t.sub? m = s.sub? m) ∧ t.plans = s.plans ∧ t.rxi = s.rxi ∧ t.rate = s.rate ∧
      t.office = s.office

/-! ### Waits that run out (chapter 7, 7.7 to 7.9) -/

namespace Sys2Proof.Machine

/-- The record `r` is the first of the awaiting list for which `due` holds (R109). -/
def State.FirstDue (s : State) (due : PageRec → Bool) (r : PageRec) : Prop :=
  s.rec? r.id = some r ∧ due r = true ∧ ∃ before after, s.rmat.awaiting = before ++ r.id :: after ∧
    ∀ m ∈ before, ∀ x, s.rec? m = some x → due x = false

/-- The reply wait of an AWAITING record has run out. -/
def PageRec.replyDue (r : PageRec) : Bool :=
  r.state == .awaiting && match r.replyWait with | some c => c.due | none => false

/-- The read wait of a DELIVERED record has run out. -/
def PageRec.readDue (r : PageRec) : Bool :=
  r.state == .delivered && match r.readWait with | some c => c.due | none => false

/-- The hold of a HELD record has run out. -/
def PageRec.holdDue (r : PageRec) : Bool :=
  r.state == .held && match r.holdWait with | some c => c.due | none => false

end Sys2Proof.Machine

/-- REPLY_WAIT_EXPIRY (R117 to R119): a cancelled record is freed CANCELLED; one with attempts left goes back to its
queue with the backoff of its attempt less one as skip count; one at its limit is HELD with its hold and no tag, on its
subscriber's held list by acceptance (R8), and PAGE_MISSED is raised with MSG, SUB, SERIES, COUNT and REFUND, the amount
applied, after whatever its refund raises (MissRefunds). READ_WAIT_END and HOLD_END free their record (R121, R122). That
a wait is marked as run out by the event that lowers it and ends with a row of its own is the model's choice (log 14),
and so is that the row of a hold names its record, the order of several being open (log 15). -/
def Obligations.WaitsEnd : Prop :=
  (∀ (s : State) (r : PageRec) (e : Entry), s.FirstDue PageRec.replyDue r → s.sub? r.sub = some e →
      (r.cancelled = true →
        exec .replyWaitExpiry s = .next (s.freeRec { r with replyWait := none } .cancelled).settle) ∧
      (r.cancelled = false → r.count < r.limit → 1 ≤ r.count → (h : r.count - 1 < 6) →
        ∃ t, exec .replyWaitExpiry s = .next t ∧
          t.rec? r.id = some
            { r with state := .retryWait, replyWait := none, skip := r.terms.backoff[r.count - 1] - 1 } ∧
          t.rmat = { s.rmat with awaiting := s.rmat.awaiting.filter (fun m => m != r.id) } ∧
          (t.queue e.home).Perm (r.id :: s.queue e.home) ∧
          t.PutIn PageRec.QueueAhead r (s.queue e.home) (t.queue e.home) ∧
          (∀ w : Window, w ≠ e.home → t.queue w = s.queue w) ∧
          (∀ m : MsgId, m.slot ≠ r.id.slot → t.rec? m = s.rec? m) ∧ t.hlc = s.hlc.settle ∧ t.subs = s.subs ∧
          t.plans = s.plans ∧ t.aclk = s.aclk ∧ t.txi = s.txi ∧ t.rxi = s.rxi ∧ t.rate = s.rate ∧ t.acct = s.acct ∧
          t.office = s.office ∧ t.wsch.build = s.wsch.build ∧ t.wsch.onAir = s.wsch.onAir) ∧
      (r.cancelled = false → r.limit ≤ r.count →
        ∃ t e', exec .replyWaitExpiry s = .next t ∧
          t.rec? r.id = some
            { r with
              state := .held, replyWait := none, tag := none
              holdWait := some { left := r.terms.hold, due := false }
              refunded := r.refunded || decide (r.series = .first) } ∧
          t.rmat = { s.rmat with awaiting := s.rmat.awaiting.filter (fun m => m != r.id) } ∧
          t.sub? r.sub = some e' ∧ e'.held.Perm (r.id :: e.held) ∧ t.PutIn PageRec.HeldAhead r e.held e'.held ∧
          e'.live = e.live ∧
          e'.tags = (match r.tag with | some g => e.tags.filter (fun x => x != g) | none => e.tags) ∧
          (let refund := if r.series = .first ∧ r.refunded = false then (r.posted * r.terms.refundPct + 50) / 100 else 0
           let missed : List Field :=
             [(str "MSG", .msg r.id), (str "SUB", .num r.sub),
              (str "SERIES", .word (if r.series = .first then str "FIRST" else str "RECOVERY")),
              (str "COUNT", .num r.count),
              (str "REFUND", .num (min refund (16777215 - e.money.balance).toNat))]
           (∃ h : Hlc, t.hlc = (h.raise .pageMissed missed true).settle) ∧
             (refund = 0 → t.hlc = (s.hlc.raise .pageMissed missed true).settle)) ∧
          t.hlc.flags[NoticeKind.pageMissed.index] = true ∧ t.wsch = s.wsch ∧
          (∀ m : MsgId, m.slot ≠ r.id.slot → t.rec? m = s.rec? m) ∧ (∀ m, m ≠ r.sub → t.sub? m = s.sub? m) ∧
          t.plans = s.plans ∧ t.aclk = s.aclk ∧ t.txi = s.txi ∧ t.rxi = s.rxi ∧ t.rate = s.rate ∧
          t.office = s.office)) ∧
  (∀ (s : State) (r : PageRec), s.FirstDue PageRec.readDue r →
      exec .readWaitEnd s = .next (s.freeRec r .deliveredDone).settle) ∧
  (∀ (s : State) (r : PageRec), s.rec? r.id = some r → r.holdDue = true →
      exec (.holdEnd r.id) s = .next (s.freeRec r .expired).settle)

/-- The refund of a miss (R120, R141, R152, R158): a refund above 0 raises the balance by what fits and writes a
REFUND record, or, in HOLD mode with no open entry, counts it lost and raises JOURNAL_LOST; a refund of 0 leaves the
account and the journal as they are. The journal, the credit state, the alarm and the conditions are those of the credit
posted (PostingsApplied, JournalWritten), with PAGE_MISSED behind them (R119). -/
def Obligations.MissRefunds : Prop :=
  ∀ (s : State) (r : PageRec) (e : Entry), s.FirstDue PageRec.replyDue r → s.sub? r.sub = some e →
    r.cancelled = false → r.limit ≤ r.count →
    let refund := if r.series = .first ∧ r.refunded = false then (r.posted * r.terms.refundPct + 50) / 100 else 0
    let applied := min refund (16777215 - e.money.balance).toNat
    ∃ t e', exec .replyWaitExpiry s = .next t ∧ t.sub? r.sub = some e' ∧
      e'.money.balance = e.money.balance + applied ∧ e'.money.periodCharges = e.money.periodCharges ∧
      e'.money.periodPages = e.money.periodPages ∧ e'.money.reserved = e.money.reserved ∧
      e'.money.floor = e.money.floor ∧
      (refund = 0 → e'.money = e.money ∧ t.acct = s.acct) ∧
      (0 < refund → (s.office.journalMode = .overwrite ∨ s.acct.openEntries ≠ 0) →
        ∃ j, t.acct.ring.getLast? = some j ∧ j.seq = s.acct.nextSeq ∧ j.kind = .refund ∧ j.sub = r.sub ∧
          j.msg = some r.id ∧ j.amount = -(refund : Int) ∧ j.short = refund - applied ∧
          j.balance = e.money.balance + applied ∧ j.round = s.aclk.round ∧ j.window = s.aclk.window ∧
          t.acct.nextSeq = s.acct.nextSeq + 1 ∧ t.acct.lost = s.acct.lost) ∧
      (0 < refund → s.office.journalMode = .hold → s.acct.openEntries = 0 →
        t.acct = { s.acct with lost := min (s.acct.lost + 1) 65535 } ∧
        t.hlc.flags[NoticeKind.journalLost.index] = true) ∧
      (0 < refund →
        let posted := s.postCredit r.sub refund
          { seq := 0, kind := .refund, sub := r.sub, round := s.aclk.round, window := s.aclk.window, amount := 0
            short := 0, balance := 0, waived := false, late := false, clamped := false, msg := some r.id, air := none
            ref := none, period := none }
        t.acct = posted.acct ∧
        t.hlc = (posted.hlc.raise .pageMissed
          [(str "MSG", .msg r.id), (str "SUB", .num r.sub),
           (str "SERIES", .word (if r.series = .first then str "FIRST" else str "RECOVERY")),
           (str "COUNT", .num r.count), (str "REFUND", .num applied)] true).settle ∧
        ∃ e0, posted.sub? r.sub = some e0 ∧ e'.money = e0.money)

/-! ### Reply reports (chapter 7, 7.1 to 7.6, and 11.3) -/

namespace Sys2Proof.Machine

/-- The 14 bytes of a report's frame (11.3). -/
def Report.frame (p : Report) : List Byte :=
  let kind : Byte := match p.kind with | .heard => 1 | .read => 2 | .fetch => 3 | .register => 4
  let content : List Byte :=
    [BitVec.ofNat 8 (16 * p.site.val + p.zone.val), kind,
     BitVec.ofNat 8 (p.addr.toNat / 65536), BitVec.ofNat 8 (p.addr.toNat / 256), BitVec.ofNat 8 p.addr.toNat,
     BitVec.ofNat 8 p.tag.val, BitVec.ofNat 8 p.burst, BitVec.ofNat 8 p.quality.val,
     BitVec.ofNat 8 (p.round.val / 256), BitVec.ofNat 8 p.round.val, BitVec.ofNat 8 p.window.val]
  0xC3#8 :: content ++ [BitVec.ofNat 8 ((crc16 content).toNat / 256), BitVec.ofNat 8 (crc16 content).toNat]

/-- The state with a receiver link at a place of its byte stream. -/
def State.atLink (s : State) (l : LinkNo) (x : RxLink) : State :=
  { s with rxi := { s.rxi with links := s.rxi.links.set l x } }

/-- The state with one more discarded frame or report counted (R125). -/
def State.noisier (s : State) : State := { s with rxi := { s.rxi with noise := min (s.rxi.noise + 1) 65535 } }

end Sys2Proof.Machine

/-- The frame of every report is read back field by field and goes to the filter, whether it arrives whole on a hunting
link or has begun to arrive (R105, R183, 11.3); the link hunts again after it. That the row may bring the rest of a
frame already begun is the model's reading of it (log 28). -/
def Obligations.ReplyFrameReadsBack : Prop :=
  Check16 ∧
  ∀ (s : State) (l : LinkNo) (p : Report), p.burst ≤ 255 →
    (s.rxi.links[l] = .hunting → exec (.replyReportFrame l p.frame) s = .next (s.filterReport p).settle) ∧
    (∀ k, 1 ≤ k → k ≤ 13 → s.rxi.links[l] = .taking ((p.frame.take k).drop 1) →
      exec (.replyReportFrame l (p.frame.drop k)) s = .next ((s.atLink l .hunting).filterReport p).settle)

/-- START_MARKER: a byte taken while hunting begins a frame if it is C3h and is discarded uncounted if not. A frame
whose check disagrees counts NOISE and hunting resumes at the byte after its marker; one whose check agrees but whose
kind or reserved bits are at fault counts NOISE and hunting resumes after it (R183). The reply queue (R107): a report
joins its end below 64; at 64 REPLY POLICY decides which one is lost, and either way the overflow counter rises,
holding at 255, and REPLY_OVERFLOW is raised with its new value. -/
def Obligations.FramesAndQueue : Prop :=
  Check16 ∧
  (∀ (s : State) (l : LinkNo) (b : Byte), s.rxi.links[l] = .hunting →
      (b = 0xC3#8 → exec (.startMarker l b) s = .next (s.atLink l (.taking [])).settle) ∧
      (b ≠ 0xC3#8 → exec (.startMarker l b) s = .next s.settle)) ∧
  (∀ (s : State) (l : LinkNo) (content : List Byte) (hi lo : Byte), s.rxi.links[l] = .hunting →
      content.length = 11 →
      let frame := 0xC3#8 :: content ++ [hi, lo]
      (hi ++ lo ≠ crc16 content → (∀ b ∈ content ++ [hi, lo], b ≠ 0xC3#8) →
        exec (.replyReportFrame l frame) s = .next s.noisier.settle) ∧
      (∀ before after, hi ++ lo ≠ crc16 content → content ++ [hi, lo] = before ++ 0xC3#8 :: after →
        (∀ b ∈ before, b ≠ 0xC3#8) →
        exec (.replyReportFrame l frame) s = .next (s.noisier.atLink l (.taking after)).settle) ∧
      (∀ b1 b2 b3 b4 b5 b6 b7 b8 b9 b10 b11 : Byte, content = [b1, b2, b3, b4, b5, b6, b7, b8, b9, b10, b11] →
        hi ++ lo = crc16 content →
        (b2 = 0#8 ∨ 4#8 < b2 ∨ b1 &&& 0x08#8 ≠ 0#8 ∨ b3 &&& 0xC0#8 ≠ 0#8 ∨ b6 &&& 0xF8#8 ≠ 0#8 ∨
          b8 &&& 0xF0#8 ≠ 0#8 ∨ b9 &&& 0xF0#8 ≠ 0#8 ∨ b11 &&& 0xE0#8 ≠ 0#8) →
        exec (.replyReportFrame l frame) s = .next s.noisier.settle)) ∧
  (∀ (s : State) (p : Report),
    (s.rxi.replies.length < 64 →
      s.joinReplies p = { s with rxi := { s.rxi with replies := s.rxi.replies ++ [p] } }) ∧
    (64 ≤ s.rxi.replies.length → s.office.replyPolicy = .discardNew →
      s.joinReplies p = { s with rxi := { s.rxi with overflow := min (s.rxi.overflow + 1) 255 } }.raise .replyOverflow
        [(str "POLICY", .word (str "DISCARD_NEW")), (str "COUNT", .num (min (s.rxi.overflow + 1) 255))]) ∧
    (∀ head tail, s.rxi.replies = head :: tail → 64 ≤ s.rxi.replies.length → s.office.replyPolicy = .overwriteOldest →
      s.joinReplies p =
        { s with rxi := { s.rxi with replies := tail ++ [p], overflow := min (s.rxi.overflow + 1) 255 } }.raise
          .replyOverflow
          [(str "POLICY", .word (str "OVERWRITE_OLDEST")), (str "COUNT", .num (min (s.rxi.overflow + 1) 255))]))

/-- The filter (R106): what it discards and counts, what it lets on, that it reads the settings as they stand and
nothing of the air state, its settings' ranges and cold-start values, and that OFFICE SET leaves the reply queue and
RESTART the settings as they are. -/
def Obligations.ReportsFiltered : Prop :=
  (∀ (s : State) (p : Report),
      (p.burst < s.office.minBurst ∨ p.quality.val < s.office.minQuality → s.filterReport p = s.noisier) ∧
      (s.office.minBurst ≤ p.burst → s.office.minQuality ≤ p.quality.val → s.filterReport p = s.joinReplies p) ∧
      (s.office.minBurst = 0 → s.office.minQuality = 0 → s.filterReport p = s.joinReplies p)) ∧
  State.reset.office.minBurst = 8 ∧ State.reset.office.minQuality = 3 ∧
  (∀ (s : State) (l : CmdLine) (rest : List CmdLine) (n q : Nat), s.Heads .officeSet l rest →
      l.fields = [{ key := str "MINBURST", value := some (showNat n) },
        { key := str "MINQUALITY", value := some (showNat q) }] →
      n < 100000000000000000000 → q < 100000000000000000000 →
      (n ≤ 255 ∧ q ≤ 15 → exec .officeSet s =
        .next ({ s.lineOff rest with office := { s.office with minBurst := n, minQuality := q } }.answer
          [.final l.tag .ok []]).settle) ∧
      (255 < n → exec .officeSet s = .next ((s.lineOff rest).answer
        [.final l.tag (.refused .badField) [(str "FIELD", .word (str "MINBURST"))]]).settle) ∧
      (n ≤ 255 → 15 < q → exec .officeSet s = .next ((s.lineOff rest).answer
        [.final l.tag (.refused .badField) [(str "FIELD", .word (str "MINQUALITY"))]]).settle)) ∧
  (∀ s t : State, exec .officeSet s = .next t → t.rxi = s.rxi) ∧
  (∀ s t : State, exec .restart s = .next t → t.office = s.office)

namespace Sys2Proof.Machine

/-- The report `p`, at the head of the reply queue, is of the two-way subscriber `n`. -/
def State.Reported (s : State) (p : Report) (rest : List Report) (n : Nat) (e : Entry) : Prop :=
  s.rxi.replies = p :: rest ∧ s.holderOf p.addr = some n ∧ s.sub? n = some e ∧ e.kind = .twoWay

/-- The state once that report is taken and the last-heard zone set (R6, R108). -/
def State.heardFrom (s : State) (p : Report) (rest : List Report) (n : Nat) (e : Entry) : State :=
  { s with
    rxi := { s.rxi with replies := rest }
    subs := s.subs.set n { e with heard := some { zone := p.zone, age := 0 } } }

/-- A record as its delivery leaves it (R111); the placement is of PLACED records only (2.4, log 19). -/
def PageRec.asDelivered (r : PageRec) : PageRec :=
  { r with state := .delivered, replyWait := none, chunks := none, placement := none }

/-- The notice PAGE_DELIVERED (R111): MSG and SUB, SITE, ZONE, ROUND and WINDOW from the report, and LATE. -/
def PageRec.deliveredNotice (r : PageRec) (p : Report) (late : Bool) : List Field :=
  [(str "MSG", .msg r.id), (str "SUB", .num r.sub), (str "SITE", .num p.site), (str "ZONE", .num p.zone),
   (str "ROUND", .num p.round), (str "WINDOW", .num p.window), (str "LATE", .yesNo late)]

/-- PAGE_DELIVERED raised, and a record of RETRY_WAIT out of its window queue (R110, R111). -/
def State.toldDelivered (s : State) (r : PageRec) (e : Entry) (p : Report) : State :=
  let told : State := { s with hlc := s.hlc.raise .pageDelivered (r.deliveredNotice p false) true }
  if r.state = .retryWait then
    { told with wsch := { told.wsch with
        queues := told.wsch.queues.set e.home ((s.queue e.home).filter (fun m => m != r.id)) } }
  else told

end Sys2Proof.Machine

/-- REPORT_TAKE of a report that matches nothing (R108, R110, R113): an address no entry holds counts UNKNOWN, one of a
ONE_WAY subscriber UNEXPECTED; a HEARD or READ whose tag no live record of the subscriber holds counts STALE, and a
HEARD of a DELIVERED record DUPLICATE, each after the last-heard zone is set. -/
def Obligations.ReportsCounted : Prop :=
  (∀ (s : State) (a : BitVec 22),
    (∀ n, s.holderOf a = some n → ∃ e, (n, e) ∈ s.subs.cells ∧ e.addr = a) ∧
    (s.holderOf a = none → ∀ c ∈ s.subs.cells, c.2.addr ≠ a)) ∧
  (∀ (s : State) (n : Nat) (g : PageTag),
    (∀ r, s.tagHolder n g = some r → (∃ slot, (slot, r) ∈ s.store.records.cells) ∧ r.sub = n ∧ r.tag = some g) ∧
    (s.tagHolder n g = none → ∀ c ∈ s.store.records.cells, ¬ (c.2.sub = n ∧ c.2.tag = some g))) ∧
  (∀ (s : State) (p : Report) (rest : List Report), s.rxi.replies = p :: rest →
      let u : State := { s with rxi := { s.rxi with replies := rest } }
      ((∀ c ∈ s.subs.cells, c.2.addr ≠ p.addr) → exec .reportTake s =
        .next { u with rmat := { s.rmat with unknown := min (s.rmat.unknown + 1) 65535 } }.settle) ∧
      (∀ n e, s.holderOf p.addr = some n → s.sub? n = some e → e.kind = .oneWay → exec .reportTake s =
        .next { u with rmat := { s.rmat with unexpected := min (s.rmat.unexpected + 1) 65535 } }.settle)) ∧
  (∀ (s : State) (p : Report) (rest : List Report) (n : Nat) (e : Entry), s.Reported p rest n e →
      let u := s.heardFrom p rest n e
      (p.kind = .heard ∨ p.kind = .read → s.tagHolder n p.tag = none → exec .reportTake s =
        .next { u with rmat := { s.rmat with stale := min (s.rmat.stale + 1) 65535 } }.settle) ∧
      (∀ r, p.kind = .heard → s.tagHolder n p.tag = some r → r.state = .delivered → exec .reportTake s =
        .next { u with rmat := { s.rmat with duplicate := min (s.rmat.duplicate + 1) 65535 } }.settle) ∧
      (∀ r, p.kind = .read → s.tagHolder n p.tag = some r → r.state = .delivered → r.id ∉ s.rmat.awaiting →
        exec .reportTake s =
          .next { u with rmat := { s.rmat with stale := min (s.rmat.stale + 1) 65535 } }.settle))

/-- A HEARD report (R110 to R112): a cancelled AWAITING record is freed DELIVERED-DONE; an AWAITING or RETRY_WAIT one
is DELIVERED with its text returned and its read wait set, the latter out of its queue and at the end of the awaiting
list, or is freed under READ WAIT 0; a PLACED one is DELIVERED with the late flag and stays in its image. PAGE_DELIVERED
is raised with MSG, SUB, SITE, ZONE, ROUND, WINDOW and LATE, ahead of what a freeing raises (RecordFreed). A READ
report does the same to a cancelled and to a PLACED one, and counts the PLACED one STALE besides (R113). That a record
delivered in its image has no placement field is the model's reading of 2.4 (R28, log 19). -/
def Obligations.HeardDelivers : Prop :=
  ∀ (s : State) (p : Report) (rest : List Report) (n : Nat) (e : Entry) (r : PageRec), s.Reported p rest n e →
    s.tagHolder n p.tag = some r → s.rec? r.id = some r →
    let u := s.heardFrom p rest n e
    (p.kind = .heard ∨ p.kind = .read → r.state = .awaiting → r.cancelled = true →
      exec .reportTake s = .next (u.freeRec r .deliveredDone).settle) ∧
    (p.kind = .heard → r.state = .awaiting ∧ r.cancelled = false ∨ r.state = .retryWait → r.terms.readWait ≠ 0 →
      ∃ t, exec .reportTake s = .next t ∧
        t.rec? r.id = some
          { r.asDelivered with readWait := some { left := r.terms.readWait, due := false } } ∧
        t.rmat.awaiting = (if r.state = .retryWait then s.rmat.awaiting ++ [r.id] else s.rmat.awaiting) ∧
        (r.state = .retryWait → r.id ∉ t.queue e.home) ∧
        t.hlc = (s.hlc.raise .pageDelivered (r.deliveredNotice p false) true).settle ∧
        t.wsch = (u.toldDelivered r e p).wsch ∧ t.subs = u.subs ∧ t.acct = s.acct ∧ (∀ m : MsgId, m.slot ≠ r.id.slot → t.rec? m = s.rec? m)) ∧
    (p.kind = .heard → r.state = .awaiting ∧ r.cancelled = false ∨ r.state = .retryWait → r.terms.readWait = 0 →
      ∃ t, exec .reportTake s = .next t ∧
        t = (((u.toldDelivered r e p).putRec r.asDelivered).freeRec r.asDelivered .deliveredDone).settle ∧
        t.rec? r.id = none ∧ r.id ∉ t.rmat.awaiting ∧
        (r.state = .retryWait → r.id ∉ t.queue e.home) ∧ t.hlc.flags[NoticeKind.pageDelivered.index] = true ∧
        t.hlc.flags[NoticeKind.pageDone.index] = true ∧ t.acct = s.acct ∧
        (∀ m : MsgId, m.slot ≠ r.id.slot → t.rec? m = s.rec? m)) ∧
    (p.kind = .heard ∨ p.kind = .read → r.state = .placed →
      ∃ t, exec .reportTake s = .next t ∧
        t.rec? r.id = some
          (if r.terms.readWait = 0 then { r.asDelivered with late := true, freeAfterAiring := true }
           else
             { r.asDelivered with late := true, readWait := some { left := r.terms.readWait, due := false } }) ∧
        t.rmat.awaiting = s.rmat.awaiting ∧
        t.hlc = (s.hlc.raise .pageDelivered (r.deliveredNotice p true) true).settle ∧
        t.rmat.stale = (if p.kind = .read then min (s.rmat.stale + 1) 65535 else s.rmat.stale) ∧
        t.subs = u.subs ∧ t.wsch = s.wsch ∧ t.acct = s.acct ∧
        (∀ m : MsgId, m.slot ≠ r.id.slot → t.rec? m = s.rec? m))

/-- A READ report reads a DELIVERED record on the awaiting list, an AWAITING one not cancelled and a RETRY_WAIT one
(R113): the receipt fee of the plan as it stands is charged down to the floor, a fee above 0 with its RECEIPT record or,
in HOLD mode with no open entry, a lost one (R142, R148, R158), PAGE_READ is raised with MSG, SUB, OUTCOME and FEE, the
amount applied (log 20), and the record is freed. One not yet DELIVERED is delivered first, with PAGE_DELIVERED (R111).
The conditions come in the order of these steps (log 21). -/
def Obligations.ReadTakesReceipt : Prop :=
  ∀ (s : State) (p : Report) (rest : List Report) (n : Nat) (e : Entry) (r : PageRec), s.Reported p rest n e →
    s.tagHolder n p.tag = some r → s.rec? r.id = some r → p.kind = .read →
    r.state = .awaiting ∧ r.cancelled = false ∨ r.state = .retryWait ∨
      r.state = .delivered ∧ r.id ∈ s.rmat.awaiting →
    let fee := s.plans[e.plan].receiptFee
    let applied := min fee (e.money.balance - e.money.floor).toNat
    let u := s.heardFrom p rest n e
    let d := if r.state = .delivered then r else r.asDelivered
    let out := u.toldDelivered r e p
    let v :=
      if r.state = .delivered then u
      else if r.state = .retryWait then
        { out with rmat := { out.rmat with awaiting := out.rmat.awaiting ++ [r.id] } }.putRec d
      else out.putRec d
    let posted := v.postCharge n fee
      { seq := 0, kind := .receipt, sub := n, round := s.aclk.round, window := s.aclk.window, amount := 0, short := 0
        balance := 0, waived := false, late := false, clamped := false, msg := some r.id, air := none, ref := none
        period := none }
    let q := { d with posted := d.posted + applied }
    ∃ t e', exec .reportTake s = .next t ∧
      t = (if fee = 0 then v.freeRec d (.read 0) else (posted.putRec q).freeRec q (.read applied)).settle ∧
      t.rec? r.id = none ∧ r.id ∉ t.rmat.awaiting ∧
      (r.state = .retryWait → r.id ∉ t.queue e.home) ∧
      (r.state ≠ .delivered → t.hlc.flags[NoticeKind.pageDelivered.index] = true) ∧
      t.hlc.flags[NoticeKind.pageRead.index] = true ∧ t.sub? n = some e' ∧
      e'.heard = some { zone := p.zone, age := 0 } ∧ e'.live = e.live - 1 ∧
      e'.tags = e.tags.filter (fun x => x != p.tag) ∧ e'.money.balance = e.money.balance - applied ∧
      e'.money.periodPages = e.money.periodPages ∧
      (fee = 0 → t.acct = s.acct) ∧
      (0 < fee → s.office.journalMode = .overwrite ∨ s.acct.openEntries ≠ 0 →
        ∃ j, t.acct.ring.getLast? = some j ∧ j.seq = s.acct.nextSeq ∧ j.kind = .receipt ∧ j.sub = n ∧
          j.msg = some r.id ∧ j.amount = fee ∧ j.short = fee - applied ∧ j.balance = e.money.balance - applied) ∧
      (0 < fee → s.office.journalMode = .hold → s.acct.openEntries = 0 →
        t.acct = { s.acct with lost := min (s.acct.lost + 1) 65535 } ∧
        t.hlc.flags[NoticeKind.journalLost.index] = true) ∧
      (∀ m : MsgId, m.slot ≠ r.id.slot → t.rec? m = s.rec? m) ∧ (∀ m, m ≠ n → t.sub? m = s.sub? m)

/-- A FETCH of a TWO_WAY subscriber starts a recovery series for every record on its held list, in its order (R114):
each becomes QUEUED as a RECOVERY series at attempt 0 with skip count 0 and no reservation and joins its window queue;
where entries and records agree (an invariant, CapacitiesKept) each has no tag and the held list is left empty; the
first attempt goes to the zone just heard if it is in service, an empty held list leaves nothing to do, and no notice is
raised. A REGISTER does what a FETCH does when AUTO RECOVER of the subscriber's plan is YES as the plan stands, and
otherwise only sets the last-heard zone, the held list staying (R115). -/
def Obligations.FetchAndRegisterRecover : Prop :=
  ∀ (s : State) (p : Report) (rest : List Report) (n : Nat) (e : Entry), s.Reported p rest n e →
    let u := s.heardFrom p rest n e
    (p.kind = .fetch → exec .reportTake s = .next (e.held.foldl State.recoverRec u).settle) ∧
    (p.kind = .fetch → e.held = [] → exec .reportTake s = .next u.settle) ∧
    (e.held.foldl State.recoverRec u).hlc = s.hlc ∧
    (∀ m ∈ e.held, ∀ r, s.rec? m = some r → (e.held.foldl State.recoverRec u).rec? m = some
      { r with
        state := .queued, series := .recovery, count := 0, skip := 0, late := false, holdWait := none
        reservation := none }) ∧
    (∀ m ∈ e.held, ∀ r, s.rec? m = some r → r.sub = n → m ∈ (e.held.foldl State.recoverRec u).queue e.home) ∧
    (s.Linked →
      (∀ m ∈ e.held, ∃ r r', s.rec? m = some r ∧ r.sub = n ∧
        (e.held.foldl State.recoverRec u).rec? m = some r' ∧ r'.tag = none) ∧
      ∃ e', (e.held.foldl State.recoverRec u).sub? n = some e' ∧ e'.held = []) ∧
    (∀ (r : PageRec) (im : Image), r.count = 0 → im.view[p.zone].state = .inService → ∀ x, u.sub? n = some x →
      reducedZones s.office.zoneMemory r x im = [p.zone]) ∧
    (p.kind = .register → s.plans[e.plan].autoRecover = true →
      exec .reportTake s =
        exec .reportTake { s with rxi := { s.rxi with replies := { p with kind := .fetch } :: rest } } ∧
      exec .reportTake s = .next (e.held.foldl State.recoverRec u).settle) ∧
    (p.kind = .register → s.plans[e.plan].autoRecover = false →
      exec .reportTake s = .next u.settle ∧ ∃ e', u.sub? n = some e' ∧ e'.held = e.held)

/-! ### Accounts and the journal (chapter 9) -/

/-- A posting above 0. A charge is applied down to the floor, period charges rise by what is applied, and the bar, the
low-balance and the usage test follow (R148 to R151), BARRED with SUB, BALANCE and FLOOR, LOW_BALANCE with SUB, BALANCE
and LOW, and USAGE_HIGH with SUB, PCHARGES and USAGE, in that order (log 21). A credit is applied up to the top, with
the unbar test, UNBARRED with SUB and BALANCE, and the re-arming (R149, R150, R152). Then the record is written or lost,
as JournalWritten says; a charge of 0 is journaled and nothing more. -/
def Obligations.PostingsApplied : Prop :=
  (∀ (s : State) (n a : Nat) (j : JournalRec) (e : Entry), s.sub? n = some e → 0 < a →
      let m := e.money
      let applied := min a (m.balance - m.floor).toNat
      let charges := min (m.periodCharges + applied) 2147483647
      let bars := decide (m.credit = .clear ∧ m.balance - applied = m.floor)
      let low := decide (0 < applied ∧ m.lowArmed = true ∧ m.balance - applied < m.low)
      let high := decide (charges ≠ m.periodCharges ∧ m.usageArmed = true ∧ m.usage < charges)
      ∃ u : State, s.postCharge n a j = u.journal
          { j with
            amount := a, short := a - applied, balance := m.balance - applied, clamped := decide (applied < a) } ∧
        u.sub? n = some { e with
          money := { m with
            balance := m.balance - applied, periodCharges := charges
            credit := if bars then .barred else m.credit, lowArmed := m.lowArmed && !low
            usageArmed := m.usageArmed && !high } } ∧
        (∀ k, k ≠ n → u.sub? k = s.sub? k) ∧ { u with subs := s.subs, hlc := s.hlc } = s ∧
        (let balance : Field := (str "BALANCE", .int (m.balance - applied))
         let h1 := if bars then s.hlc.raise .barred
           [(str "SUB", .num n), balance, (str "FLOOR", .int m.floor)] true else s.hlc
         let h2 := if low then h1.raise .lowBalance
           [(str "SUB", .num n), balance, (str "LOW", .int m.low)] true else h1
         u.hlc = if high then h2.raise .usageHigh
           [(str "SUB", .num n), (str "PCHARGES", .num charges), (str "USAGE", .num m.usage)] true else h2)) ∧
  (∀ (s : State) (n : Nat) (j : JournalRec) (e : Entry), s.sub? n = some e →
      s.postCharge n 0 j = s.journal { j with amount := 0, short := 0, balance := e.money.balance }) ∧
  (∀ (s : State) (n a : Nat) (j : JournalRec) (e : Entry), s.sub? n = some e → 0 < a →
      let m := e.money
      let applied := min a (16777215 - m.balance).toNat
      let unbars := decide (m.credit = .barred ∧ (s.office.unbarMargin : Int) < m.balance + applied - m.floor)
      ∃ u : State, s.postCredit n a j = u.journal
          { j with
            amount := -(a : Int), short := a - applied, balance := m.balance + applied
            clamped := decide (applied < a) } ∧
        u.sub? n = some { e with
          money := { m with
            balance := m.balance + applied, credit := if unbars then .clear else m.credit
            lowArmed := m.lowArmed || decide (0 < applied ∧ m.low ≤ m.balance + applied) } } ∧
        (∀ k, k ≠ n → u.sub? k = s.sub? k) ∧ { u with subs := s.subs, hlc := s.hlc } = s ∧
        u.hlc = (if unbars then s.hlc.raise .unbarred
          [(str "SUB", .num n), (str "BALANCE", .int (m.balance + applied))] true else s.hlc))

/-- The writing of a record (R155, R157 to R159, R161): it takes the next sequence number at the tail of the ring, which
keeps the newest 1024; an unread record overwritten moves the cursor on and counts. JOURNAL_HIGH is then judged, and
carries UNREAD, FREE and MODE. In HOLD mode a REFUND or RECEIPT that finds no open entry is not written, counts lost and
raises JOURNAL_LOST; records of the other kinds never come here without one (R158). That AMOUNT of that notice is
charge-signed is the model's reading (log 26). -/
def Obligations.JournalWritten : Prop :=
  ∀ (s : State) (j : JournalRec),
    s.acct.unread = (s.acct.nextSeq - s.acct.cursor).toNat ∧
    s.acct.openEntries = 1024 - s.acct.unread - s.acct.airReserved ∧
    (j.kind ≠ .air → s.office.journalMode = .hold → s.acct.openEntries = 0 →
      s.journal j = { s with acct := { s.acct with lost := min (s.acct.lost + 1) 65535 } }.raise .journalLost
        [(str "KIND", .word j.kind.name), (str "SUB", .num j.sub), (str "AMOUNT", .int j.amount)]) ∧
    (j.kind = .air ∨ s.office.journalMode = .overwrite ∨ s.acct.openEntries ≠ 0 →
      let overwrites := decide (1024 ≤ s.acct.ring.length ∧ 1024 ≤ s.acct.unread)
      let a : Acct :=
        { s.acct with
          ring := (if s.acct.ring.length < 1024 then s.acct.ring else s.acct.ring.tail) ++
            [{ j with seq := s.acct.nextSeq }]
          nextSeq := s.acct.nextSeq + 1
          cursor := if overwrites then s.acct.cursor + 1 else s.acct.cursor
          overflow := if overwrites then min (s.acct.overflow + 1) 255 else s.acct.overflow }
      let t := s.journal j
      let raised := s.hlc.raise .journalHigh
        [(str "UNREAD", .num a.unread), (str "FREE", .num (1024 - a.unread)),
         (str "MODE", .word (match s.office.journalMode with | .hold => str "HOLD" | .overwrite => str "OVERWRITE"))]
        true
      a.unread = (a.nextSeq - a.cursor).toNat ∧
      t = { s with hlc := t.hlc, acct := { a with highLatch := t.acct.highLatch } } ∧
      (a.unread < s.office.journalHigh → t.acct.highLatch = false ∧ t.hlc = s.hlc) ∧
      (s.office.journalHigh ≤ a.unread → s.office.highType = .once → t.acct.highLatch = true ∧
        (s.acct.highLatch = true → t.hlc = s.hlc) ∧
        (s.acct.highLatch = false → t.hlc = raised)) ∧
      (s.office.journalHigh ≤ a.unread → s.office.highType = .each →
        t.acct.highLatch = s.acct.highLatch ∧ t.hlc = raised))

/-- CREDIT and ADJUST (R153, R154): their checks in order, and the posting with its record and answer. A positive
ADJUST is a credit and a negative one a charge of its magnitude; APPLIED has the sign of the change to the balance. -/
def Obligations.CreditAndAdjustPosted : Prop :=
  (∀ (read : Text → Option Int) (s : State) (fs : List RawField) (n : Nat) (amount : Int),
      checkForm [keyForm "SUB" readNat, keyForm "AMOUNT" read, keyForm "REF" (readIn 0 65535)] ["SUB", "AMOUNT"] fs =
        .ok () →
      fieldOf fs "SUB" readNat = some n → fieldOf fs "AMOUNT" read = some amount →
      checkMoney read s fs =
        if 4096 ≤ n then .error (.refusal .badSubscriber [])
        else if s.sub? n = none then .error (.refusal .noSubscriber [])
        else if s.office.journalMode = .hold ∧ s.acct.openEntries = 0 then .error (.refusal .journalFull [])
        else .ok { sub := n, amount := amount, ref := (fieldOf fs "REF" (readIn 0 65535)).getD 0 }) ∧
  (∀ (s : State) (l : CmdLine) (rest : List CmdLine) (a : MoneyArgs) (e : Entry), s.sub? a.sub = some e →
      let made (k : JournalKind) : JournalRec :=
        { seq := 0, kind := k, sub := a.sub, round := s.aclk.round, window := s.aclk.window, amount := 0, short := 0
          balance := 0, waived := false, late := false, clamped := false, msg := none, air := none
          ref := some a.ref, period := none }
      let up := min a.amount.toNat (16777215 - e.money.balance).toNat
      let down := min a.amount.natAbs (e.money.balance - e.money.floor).toNat
      let answered (t : State) (applied balance : Int) : State := t.answer
        [.final l.tag .ok
          [(str "SUB", .num a.sub), (str "APPLIED", .int applied), (str "BALANCE", .int balance),
           (str "SEQ", .num s.acct.nextSeq.toNat)]]
      (s.Heads .credit l rest → checkMoney readCredit (s.lineOff rest) l.fields = .ok a →
        0 < a.amount ∧ a.amount ≤ 16777215 ∧
        exec .credit s = .next (answered ((s.lineOff rest).postCredit a.sub a.amount.toNat (made .credit)) up
          (e.money.balance + up)).settle) ∧
      (s.Heads .adjust l rest → checkMoney readAdjust (s.lineOff rest) l.fields = .ok a →
        a.amount ≠ 0 ∧ -16777215 ≤ a.amount ∧ a.amount ≤ 16777215 ∧
        (0 < a.amount → exec .adjust s =
          .next (answered ((s.lineOff rest).postCredit a.sub a.amount.toNat (made .adjust)) up
            (e.money.balance + up)).settle) ∧
        (a.amount < 0 → exec .adjust s =
          .next (answered ((s.lineOff rest).postCharge a.sub a.amount.natAbs (made .adjust)) (-(down : Int))
            (e.money.balance - down)).settle)))

/-- BILL READ sends the unread records from the cursor on, each with the fields of 11.2 in their order and those its
kind does not carry left out, moves the cursor past them, zeroes the overflow counter, and clears the latch and the
condition as R162 gives. BILL REWIND makes its checks in order (R163), moves the cursor back, or leaves it where SEQ
names an unread record, and judges JOURNAL_HIGH by its type and its latch (R161); that one that leaves the cursor is
judged too, being taken (R161), is the model's reading (log 23). -/
def Obligations.JournalReadAndRewound : Prop :=
  (∀ (s : State) (l : CmdLine) (rest : List CmdLine), s.Heads .billRead l rest →
      checkForm [keyForm "COUNT" (readIn 1 8)] [] l.fields = .ok () →
      let count := (fieldOf l.fields "COUNT" (readIn 1 8)).getD 1
      let sent := (s.acct.ring.drop (s.acct.ring.length - s.acct.unread)).take count
      let cursor := s.acct.cursor + BitVec.ofNat 32 sent.length
      let unread := (s.acct.nextSeq - cursor).toNat
      exec .billRead s = .next ({ s.lineOff rest with
        acct := { s.acct with
          cursor := cursor, overflow := 0
          highLatch := if unread < s.office.journalHigh then false else s.acct.highLatch }
        hlc := { (s.lineOff rest).hlc with
          flags := if s.office.clearOnRead then s.hlc.flags.set NoticeKind.journalHigh.index false
            else s.hlc.flags } }.answer
        (sent.map (fun j => OutLine.data l.tag (journalFields j)) ++
          [OutLine.final l.tag .ok
            [(str "COUNT", .num sent.length), (str "UNREAD", .num unread),
             (str "OVERFLOW", .num s.acct.overflow)]])).settle) ∧
  (∀ (s : State) (fs : List RawField) (seq : BitVec 32),
      checkForm [keyForm "SEQ" readSeq] ["SEQ"] fs = .ok () → fieldOf fs "SEQ" readSeq = some seq →
      ((∀ j ∈ s.acct.ring, j.seq ≠ seq) → checkBillRewind s fs = .error (.refusal .notRetained [])) ∧
      (∀ before j after, s.acct.ring = before ++ j :: after → j.seq = seq → (∀ x ∈ before, x.seq ≠ seq) →
        let read := s.acct.ring.length - s.acct.unread
        let k := read - before.length
        checkBillRewind s fs =
          if read ≤ before.length then .ok .stay
          else if s.office.journalMode = .hold ∧ 960 < k + s.acct.unread + s.acct.airReserved then
            .error (.refusal .noRoom [])
          else .ok (.back seq))) ∧
  (∀ (s : State) (l : CmdLine) (rest : List CmdLine), s.Heads .billRewind l rest →
      (checkBillRewind (s.lineOff rest) l.fields = .ok .stay → exec .billRewind s =
        .next ((s.lineOff rest).answer
          [.final l.tag .ok [(str "CURSOR", .num s.acct.cursor.toNat)]]).judgeJournalHigh.settle) ∧
      (∀ seq, checkBillRewind (s.lineOff rest) l.fields = .ok (.back seq) → exec .billRewind s =
        .next ({ s.lineOff rest with acct := { s.acct with cursor := seq } }.answer
          [.final l.tag .ok
            [(str "CURSOR", .num seq.toNat),
             (str "UNREAD", .num (s.acct.nextSeq - seq).toNat)]]).judgeJournalHigh.settle)) ∧
  (∀ s : State,
      let unread := (s.acct.nextSeq - s.acct.cursor).toNat
      let raised := s.hlc.raise .journalHigh
        [(str "UNREAD", .num unread), (str "FREE", .num (1024 - unread)),
         (str "MODE", .word (match s.office.journalMode with | .hold => str "HOLD" | .overwrite => str "OVERWRITE"))]
        true
      s.judgeJournalHigh =
        if unread < s.office.journalHigh then { s with acct := { s.acct with highLatch := false } }
        else match s.office.highType with
          | .each => { s with hlc := raised }
          | .once =>
            if s.acct.highLatch = true then s
            else { s with acct := { s.acct with highLatch := true }, hlc := raised }) ∧
  (∀ j : JournalRec,
      let kind : Text := match j.kind with
        | .air => str "AIR" | .refund => str "REFUND" | .receipt => str "RECEIPT" | .credit => str "CREDIT"
        | .adjust => str "ADJUST" | .period => str "PERIOD" | .close => str "CLOSE"
      let flags : List Text :=
        (if j.waived then [str "WAIVED"] else []) ++ (if j.late then [str "LATE"] else []) ++
          (if j.clamped then [str "CLAMPED"] else [])
      let first : List Field := [(str "SEQ", .num j.seq.toNat), (str "KIND", .word kind), (str "SUB", .num j.sub)]
      let amounts : List Field :=
        [(str "ROUND", .num j.round), (str "WINDOW", .num j.window), (str "AMOUNT", .int j.amount),
         (str "SHORT", .num j.short), (str "BALANCE", .int j.balance), (str "FLAGS", .words flags)]
      (∀ m a, j.kind = .air → j.msg = some m → j.air = some a → j.ref = none → j.period = none →
        journalFields j = first ++ [(str "MSG", .msg m),
          (str "CLASS", .word (match a.cls with
            | .first => str "FIRST" | .retry => str "RETRY" | .repeat_ => str "REPEAT" | .recovery => str "RECOVERY"))] ++
          amounts ++ [(str "Z", .num a.zones), (str "N", .num a.blocks), (str "VER", .num a.version.toNat),
            (str "ORIGIN", .num a.origin)]) ∧
      (∀ m, j.kind = .refund ∨ j.kind = .receipt → j.msg = some m → j.air = none → j.ref = none → j.period = none →
        journalFields j = first ++ [(str "MSG", .msg m)] ++ amounts) ∧
      (∀ ref, j.kind = .credit ∨ j.kind = .adjust → j.msg = none → j.air = none → j.ref = some ref →
        j.period = none → journalFields j = first ++ amounts ++ [(str "REF", .num ref)]) ∧
      (∀ pages charges, j.kind = .period ∨ j.kind = .close → j.msg = none → j.air = none → j.ref = none →
        j.period = some (pages, charges) →
        journalFields j = first ++ amounts ++ [(str "PPAGES", .num pages), (str "PCHARGES", .num charges)]))

namespace Sys2Proof.Machine

/-- The period of a subscriber closed (R164, R165): the counters zeroed, the usage alarm armed, the PERIOD record
given to the journal with the counters as they stood. -/
def State.periodClosed (s : State) (n : Nat) (e : Entry) : State :=
  { s with
    subs := s.subs.set n
      { e with money := { e.money with periodPages := 0, periodCharges := 0, usageArmed := true } } }.journal
    { seq := 0, kind := .period, sub := n, round := s.aclk.round, window := s.aclk.window, amount := 0, short := 0
      balance := e.money.balance, waived := false, late := false, clamped := false, msg := none, air := none
      ref := none, period := some (e.money.periodPages, e.money.periodCharges) }

end Sys2Proof.Machine

/-- PERIOD CLOSE of one subscriber, its checks in order (R164); PERIOD CLOSE ALL, which starts the sweep (R165).
SWEEP_VISIT (R165, R166): a vacant entry is passed, an entry in use has its period closed and is counted, or the sweep
pauses at it when HOLD mode has no open entry; after 4095 the sweep ends and PERIOD_DONE is raised. -/
def Obligations.PeriodsClosed : Prop :=
  (∀ (s : State) (fs : List RawField) (n : Nat), checkForm [keyForm "SUB" readNat] ["SUB"] fs = .ok () →
      fieldOf fs "SUB" readNat = some n →
      checkPeriodClose s fs =
        if 4096 ≤ n then .error (.refusal .badSubscriber [])
        else if s.acct.sweep ≠ none then .error (.refusal .sweepActive [])
        else match s.sub? n with
          | none => .error (.refusal .noSubscriber [])
          | some e =>
            if s.office.journalMode = .hold ∧ s.acct.openEntries = 0 then .error (.refusal .journalFull [])
            else .ok (n, e)) ∧
  (∀ (s : State) (l : CmdLine) (rest : List CmdLine) (n : Nat) (e : Entry), s.Heads .periodClose l rest →
      checkPeriodClose (s.lineOff rest) l.fields = .ok (n, e) →
      exec .periodClose s = .next (((s.lineOff rest).periodClosed n e).answer
        [.final l.tag .ok
          [(str "SUB", .num n), (str "PPAGES", .num e.money.periodPages),
           (str "PCHARGES", .num e.money.periodCharges), (str "SEQ", .num s.acct.nextSeq.toNat)]]).settle) ∧
  (∀ (s : State) (l : CmdLine) (rest : List CmdLine), s.Heads .periodCloseAll l rest →
      (l.fields = [] → s.acct.sweep = none → exec .periodCloseAll s =
        .next ({ s.lineOff rest with
          acct := { s.acct with sweep := some { cursor := 0, closed := 0, paused := false } } }.answer
          [.final l.tag .ok [(str "STATE", .word (str "RUNNING"))]]).settle) ∧
      (l.fields = [] → s.acct.sweep ≠ none → exec .periodCloseAll s =
        .next ((s.lineOff rest).answer [.final l.tag (.refused .sweepActive) []]).settle) ∧
      (∀ f fs, l.fields = f :: fs → exec .periodCloseAll s =
        .next ((s.lineOff rest).answer [.final l.tag (.refused .badField) [(str "FIELD", .word f.key)]]).settle)) ∧
  (∀ (s : State) (w : Sweep), s.acct.sweep = some w →
    let moved (t : State) (closed : Nat) : State :=
      if w.cursor < 4095 then
        { t with acct := { t.acct with sweep := some { cursor := w.cursor + 1, closed := closed, paused := false } } }
      else
        { t with acct := { t.acct with sweep := none } }.raise .periodDone
          [(str "CLOSED", .num closed), (str "ROUND", .num s.aclk.round)]
    (s.sub? w.cursor = none → exec .sweepVisit s = .next (moved s w.closed).settle) ∧
    (∀ e, s.sub? w.cursor = some e → (s.office.journalMode = .overwrite ∨ s.acct.openEntries ≠ 0) →
      exec .sweepVisit s = .next (moved (s.periodClosed w.cursor e) (w.closed + 1)).settle) ∧
    (∀ e, s.sub? w.cursor = some e → s.office.journalMode = .hold → s.acct.openEntries = 0 →
      exec .sweepVisit s =
        .next { s with acct := { s.acct with sweep := some { w with paused := true } } }.settle))

/-! ### Invariants -/

/-- The state after a cold start meets every invariant of Safety.lean. -/
def Obligations.InvariantsHoldAtReset : Prop :=
  State.reset.Sized ∧ State.reset.Canonical ∧ State.reset.Ranged ∧ State.reset.Solvent ∧ State.reset.acct.Ordered ∧
    State.reset.AirShape ∧ State.reset.hlc.InOrder ∧ State.reset.AddressesDiffer ∧ State.reset.Linked ∧
    State.reset.Roomy

/-- Every step keeps the tables in canonical form, the settings in their ranges, and the tables, queues and counters
within their capacities: 4096 entries, 2048 records, 12,288 chunks, 64 live records of a subscriber, and the rest of
Safety.lean's `Sized`. It keeps the notice queue in order (R175), no address twice (R3), and entries, records and places
in agreement (R7, R8, R20, R29, R147): each subscriber's live count, tags and reserved amount are those of its live
records, no tag and no chunk is held twice, no QUEUED or HELD record holds a tag, and each live record is in exactly one
place. So the awaiting list, the window queues and the images hold at most 2048 records, and a held list at most 64. In
HOLD mode it keeps one AIR reservation for each placement not yet aired, and unread records and AIR reservations
together at most 1024; in OVERWRITE mode no reservation (R157, R159). -/
def Obligations.CapacitiesKept : Prop :=
  (∀ s t : State, step s = .next t →
    (s.Canonical → t.Canonical) ∧ (s.Ranged → t.Ranged) ∧ (s.Canonical → s.Ranged → s.Sized → t.Sized) ∧
    (s.hlc.InOrder → t.hlc.InOrder) ∧ (s.Canonical → s.AddressesDiffer → t.AddressesDiffer) ∧
    (s.Canonical → s.Sized → s.AirShape → s.Linked → t.Linked) ∧
    (s.Canonical → s.Sized → s.AirShape → s.Linked → s.acct.Ordered → s.Roomy → t.Roomy)) ∧
  (∀ s : State, s.Canonical → s.Sized → s.Linked →
    s.rmat.awaiting.length ≤ 2048 ∧ s.inImages.length ≤ 2048 ∧ (∀ w : Window, (s.queue w).length ≤ 2048) ∧
      ∀ n e, s.sub? n = some e → e.held.length ≤ 64)

/-- Every step keeps each balance between its floor and the top, and the floors and period counters in range (R146). -/
def Obligations.BalancesStayInBounds : Prop := ∀ s t : State, s.Solvent → step s = .next t → t.Solvent

/-- Every step keeps the journal ring in sequence order, the newest 1024 records, with every unread record in it
(R155). -/
def Obligations.JournalStaysOrdered : Prop := ∀ s t : State, s.acct.Ordered → step s = .next t → t.acct.Ordered

/-- Every step keeps the images, the image on air among them, the orders and the held events as the air state has them
(R58, R71, R95). That in RUNNING no image is on air while the first window-start event is held is the model's reading
(log 17). -/
def Obligations.ImagesFollowAirState : Prop := ∀ s t : State, s.AirShape → step s = .next t → t.AirShape
end

