-- ==== Sys2Proof/Laws/Table.lean ====
section
/-! SUPPORT. What reading a `Table` gives after a change of it, and that every change keeps the canonical form. -/

namespace Sys2Proof.Machine

variable {α : Type}

@[simp] theorem Table.get?_nil (k : Nat) : (⟨[]⟩ : Table α).get? k = none := rfl

theorem find?_insertCell_self (k : Nat) (v : α) (l : List (Nat × α)) :
    (insertCell k v l).find? (fun c => c.1 == k) = some (k, v) := by
  induction l with
  | nil => simp [insertCell]
  | cons c cs ih =>
    unfold insertCell
    split
    · simp
    · split
      · simp
      · rename_i h
        simp [ih, show (c.1 == k) = false by simp; omega]

theorem find?_insertCell_other {j k : Nat} (h : j ≠ k) (v : α) (l : List (Nat × α)) :
    (insertCell k v l).find? (fun c => c.1 == j) = l.find? (fun c => c.1 == j) := by
  induction l with
  | nil => simp [insertCell, Ne.symm h]
  | cons c cs ih =>
    unfold insertCell
    split
    · simp [List.find?_cons, Ne.symm h]
    · split
      · rename_i hk
        simp [Ne.symm h, ← hk]
      · simp [List.find?_cons, ih]

@[simp] theorem Table.get?_set_self (t : Table α) (k : Nat) (v : α) : (t.set k v).get? k = some v := by
  simp [Table.get?, Table.set, find?_insertCell_self]

theorem Table.get?_set_other (t : Table α) {j k : Nat} (h : j ≠ k) (v : α) : (t.set k v).get? j = t.get? j := by
  simp [Table.get?, Table.set, find?_insertCell_other h]

theorem Table.get?_set (t : Table α) (j k : Nat) (v : α) :
    (t.set k v).get? j = if j = k then some v else t.get? j := by
  split
  · next h => subst h; simp
  · next h => exact Table.get?_set_other t h v

@[simp] theorem Table.get?_erase_self (t : Table α) (k : Nat) : (t.erase k).get? k = none := by
  simp [Table.get?, Table.erase, List.find?_filter, List.find?_eq_none]

theorem Table.get?_erase_other (t : Table α) {j k : Nat} (h : j ≠ k) : (t.erase k).get? j = t.get? j := by
  unfold Table.get? Table.erase
  rw [List.find?_filter]
  congr 2
  funext c
  by_cases hc : c.1 = j <;> simp [hc, h]

@[simp] theorem Table.get?_mapValues (t : Table α) (f : α → α) (k : Nat) :
    (t.mapValues f).get? k = (t.get? k).map f := by
  simp only [Table.get?, Table.mapValues, List.find?_map, Option.map_map]
  rfl

theorem Table.mem_of_get? {t : Table α} {k : Nat} {v : α} (h : t.get? k = some v) : (k, v) ∈ t.cells := by
  unfold Table.get? at h
  cases hf : t.cells.find? (fun c => c.1 == k) with
  | none => simp [hf] at h
  | some c =>
    have h1 := List.find?_some hf
    have h2 := List.mem_of_find?_eq_some hf
    simp only [hf, Option.map_some, Option.some.injEq] at h
    have h3 : c.1 = k := by simpa using h1
    rw [← h, ← h3]
    exact h2

/-! ### The canonical form -/

@[simp] theorem Table.wf_nil : (⟨[]⟩ : Table α).wf = true := by simp [Table.wf]

theorem mem_keys_insertCell {k j : Nat} {v : α} {l : List (Nat × α)}
    (h : j ∈ (insertCell k v l).map Prod.fst) : j = k ∨ j ∈ l.map Prod.fst := by
  induction l with
  | nil => simpa [insertCell] using h
  | cons c cs ih =>
    unfold insertCell at h
    split at h
    · simpa using h
    · split at h
      · rename_i hk
        simp only [List.map_cons, List.mem_cons] at h ⊢
        tauto
      · simp only [List.map_cons, List.mem_cons] at h ⊢
        rcases h with h | h
        · exact Or.inr (Or.inl h)
        · rcases ih h with h | h
          · exact Or.inl h
          · exact Or.inr (Or.inr h)

theorem pairwise_insertCell (k : Nat) (v : α) (l : List (Nat × α))
    (h : (l.map Prod.fst).Pairwise (· < ·)) : ((insertCell k v l).map Prod.fst).Pairwise (· < ·) := by
  induction l with
  | nil => simp [insertCell]
  | cons c cs ih =>
    have hc := h
    simp only [List.map_cons, List.pairwise_cons] at hc
    unfold insertCell
    split
    · rename_i hk
      simp only [List.map_cons, List.pairwise_cons]
      refine ⟨?_, hc.1, hc.2⟩
      intro j hj
      rcases List.mem_cons.mp hj with rfl | hj
      · exact hk
      · exact Nat.lt_trans hk (hc.1 j hj)
    · split
      · rename_i hk
        simpa [hk] using h
      · rename_i h1 h2
        simp only [List.map_cons, List.pairwise_cons]
        refine ⟨?_, ih hc.2⟩
        intro j hj
        rcases mem_keys_insertCell hj with rfl | hj
        · omega
        · exact hc.1 j hj

theorem Table.wf_set {t : Table α} (h : t.wf = true) (k : Nat) (v : α) : (t.set k v).wf = true := by
  simp only [Table.wf, decide_eq_true_eq] at h ⊢
  exact pairwise_insertCell k v t.cells h

theorem Table.wf_erase {t : Table α} (h : t.wf = true) (k : Nat) : (t.erase k).wf = true := by
  simp only [Table.wf, decide_eq_true_eq] at h ⊢
  exact List.Pairwise.sublist (List.Sublist.map _ List.filter_sublist) h

theorem Table.wf_mapValues {t : Table α} (h : t.wf = true) (f : α → α) : (t.mapValues f).wf = true := by
  simpa [Table.wf, Table.mapValues, Function.comp_def] using h

end Sys2Proof.Machine
end

