-- ==== Sys2Proof/Laws/Agreement.lean ====
section
/-! SUPPORT. That entries, records and places agree, as lists and functions say it: what one record's change, leaving,
coming or freeing does to the agreement, whatever the operation. -/

namespace Sys2Proof.Machine

/-! ### Tables as lists -/

theorem Table.values_erase_perm {α : Type} {t : Table α} (h : t.wf = true) {k : Nat} {v : α} (hg : t.get? k = some v) :
    t.values.Perm (v :: (t.erase k).values) ∧ ∀ v', (t.set k v').values.Perm (v' :: (t.erase k).values) := by
  obtain ⟨cells⟩ := t
  simp only [Table.wf, decide_eq_true_eq] at h
  unfold Table.get? at hg
  simp only [Table.values, Table.erase, Table.set]
  induction cells with
  | nil => simp at hg
  | cons c cs ih =>
    simp only [List.map_cons, List.pairwise_cons] at h
    by_cases hk : c.1 = k
    · have hno : cs.filter (fun c => c.1 != k) = cs := by
        rw [List.filter_eq_self]
        intro a ha
        have := h.1 a.1 (List.mem_map_of_mem ha)
        simp; omega
      simp only [List.find?_cons, hk, beq_self_eq_true, Option.map_some, Option.some.injEq] at hg
      constructor
      · simp [hk, hno, hg]
      · intro v'
        simp [insertCell, hk, hno]
    · simp only [List.find?_cons, beq_eq_false_iff_ne.mpr hk] at hg
      obtain ⟨ih1, ih2⟩ := ih hg h.2
      have hlt : ¬ k < c.1 := by
        have hm := Table.mem_of_get? (t := ⟨cs⟩) (k := k) (v := v) hg
        have := h.1 k (List.mem_map_of_mem hm)
        omega
      constructor
      · simp only [List.map_cons, List.filter_cons, bne_iff_ne, ne_eq, hk, not_false_eq_true, if_true]
        exact (ih1.cons _).trans (.swap _ _ _)
      · intro v'
        simp only [insertCell, hlt, if_false, Ne.symm hk, List.map_cons, List.filter_cons, bne_iff_ne, ne_eq, hk,
          not_false_eq_true, if_true]
        exact ((ih2 v').cons _).trans (.swap _ _ _)

theorem Table.values_insert_perm {α : Type} {t : Table α} {k : Nat} (hg : t.get? k = none) (v : α) :
    (t.set k v).values.Perm (v :: t.values) := by
  obtain ⟨cells⟩ := t
  unfold Table.get? at hg
  simp only [Table.values, Table.set]
  induction cells with
  | nil => exact .refl _
  | cons c cs ih =>
    have hk : c.1 ≠ k := by
      intro hk; simp [hk] at hg
    simp only [List.find?_cons, beq_eq_false_iff_ne.mpr hk] at hg
    unfold insertCell
    split
    · exact .refl _
    · rw [if_neg (Ne.symm hk)]
      exact ((ih hg).cons _).trans (.swap _ _ _)

/-! ### Entries and records -/

/-- `State.EntryAgrees` over any list of records. -/
def EntryAgreesOn (live : List PageRec) (n : Nat) (e : Entry) : Prop :=
  e.live = (live.filter (fun r => r.sub == n)).length ∧
    ((live.filter (fun r => r.sub == n)).filterMap PageRec.tag).Nodup ∧
    (∀ g, g ∈ e.tags ↔ g ∈ (live.filter (fun r => r.sub == n)).filterMap PageRec.tag) ∧
    e.money.reserved = ((live.filter (fun r => r.sub == n)).map (fun r => r.reservation.getD 0)).sum

/-- `State.Agrees` over any entries and any list of records. -/
def AgreesOn (sub : Nat → Option Entry) (live : List PageRec) : Prop :=
  (∀ n e, sub n = some e → EntryAgreesOn live n e) ∧ (∀ r ∈ live, (sub r.sub).isSome = true ∧ r.Whole) ∧
    (live.flatMap (fun r => r.chunkList.map Chunk.index)).Nodup ∧
    ∀ i ∈ live.flatMap (fun r => r.chunkList.map Chunk.index), i < Config.chunks

theorem State.agrees_iff (s : State) : s.Agrees ↔ AgreesOn s.sub? s.live := Iff.rfl

theorem EntryAgreesOn.perm {l l' : List PageRec} (h : l.Perm l') {n : Nat} {e : Entry} (ha : EntryAgreesOn l n e) :
    EntryAgreesOn l' n e := by
  have hp := h.filter (fun r : PageRec => r.sub == n)
  obtain ⟨h1, h2, h3, h4⟩ := ha
  refine ⟨h1.trans hp.length_eq, (hp.filterMap _).nodup_iff.mp h2, fun g => (h3 g).trans (hp.filterMap _).mem_iff, ?_⟩
  rw [h4]
  exact (hp.map _).sum_eq

theorem AgreesOn.perm {l l' : List PageRec} (h : l.Perm l') {sub : Nat → Option Entry} (ha : AgreesOn sub l) :
    AgreesOn sub l' :=
  ⟨fun n e he => (ha.1 n e he).perm h, fun r hr => ha.2.1 r (h.mem_iff.mpr hr),
    (h.flatMap_right _).nodup_iff.mp ha.2.2.1, fun i hi => ha.2.2.2 i ((h.flatMap_right _).mem_iff.mpr hi)⟩

variable {sub sub' : Nat → Option Entry} {r r' : PageRec} {R L : List PageRec} {e e' : Entry}

theorem entryAgreesOn_cons_other {n : Nat} (h : r.sub ≠ n) : EntryAgreesOn (r :: R) n e ↔ EntryAgreesOn R n e := by
  unfold EntryAgreesOn
  simp [h]

theorem entryAgreesOn_cons_self : EntryAgreesOn (r :: R) r.sub e ↔
    e.live = (R.filter (fun x => x.sub == r.sub)).length + 1 ∧
    ((r.tag.toList ++ (R.filter (fun x => x.sub == r.sub)).filterMap PageRec.tag).Nodup) ∧
    (∀ g, g ∈ e.tags ↔ r.tag = some g ∨ g ∈ (R.filter (fun x => x.sub == r.sub)).filterMap PageRec.tag) ∧
    e.money.reserved =
      r.reservation.getD 0 + ((R.filter (fun x => x.sub == r.sub)).map (fun x => x.reservation.getD 0)).sum := by
  unfold EntryAgreesOn
  cases ht : r.tag with
  | none => simp [ht]
  | some g => simp [ht, @eq_comm _ _ g]

/-- One record changes, and with it the tags and the reserved amount of its entry. -/
theorem AgreesOn.change (h : AgreesOn sub (r :: R)) (he : sub r.sub = some e) (hs : r'.sub = r.sub) (hw : r'.Whole)
    (hc : (r'.chunkList.map Chunk.index).Sublist (r.chunkList.map Chunk.index))
    (hsub : ∀ m, sub' m = if m = r.sub then some e' else sub m) (hl : e'.live = e.live)
    (ht : ∀ g, r'.tag = some g → r.tag = some g ∨ g ∉ e.tags)
    (ht' : ∀ g, g ∈ e'.tags ↔ r'.tag = some g ∨ g ∈ e.tags ∧ r.tag ≠ some g)
    (hr : e'.money.reserved + r.reservation.getD 0 = e.money.reserved + r'.reservation.getD 0) :
    AgreesOn sub' (r' :: R) := by
  obtain ⟨h1, h2, h3, h4⟩ := h
  have hsl : ((r' :: R).flatMap (fun r => r.chunkList.map Chunk.index)).Sublist
      ((r :: R).flatMap (fun r => r.chunkList.map Chunk.index)) := by
    simp only [List.flatMap_cons]
    exact hc.append (.refl _)
  refine ⟨fun n x hx => ?_, fun x hx => ?_, h3.sublist hsl, fun i hi => h4 i (hsl.subset hi)⟩
  · rw [hsub] at hx
    split at hx
    · rename_i hn
      cases hx
      subst hn
      have hold := entryAgreesOn_cons_self.mp (h1 _ _ he)
      rw [← hs] at hold ⊢
      obtain ⟨o1, o2, o3, o4⟩ := hold
      refine entryAgreesOn_cons_self.mpr ⟨by omega, ?_, ?_, by omega⟩
      · rw [List.nodup_append] at o2 ⊢
        refine ⟨by cases r'.tag <;> simp, o2.2.1, ?_⟩
        intro a ha b hb hab
        subst hab
        have ha' : r'.tag = some a := by simpa [eq_comm] using ha
        rcases ht a ha' with h | h
        · exact o2.2.2 a (by simp [h]) a hb rfl
        · exact h ((o3 a).mpr (.inr hb))
      · intro g
        rw [ht' g, o3 g]
        constructor
        · rintro (h | ⟨h | h, hne⟩)
          · exact .inl h
          · exact absurd h hne
          · exact .inr h
        · rintro (h | h)
          · exact .inl h
          · refine .inr ⟨.inr h, fun hh => ?_⟩
            rw [List.nodup_append] at o2
            exact o2.2.2 g (by simp [hh]) g h rfl
    · rename_i hn
      have := h1 n x hx
      rw [entryAgreesOn_cons_other (Ne.symm hn)] at this
      exact (entryAgreesOn_cons_other (by rw [hs]; exact Ne.symm hn)).mpr this
  · rw [hsub]
    rcases List.mem_cons.mp hx with rfl | hx
    · simp [hs, hw]
    · have := h2 x (List.mem_cons_of_mem _ hx)
      refine ⟨?_, this.2⟩
      split
      · rfl
      · exact this.1

/-- One record goes, and with it its part of the entry. -/
theorem AgreesOn.drop (h : AgreesOn sub (r :: R)) (he : sub r.sub = some e)
    (hsub : ∀ m, sub' m = if m = r.sub then some e' else sub m) (hl : e'.live = e.live - 1)
    (ht : ∀ g, g ∈ e'.tags ↔ g ∈ e.tags ∧ r.tag ≠ some g)
    (hr : e'.money.reserved = e.money.reserved - r.reservation.getD 0) : AgreesOn sub' R := by
  obtain ⟨h1, h2, h3, h4⟩ := h
  simp only [List.flatMap_cons, List.nodup_append] at h3
  refine ⟨fun n x hx => ?_, fun x hx => ?_, h3.2.1, fun i hi => h4 i ?_⟩
  · rw [hsub] at hx
    split at hx
    · rename_i hn
      cases hx
      subst hn
      obtain ⟨o1, o2, o3, o4⟩ := entryAgreesOn_cons_self.mp (h1 _ _ he)
      rw [List.nodup_append] at o2
      refine ⟨by omega, o2.2.1, ?_, by omega⟩
      intro g
      rw [ht g, o3 g]
      constructor
      · rintro ⟨h | h, hne⟩
        · exact absurd h hne
        · exact h
      · intro h
        exact ⟨.inr h, fun hh => o2.2.2 g (by simp [hh]) g h rfl⟩
    · rename_i hn
      exact (entryAgreesOn_cons_other (Ne.symm hn)).mp (h1 n x hx)
  · have := h2 x (List.mem_cons_of_mem _ hx)
    refine ⟨?_, this.2⟩
    rw [hsub]
    split
    · rfl
    · exact this.1
  · simp only [List.flatMap_cons]
    exact List.mem_append_right _ hi

/-- A record comes, without a tag. -/
theorem AgreesOn.add (h : AgreesOn sub R) (he : sub r.sub = some e) (hw : r.Whole) (htag : r.tag = none)
    (hn : (r.chunkList.map Chunk.index).Nodup)
    (hf : ∀ i ∈ r.chunkList.map Chunk.index,
      i < Config.chunks ∧ i ∉ R.flatMap (fun r => r.chunkList.map Chunk.index))
    (hsub : ∀ m, sub' m = if m = r.sub then some e' else sub m) (hl : e'.live = e.live + 1) (ht : e'.tags = e.tags)
    (hr : e'.money.reserved = e.money.reserved + r.reservation.getD 0) : AgreesOn sub' (r :: R) := by
  obtain ⟨h1, h2, h3, h4⟩ := h
  refine ⟨fun n x hx => ?_, fun x hx => ?_, ?_, ?_⟩
  · rw [hsub] at hx
    split at hx
    · rename_i hn
      cases hx
      subst hn
      obtain ⟨o1, o2, o3, o4⟩ := h1 _ _ he
      refine entryAgreesOn_cons_self.mpr ⟨by omega, by simpa [htag] using o2, ?_, by omega⟩
      intro g
      rw [ht, o3 g]
      simp [htag]
    · rename_i hn
      exact (entryAgreesOn_cons_other (Ne.symm hn)).mpr (h1 n x hx)
  · rw [hsub]
    rcases List.mem_cons.mp hx with rfl | hx
    · simp [hw]
    · have := h2 x hx
      refine ⟨?_, this.2⟩
      split
      · rfl
      · exact this.1
  · simp only [List.flatMap_cons, List.nodup_append]
    exact ⟨hn, h3, fun a ha b hb hab => (hf a ha).2 (hab ▸ hb)⟩
  · intro i hi
    simp only [List.flatMap_cons, List.mem_append] at hi
    rcases hi with hi | hi
    · exact (hf i hi).1
    · exact h4 i hi

/-- Entries change where they do not say anything of their records, come for numbers without records, and go where they
have none. -/
theorem AgreesOn.entries (h : AgreesOn sub L)
    (hk : ∀ n x, sub' n = some x → (∃ e, sub n = some e ∧ x.live = e.live ∧ x.tags = e.tags ∧
      x.money.reserved = e.money.reserved) ∨ (sub n = none ∧ x.live = 0 ∧ x.tags = [] ∧ x.money.reserved = 0))
    (hp : ∀ n e, sub n = some e → e.live ≠ 0 → (sub' n).isSome = true) : AgreesOn sub' L := by
  obtain ⟨h1, h2, h3, h4⟩ := h
  refine ⟨fun n x hx => ?_, fun r hr => ⟨?_, (h2 r hr).2⟩, h3, h4⟩
  · rcases hk n x hx with ⟨e, he, k1, k2, k3⟩ | ⟨hn, k1, k2, k3⟩
    · obtain ⟨o1, o2, o3, o4⟩ := h1 n e he
      exact ⟨k1.trans o1, o2, fun g => by rw [k2]; exact o3 g, k3.trans o4⟩
    · have hno : L.filter (fun r => r.sub == n) = [] := by
        rw [List.filter_eq_nil_iff]
        intro r hr hrn
        have := (h2 r hr).1
        rw [beq_iff_eq.mp hrn, hn] at this
        cases this
      unfold EntryAgreesOn
      simp [hno, k1, k2, k3]
  · obtain ⟨hs, _⟩ := h2 r hr
    obtain ⟨e, he⟩ := Option.isSome_iff_exists.mp hs
    refine hp _ e he ?_
    have := (h1 _ e he).1
    have hm : r ∈ L.filter (fun x => x.sub == r.sub) := by simp [hr]
    have := List.length_pos_of_mem hm
    omega

/-- Records change in nothing that the agreement reads. -/
theorem AgreesOn.map (h : AgreesOn sub L) (f : PageRec → PageRec)
    (hf : ∀ r, (f r).sub = r.sub ∧ (f r).tag = r.tag ∧ (f r).reservation = r.reservation ∧ (f r).chunks = r.chunks ∧
      (r.Whole → (f r).Whole)) : AgreesOn sub (L.map f) := by
  obtain ⟨h1, h2, h3, h4⟩ := h
  have hfl : ∀ n, (L.map f).filter (fun r => r.sub == n) = (L.filter (fun r => r.sub == n)).map f := by
    intro n
    rw [List.filter_map]
    congr 1
    refine List.filter_congr fun x _ => ?_
    simp [(hf x).1]
  have hch : (L.map f).flatMap (fun r => r.chunkList.map Chunk.index) = L.flatMap (fun r => r.chunkList.map Chunk.index) := by
    rw [List.flatMap_map]
    congr 1
    funext x
    unfold PageRec.chunkList
    rw [(hf x).2.2.2.1]
  have htag : ∀ l : List PageRec, (l.map f).filterMap PageRec.tag = l.filterMap PageRec.tag := by
    intro l
    rw [List.filterMap_map]
    congr 1
    funext x
    exact (hf x).2.1
  refine ⟨fun n e he => ?_, fun r hr => ?_, by rw [hch]; exact h3, by rw [hch]; exact h4⟩
  · obtain ⟨o1, o2, o3, o4⟩ := h1 n e he
    unfold EntryAgreesOn
    rw [hfl, htag]
    refine ⟨by simpa using o1, o2, o3, ?_⟩
    rw [o4, List.map_map]
    congr 2
    funext x
    simp [(hf x).2.2.1]
  · obtain ⟨x, hx, rfl⟩ := List.mem_map.mp hr
    rw [(hf x).1]
    exact ⟨(h2 x hx).1, (hf x).2.2.2.2 (h2 x hx).2⟩

/-! ### Places -/

/-- `State.InPlace` over any entries and lists. -/
def InPlaceOn (sub : Nat → Option Entry) (q : Window → List MsgId) (im aw : List MsgId) (r : PageRec) (e : Entry) : Prop :=
  (∀ w : Window, r.id ∈ q w ↔ (r.state = .queued ∨ r.state = .retryWait) ∧ w = e.home) ∧
    (r.id ∈ im ↔ r.state = .placed ∨ r.state = .delivered ∧ r.id ∉ aw) ∧
    (r.id ∈ aw ↔ r.state = .awaiting ∨ r.state = .delivered ∧ r.id ∉ im) ∧
    ∀ n x, sub n = some x → (r.id ∈ x.held ↔ r.state = .held ∧ n = r.sub)

/-- A list holds ids of the records, none twice. -/
def Lists (live : List PageRec) (l : List MsgId) : Prop := l.Nodup ∧ ∀ m ∈ l, m ∈ live.map PageRec.id

/-- `State.Placed` over any entries, records and lists. -/
def PlacedOn (sub : Nat → Option Entry) (live : List PageRec) (q : Window → List MsgId) (im aw : List MsgId) : Prop :=
  (∀ r ∈ live, ∀ e, sub r.sub = some e → InPlaceOn sub q im aw r e) ∧
    (∀ w : Window, Lists live (q w)) ∧ Lists live im ∧ Lists live aw ∧ ∀ n e, sub n = some e → Lists live e.held

variable {q q' : Window → List MsgId} {im im' aw aw' : List MsgId}

theorem Lists.perm {l l' : List PageRec} (h : l.Perm l') {x : List MsgId} (hl : Lists l x) : Lists l' x :=
  ⟨hl.1, fun m hm => (h.map PageRec.id).mem_iff.mp (hl.2 m hm)⟩

theorem PlacedOn.perm {l l' : List PageRec} (h : l.Perm l') (ha : PlacedOn sub l q im aw) : PlacedOn sub l' q im aw :=
  ⟨fun r hr => ha.1 r (h.mem_iff.mpr hr), fun w => (ha.2.1 w).perm h, ha.2.2.1.perm h, ha.2.2.2.1.perm h,
    fun n e he => (ha.2.2.2.2 n e he).perm h⟩

/-- A list without one record. -/
def Without (m : MsgId) (l l' : List MsgId) : Prop := l'.Sublist l ∧ ∀ x, x ∈ l' ↔ x ∈ l ∧ x ≠ m

theorem without_filter (m : MsgId) (l : List MsgId) : Without m l (l.filter (fun x => x != m)) :=
  ⟨List.filter_sublist, by simp⟩

theorem without_self {m : MsgId} {l : List MsgId} (h : m ∉ l) : Without m l l :=
  ⟨.refl _, fun _ => ⟨fun hx => ⟨hx, fun he => h (he ▸ hx)⟩, And.left⟩⟩

theorem Lists.without {l l' : List MsgId} (h : Lists (r :: R) l) (hw : Without r.id l l') : Lists R l' := by
  refine ⟨h.1.sublist hw.1, fun m hm => ?_⟩
  have := h.2 m (hw.1.subset hm)
  simp only [List.map_cons, List.mem_cons] at this
  rcases this with h | h
  · exact absurd h ((hw.2 m).mp hm).2
  · exact h

/-- A record leaves its place. -/
theorem PlacedOn.detach (h : PlacedOn sub (r :: R) q im aw) (hid : r.id ∉ R.map PageRec.id)
    (hq : ∀ w, Without r.id (q w) (q' w)) (him : Without r.id im im') (haw : Without r.id aw aw')
    (hsub : ∀ n x, sub' n = some x → ∃ e, sub n = some e ∧ x.home = e.home ∧ Without r.id e.held x.held) :
    PlacedOn sub' R q' im' aw' := by
  obtain ⟨h1, h2, h3, h4, h5⟩ := h
  refine ⟨fun y hy e he => ?_, fun w => (h2 w).without (hq w), h3.without him, h4.without haw, fun n x hx => ?_⟩
  · have hne : y.id ≠ r.id := fun hh => hid (hh ▸ List.mem_map_of_mem hy)
    obtain ⟨e0, he0, hhome, _⟩ := hsub _ _ he
    obtain ⟨g1, g2, g3, g4⟩ := h1 y (List.mem_cons_of_mem _ hy) e0 he0
    refine ⟨fun w => ?_, ?_, ?_, fun n x hx => ?_⟩
    · rw [(hq w).2, hhome, ← g1 w]; exact and_iff_left hne
    · rw [him.2, haw.2]; simpa [hne] using g2
    · rw [him.2, haw.2]; simpa [hne] using g3
    · obtain ⟨x0, hx0, _, hh⟩ := hsub n x hx
      rw [hh.2, ← g4 n x0 hx0]; exact and_iff_left hne
  · obtain ⟨x0, hx0, _, hh⟩ := hsub n x hx
    exact (h5 n x0 hx0).without hh

/-- A list that a record has joined, or not. -/
def Joined (m : MsgId) (p : Prop) (l l' : List MsgId) : Prop := l'.Nodup ∧ ∀ x, x ∈ l' ↔ x ∈ l ∨ x = m ∧ p

theorem joined_not {m : MsgId} {p : Prop} (hp : ¬ p) {l : List MsgId} (h : l.Nodup) : Joined m p l l :=
  ⟨h, fun x => by simp [hp]⟩

theorem joined_perm {m : MsgId} {p : Prop} (hp : p) {l l' : List MsgId} (h : l.Nodup) (hm : m ∉ l)
    (hl : l'.Perm (m :: l)) : Joined m p l l' :=
  ⟨hl.nodup_iff.mpr (List.nodup_cons.mpr ⟨hm, h⟩), fun x => by rw [hl.mem_iff]; simp [hp, or_comm]⟩

theorem Lists.joined {l l' : List MsgId} {p : Prop} (h : Lists R l) (hj : Joined r.id p l l') : Lists (r :: R) l' := by
  refine ⟨hj.1, fun m hm => ?_⟩
  rcases (hj.2 m).mp hm with h' | ⟨rfl, _⟩
  · exact List.mem_cons_of_mem _ (h.2 m h')
  · exact List.mem_cons_self ..

/-- A record takes a place by its state: `pim` and `paw` say whether it stands in an image or on the awaiting list. -/
theorem PlacedOn.attach {pim paw : Prop} (h : PlacedOn sub R q im aw) (hid : r.id ∉ R.map PageRec.id)
    (he : sub' r.sub = some e)
    (hq : ∀ w, Joined r.id ((r.state = .queued ∨ r.state = .retryWait) ∧ w = e.home) (q w) (q' w))
    (him : Joined r.id pim im im') (haw : Joined r.id paw aw aw')
    (hpim : pim ↔ r.state = .placed ∨ r.state = .delivered ∧ ¬ paw)
    (hpaw : paw ↔ r.state = .awaiting ∨ r.state = .delivered ∧ ¬ pim)
    (hsub : ∀ n x, sub' n = some x → ∃ y, sub n = some y ∧ x.home = y.home ∧
      Joined r.id (r.state = .held ∧ n = r.sub) y.held x.held) : PlacedOn sub' (r :: R) q' im' aw' := by
  obtain ⟨h1, h2, h3, h4, h5⟩ := h
  have nq : ∀ w, r.id ∉ q w := fun w hm => hid ((h2 w).2 _ hm)
  have nim : r.id ∉ im := fun hm => hid (h3.2 _ hm)
  have naw : r.id ∉ aw := fun hm => hid (h4.2 _ hm)
  refine ⟨fun y hy x hx => ?_, fun w => (h2 w).joined (hq w), h3.joined him, h4.joined haw, fun n x hx => ?_⟩
  · rcases List.mem_cons.mp hy with rfl | hy
    · rw [he] at hx
      cases hx
      refine ⟨fun w => ?_, ?_, ?_, fun n x hx => ?_⟩
      · rw [(hq w).2]; simp [nq w]
      · rw [him.2, haw.2]; simpa [nim, naw] using hpim
      · rw [him.2, haw.2]; simpa [nim, naw] using hpaw
      · obtain ⟨x0, hx0, _, hh⟩ := hsub n x hx
        have nh : y.id ∉ x0.held := fun hm => hid ((h5 n x0 hx0).2 _ hm)
        rw [hh.2]; simp [nh]
    · have hne : y.id ≠ r.id := fun hh => hid (hh ▸ List.mem_map_of_mem hy)
      obtain ⟨e0, he0, hhome, _⟩ := hsub _ _ hx
      obtain ⟨g1, g2, g3, g4⟩ := h1 y hy e0 he0
      refine ⟨fun w => ?_, ?_, ?_, fun n x hx => ?_⟩
      · rw [(hq w).2, hhome, ← g1 w]; simp [hne]
      · rw [him.2, haw.2]; simpa [hne] using g2
      · rw [him.2, haw.2]; simpa [hne] using g3
      · obtain ⟨x0, hx0, _, hh⟩ := hsub n x hx
        rw [hh.2, ← g4 n x0 hx0]; simp [hne]
  · obtain ⟨x0, hx0, _, hh⟩ := hsub n x hx
    exact (h5 n x0 hx0).joined hh

/-- A record takes another state in its place: an AWAITING or PLACED one is delivered. -/
theorem PlacedOn.restate (h : PlacedOn sub (r :: R) q im aw) (hid : r'.id = r.id) (hs : r'.sub = r.sub)
    (hst : r'.state = r.state ∨ (r.state = .awaiting ∨ r.state = .placed) ∧ r'.state = .delivered) :
    PlacedOn sub (r' :: R) q im aw := by
  obtain ⟨h1, h2, h3, h4, h5⟩ := h
  have hl : ∀ l, Lists (r :: R) l → Lists (r' :: R) l := fun l hl =>
    ⟨hl.1, fun m hm => by simpa [hid] using hl.2 m hm⟩
  refine ⟨fun y hy x hx => ?_, fun w => hl _ (h2 w), hl _ h3, hl _ h4, fun n x hx => hl _ (h5 n x hx)⟩
  rcases List.mem_cons.mp hy with rfl | hy
  · rw [hs] at hx
    obtain ⟨g1, g2, g3, g4⟩ := h1 r (List.mem_cons_self ..) x hx
    unfold InPlaceOn
    rw [hid, hs]
    rcases hst with hst | ⟨hst | hst, hd⟩
    · rw [hst]; exact ⟨g1, g2, g3, g4⟩
    · rw [hst] at g1 g2 g3 g4; rw [hd]; simp at g1 g2 g3 g4 ⊢; exact ⟨g1, by tauto, by tauto, g4⟩
    · rw [hst] at g1 g2 g3 g4; rw [hd]; simp at g1 g2 g3 g4 ⊢; exact ⟨g1, by tauto, by tauto, g4⟩
  · exact h1 y (List.mem_cons_of_mem _ hy) x hx

/-- Entries change beside their held lists, and move home only where they have no records. -/
theorem PlacedOn.entries (h : PlacedOn sub L q im aw)
    (hk : ∀ n x, sub' n = some x →
      (∃ e, sub n = some e ∧ x.held = e.held ∧ (x.home = e.home ∨ ∀ r ∈ L, r.sub ≠ n)) ∨
        (x.held = [] ∧ ∀ r ∈ L, r.sub ≠ n)) : PlacedOn sub' L q im aw := by
  obtain ⟨h1, h2, h3, h4, h5⟩ := h
  refine ⟨fun r hr x hx => ?_, h2, h3, h4, fun n x hx => ?_⟩
  · rcases hk _ x hx with ⟨e, he, _, hh⟩ | ⟨_, hno⟩
    · have hhome : x.home = e.home := hh.resolve_right (fun hno => hno r hr rfl)
      obtain ⟨g1, g2, g3, g4⟩ := h1 r hr e he
      refine ⟨fun w => by rw [hhome]; exact g1 w, g2, g3, fun n y hy => ?_⟩
      rcases hk n y hy with ⟨e0, he0, hheld, _⟩ | ⟨hnil, hno⟩
      · rw [hheld]; exact g4 n e0 he0
      · rw [hnil]
        simp only [List.not_mem_nil, false_iff, not_and]
        exact fun _ hn => hno r hr hn.symm
    · exact absurd rfl (hno r hr)
  · rcases hk n x hx with ⟨e, he, hheld, _⟩ | ⟨hnil, _⟩
    · rw [hheld]; exact h5 n e he
    · rw [hnil]; exact ⟨List.nodup_nil, fun _ hm => nomatch hm⟩

/-- Records change beside their ids, subscribers and states. -/
theorem PlacedOn.map (h : PlacedOn sub L q im aw) (f : PageRec → PageRec)
    (hf : ∀ r, (f r).id = r.id ∧ (f r).sub = r.sub ∧ (f r).state = r.state) : PlacedOn sub (L.map f) q im aw := by
  obtain ⟨h1, h2, h3, h4, h5⟩ := h
  have hl : ∀ l, Lists L l → Lists (L.map f) l := fun l hl => by
    have : (L.map f).map PageRec.id = L.map PageRec.id := by
      rw [List.map_map]; congr 1; funext x; exact (hf x).1
    unfold Lists; rw [this]; exact hl
  refine ⟨fun y hy x hx => ?_, fun w => hl _ (h2 w), hl _ h3, hl _ h4, fun n x hx => hl _ (h5 n x hx)⟩
  obtain ⟨r, hr, rfl⟩ := List.mem_map.mp hy
  rw [(hf r).2.1] at hx
  have := h1 r hr x hx
  unfold InPlaceOn at this ⊢
  rw [(hf r).1, (hf r).2.1, (hf r).2.2]
  exact this

end Sys2Proof.Machine
end

