-- ==== Sys2Proof/Laws/AirBlocks.lean ====
section
/-! SUPPORT. The payload and the check of a block (R41, R184), and what every text block has (R47). -/

namespace Sys2Proof.Machine

@[simp] theorem withCheck_payload (p : BitVec 36) : (withCheck p).extractLsb' 12 36 = p := by
  unfold withCheck
  ext i hi
  simp only [BitVec.getElem_extractLsb']
  rw [BitVec.getLsbD_append, if_neg (by omega), Nat.add_sub_cancel_left, BitVec.getLsbD_eq_getElem hi]

@[simp] theorem withCheck_check (p : BitVec 36) : (withCheck p).extractLsb' 0 12 = crc12 p := by
  unfold withCheck
  ext i hi
  simp only [BitVec.getElem_extractLsb', Nat.zero_add]
  rw [BitVec.getLsbD_append, if_pos hi, BitVec.getLsbD_eq_getElem hi]

/-- A text block is a payload of the stream with its check. -/
theorem mem_textBlocks {e : Encoding} {t : Text} {b : Nat} {blk : Block} (h : blk ∈ textBlocks e t b) :
    ∃ i, i < b ∧ blk = withCheck (payloadOf (((textStream e t b).drop (36 * i)).take 36)) := by
  obtain ⟨i, hi, rfl⟩ := List.mem_map.mp h
  exact ⟨i, List.mem_range.mp hi, rfl⟩

end Sys2Proof.Machine
end

