-- ==== Sys2Proof/Laws/State.lean ====
section
/-! SUPPORT. What each plain update of the state leaves as it was, field by field, and what the one field it changes
becomes. -/

namespace Sys2Proof.Machine

variable (s : State)

@[simp] theorem State.setSub_hlc (n : Nat) (e : Entry) : (s.setSub n e).hlc = s.hlc := rfl
@[simp] theorem State.setSub_plans (n : Nat) (e : Entry) : (s.setSub n e).plans = s.plans := rfl
@[simp] theorem State.setSub_store (n : Nat) (e : Entry) : (s.setSub n e).store = s.store := rfl
@[simp] theorem State.setSub_aclk (n : Nat) (e : Entry) : (s.setSub n e).aclk = s.aclk := rfl
@[simp] theorem State.setSub_wsch (n : Nat) (e : Entry) : (s.setSub n e).wsch = s.wsch := rfl
@[simp] theorem State.setSub_txi (n : Nat) (e : Entry) : (s.setSub n e).txi = s.txi := rfl
@[simp] theorem State.setSub_rxi (n : Nat) (e : Entry) : (s.setSub n e).rxi = s.rxi := rfl
@[simp] theorem State.setSub_rmat (n : Nat) (e : Entry) : (s.setSub n e).rmat = s.rmat := rfl
@[simp] theorem State.setSub_rate (n : Nat) (e : Entry) : (s.setSub n e).rate = s.rate := rfl
@[simp] theorem State.setSub_acct (n : Nat) (e : Entry) : (s.setSub n e).acct = s.acct := rfl
@[simp] theorem State.setSub_office (n : Nat) (e : Entry) : (s.setSub n e).office = s.office := rfl
@[simp] theorem State.setSub_fresh (n : Nat) (e : Entry) : (s.setSub n e).fresh = s.fresh := rfl
@[simp] theorem State.setSub_pending (n : Nat) (e : Entry) : (s.setSub n e).pending = s.pending := rfl

@[simp] theorem State.putRec_hlc (r : PageRec) : (s.putRec r).hlc = s.hlc := rfl
@[simp] theorem State.putRec_subs (r : PageRec) : (s.putRec r).subs = s.subs := rfl
@[simp] theorem State.putRec_plans (r : PageRec) : (s.putRec r).plans = s.plans := rfl
@[simp] theorem State.putRec_aclk (r : PageRec) : (s.putRec r).aclk = s.aclk := rfl
@[simp] theorem State.putRec_wsch (r : PageRec) : (s.putRec r).wsch = s.wsch := rfl
@[simp] theorem State.putRec_txi (r : PageRec) : (s.putRec r).txi = s.txi := rfl
@[simp] theorem State.putRec_rxi (r : PageRec) : (s.putRec r).rxi = s.rxi := rfl
@[simp] theorem State.putRec_rmat (r : PageRec) : (s.putRec r).rmat = s.rmat := rfl
@[simp] theorem State.putRec_rate (r : PageRec) : (s.putRec r).rate = s.rate := rfl
@[simp] theorem State.putRec_acct (r : PageRec) : (s.putRec r).acct = s.acct := rfl
@[simp] theorem State.putRec_office (r : PageRec) : (s.putRec r).office = s.office := rfl
@[simp] theorem State.putRec_fresh (r : PageRec) : (s.putRec r).fresh = s.fresh := rfl
@[simp] theorem State.putRec_pending (r : PageRec) : (s.putRec r).pending = s.pending := rfl

@[simp] theorem State.setQueue_hlc (w : Window) (q : List MsgId) : (s.setQueue w q).hlc = s.hlc := rfl
@[simp] theorem State.setQueue_subs (w : Window) (q : List MsgId) : (s.setQueue w q).subs = s.subs := rfl
@[simp] theorem State.setQueue_plans (w : Window) (q : List MsgId) : (s.setQueue w q).plans = s.plans := rfl
@[simp] theorem State.setQueue_store (w : Window) (q : List MsgId) : (s.setQueue w q).store = s.store := rfl
@[simp] theorem State.setQueue_aclk (w : Window) (q : List MsgId) : (s.setQueue w q).aclk = s.aclk := rfl
@[simp] theorem State.setQueue_txi (w : Window) (q : List MsgId) : (s.setQueue w q).txi = s.txi := rfl
@[simp] theorem State.setQueue_rxi (w : Window) (q : List MsgId) : (s.setQueue w q).rxi = s.rxi := rfl
@[simp] theorem State.setQueue_rmat (w : Window) (q : List MsgId) : (s.setQueue w q).rmat = s.rmat := rfl
@[simp] theorem State.setQueue_rate (w : Window) (q : List MsgId) : (s.setQueue w q).rate = s.rate := rfl
@[simp] theorem State.setQueue_acct (w : Window) (q : List MsgId) : (s.setQueue w q).acct = s.acct := rfl
@[simp] theorem State.setQueue_office (w : Window) (q : List MsgId) : (s.setQueue w q).office = s.office := rfl
@[simp] theorem State.setQueue_fresh (w : Window) (q : List MsgId) : (s.setQueue w q).fresh = s.fresh := rfl
@[simp] theorem State.setQueue_pending (w : Window) (q : List MsgId) : (s.setQueue w q).pending = s.pending := rfl

@[simp] theorem State.modZone_hlc (z : Zone) (f : ZoneCell → ZoneCell) : (s.modZone z f).hlc = s.hlc := rfl
@[simp] theorem State.modZone_subs (z : Zone) (f : ZoneCell → ZoneCell) : (s.modZone z f).subs = s.subs := rfl
@[simp] theorem State.modZone_plans (z : Zone) (f : ZoneCell → ZoneCell) : (s.modZone z f).plans = s.plans := rfl
@[simp] theorem State.modZone_store (z : Zone) (f : ZoneCell → ZoneCell) : (s.modZone z f).store = s.store := rfl
@[simp] theorem State.modZone_aclk (z : Zone) (f : ZoneCell → ZoneCell) : (s.modZone z f).aclk = s.aclk := rfl
@[simp] theorem State.modZone_wsch (z : Zone) (f : ZoneCell → ZoneCell) : (s.modZone z f).wsch = s.wsch := rfl
@[simp] theorem State.modZone_rxi (z : Zone) (f : ZoneCell → ZoneCell) : (s.modZone z f).rxi = s.rxi := rfl
@[simp] theorem State.modZone_rmat (z : Zone) (f : ZoneCell → ZoneCell) : (s.modZone z f).rmat = s.rmat := rfl
@[simp] theorem State.modZone_rate (z : Zone) (f : ZoneCell → ZoneCell) : (s.modZone z f).rate = s.rate := rfl
@[simp] theorem State.modZone_acct (z : Zone) (f : ZoneCell → ZoneCell) : (s.modZone z f).acct = s.acct := rfl
@[simp] theorem State.modZone_office (z : Zone) (f : ZoneCell → ZoneCell) : (s.modZone z f).office = s.office := rfl
@[simp] theorem State.modZone_fresh (z : Zone) (f : ZoneCell → ZoneCell) : (s.modZone z f).fresh = s.fresh := rfl
@[simp] theorem State.modZone_pending (z : Zone) (f : ZoneCell → ZoneCell) : (s.modZone z f).pending = s.pending := rfl

@[simp] theorem State.answer_subs (l : List OutLine) : (s.answer l).subs = s.subs := rfl
@[simp] theorem State.answer_plans (l : List OutLine) : (s.answer l).plans = s.plans := rfl
@[simp] theorem State.answer_store (l : List OutLine) : (s.answer l).store = s.store := rfl
@[simp] theorem State.answer_aclk (l : List OutLine) : (s.answer l).aclk = s.aclk := rfl
@[simp] theorem State.answer_wsch (l : List OutLine) : (s.answer l).wsch = s.wsch := rfl
@[simp] theorem State.answer_txi (l : List OutLine) : (s.answer l).txi = s.txi := rfl
@[simp] theorem State.answer_rxi (l : List OutLine) : (s.answer l).rxi = s.rxi := rfl
@[simp] theorem State.answer_rmat (l : List OutLine) : (s.answer l).rmat = s.rmat := rfl
@[simp] theorem State.answer_rate (l : List OutLine) : (s.answer l).rate = s.rate := rfl
@[simp] theorem State.answer_acct (l : List OutLine) : (s.answer l).acct = s.acct := rfl
@[simp] theorem State.answer_office (l : List OutLine) : (s.answer l).office = s.office := rfl
@[simp] theorem State.answer_fresh (l : List OutLine) : (s.answer l).fresh = s.fresh := rfl
@[simp] theorem State.answer_pending (l : List OutLine) : (s.answer l).pending = s.pending := rfl

@[simp] theorem State.settle_subs : (s.settle).subs = s.subs := rfl
@[simp] theorem State.settle_plans : (s.settle).plans = s.plans := rfl
@[simp] theorem State.settle_store : (s.settle).store = s.store := rfl
@[simp] theorem State.settle_aclk : (s.settle).aclk = s.aclk := rfl
@[simp] theorem State.settle_wsch : (s.settle).wsch = s.wsch := rfl
@[simp] theorem State.settle_txi : (s.settle).txi = s.txi := rfl
@[simp] theorem State.settle_rxi : (s.settle).rxi = s.rxi := rfl
@[simp] theorem State.settle_rmat : (s.settle).rmat = s.rmat := rfl
@[simp] theorem State.settle_rate : (s.settle).rate = s.rate := rfl
@[simp] theorem State.settle_acct : (s.settle).acct = s.acct := rfl
@[simp] theorem State.settle_office : (s.settle).office = s.office := rfl
@[simp] theorem State.settle_fresh : (s.settle).fresh = s.fresh := rfl
@[simp] theorem State.settle_pending : (s.settle).pending = s.pending := rfl

@[simp] theorem State.raise_subs (k : NoticeKind) (fs : List Field) : (s.raise k fs).subs = s.subs := rfl
@[simp] theorem State.raise_plans (k : NoticeKind) (fs : List Field) : (s.raise k fs).plans = s.plans := rfl
@[simp] theorem State.raise_store (k : NoticeKind) (fs : List Field) : (s.raise k fs).store = s.store := rfl
@[simp] theorem State.raise_aclk (k : NoticeKind) (fs : List Field) : (s.raise k fs).aclk = s.aclk := rfl
@[simp] theorem State.raise_wsch (k : NoticeKind) (fs : List Field) : (s.raise k fs).wsch = s.wsch := rfl
@[simp] theorem State.raise_txi (k : NoticeKind) (fs : List Field) : (s.raise k fs).txi = s.txi := rfl
@[simp] theorem State.raise_rxi (k : NoticeKind) (fs : List Field) : (s.raise k fs).rxi = s.rxi := rfl
@[simp] theorem State.raise_rmat (k : NoticeKind) (fs : List Field) : (s.raise k fs).rmat = s.rmat := rfl
@[simp] theorem State.raise_rate (k : NoticeKind) (fs : List Field) : (s.raise k fs).rate = s.rate := rfl
@[simp] theorem State.raise_acct (k : NoticeKind) (fs : List Field) : (s.raise k fs).acct = s.acct := rfl
@[simp] theorem State.raise_office (k : NoticeKind) (fs : List Field) : (s.raise k fs).office = s.office := rfl
@[simp] theorem State.raise_fresh (k : NoticeKind) (fs : List Field) : (s.raise k fs).fresh = s.fresh := rfl
@[simp] theorem State.raise_pending (k : NoticeKind) (fs : List Field) : (s.raise k fs).pending = s.pending := rfl

@[simp] theorem State.drawn_hlc : (s.drawn).hlc = s.hlc := rfl
@[simp] theorem State.drawn_subs : (s.drawn).subs = s.subs := rfl
@[simp] theorem State.drawn_plans : (s.drawn).plans = s.plans := rfl
@[simp] theorem State.drawn_store : (s.drawn).store = s.store := rfl
@[simp] theorem State.drawn_aclk : (s.drawn).aclk = s.aclk := rfl
@[simp] theorem State.drawn_wsch : (s.drawn).wsch = s.wsch := rfl
@[simp] theorem State.drawn_txi : (s.drawn).txi = s.txi := rfl
@[simp] theorem State.drawn_rxi : (s.drawn).rxi = s.rxi := rfl
@[simp] theorem State.drawn_rmat : (s.drawn).rmat = s.rmat := rfl
@[simp] theorem State.drawn_rate : (s.drawn).rate = s.rate := rfl
@[simp] theorem State.drawn_acct : (s.drawn).acct = s.acct := rfl
@[simp] theorem State.drawn_office : (s.drawn).office = s.office := rfl
@[simp] theorem State.drawn_pending : (s.drawn).pending = s.pending := rfl

@[simp] theorem State.joinAwaiting_hlc (m : MsgId) : (s.joinAwaiting m).hlc = s.hlc := rfl
@[simp] theorem State.joinAwaiting_subs (m : MsgId) : (s.joinAwaiting m).subs = s.subs := rfl
@[simp] theorem State.joinAwaiting_plans (m : MsgId) : (s.joinAwaiting m).plans = s.plans := rfl
@[simp] theorem State.joinAwaiting_store (m : MsgId) : (s.joinAwaiting m).store = s.store := rfl
@[simp] theorem State.joinAwaiting_aclk (m : MsgId) : (s.joinAwaiting m).aclk = s.aclk := rfl
@[simp] theorem State.joinAwaiting_wsch (m : MsgId) : (s.joinAwaiting m).wsch = s.wsch := rfl
@[simp] theorem State.joinAwaiting_txi (m : MsgId) : (s.joinAwaiting m).txi = s.txi := rfl
@[simp] theorem State.joinAwaiting_rxi (m : MsgId) : (s.joinAwaiting m).rxi = s.rxi := rfl
@[simp] theorem State.joinAwaiting_rate (m : MsgId) : (s.joinAwaiting m).rate = s.rate := rfl
@[simp] theorem State.joinAwaiting_acct (m : MsgId) : (s.joinAwaiting m).acct = s.acct := rfl
@[simp] theorem State.joinAwaiting_office (m : MsgId) : (s.joinAwaiting m).office = s.office := rfl
@[simp] theorem State.joinAwaiting_fresh (m : MsgId) : (s.joinAwaiting m).fresh = s.fresh := rfl
@[simp] theorem State.joinAwaiting_pending (m : MsgId) : (s.joinAwaiting m).pending = s.pending := rfl

@[simp] theorem State.leaveAwaiting_hlc (m : MsgId) : (s.leaveAwaiting m).hlc = s.hlc := rfl
@[simp] theorem State.leaveAwaiting_subs (m : MsgId) : (s.leaveAwaiting m).subs = s.subs := rfl
@[simp] theorem State.leaveAwaiting_plans (m : MsgId) : (s.leaveAwaiting m).plans = s.plans := rfl
@[simp] theorem State.leaveAwaiting_store (m : MsgId) : (s.leaveAwaiting m).store = s.store := rfl
@[simp] theorem State.leaveAwaiting_aclk (m : MsgId) : (s.leaveAwaiting m).aclk = s.aclk := rfl
@[simp] theorem State.leaveAwaiting_wsch (m : MsgId) : (s.leaveAwaiting m).wsch = s.wsch := rfl
@[simp] theorem State.leaveAwaiting_txi (m : MsgId) : (s.leaveAwaiting m).txi = s.txi := rfl
@[simp] theorem State.leaveAwaiting_rxi (m : MsgId) : (s.leaveAwaiting m).rxi = s.rxi := rfl
@[simp] theorem State.leaveAwaiting_rate (m : MsgId) : (s.leaveAwaiting m).rate = s.rate := rfl
@[simp] theorem State.leaveAwaiting_acct (m : MsgId) : (s.leaveAwaiting m).acct = s.acct := rfl
@[simp] theorem State.leaveAwaiting_office (m : MsgId) : (s.leaveAwaiting m).office = s.office := rfl
@[simp] theorem State.leaveAwaiting_fresh (m : MsgId) : (s.leaveAwaiting m).fresh = s.fresh := rfl
@[simp] theorem State.leaveAwaiting_pending (m : MsgId) : (s.leaveAwaiting m).pending = s.pending := rfl

theorem State.setSub_subs (n : Nat) (e : Entry) : (s.setSub n e).subs = s.subs.set n e := rfl
theorem State.putRec_store (r : PageRec) :
    (s.putRec r).store = { s.store with records := s.store.records.set r.id.slot r } := rfl
@[simp] theorem State.putRec_records (r : PageRec) :
    (s.putRec r).store.records = s.store.records.set r.id.slot r := rfl
@[simp] theorem State.putRec_congested (r : PageRec) : (s.putRec r).store.congested = s.store.congested := rfl
@[simp] theorem State.putRec_gens (r : PageRec) : (s.putRec r).store.gens = s.store.gens := rfl
@[simp] theorem State.putRec_nextSeq (r : PageRec) : (s.putRec r).store.nextSeq = s.store.nextSeq := rfl
@[simp] theorem State.setQueue_build (w : Window) (q : List MsgId) : (s.setQueue w q).wsch.build = s.wsch.build := rfl
@[simp] theorem State.setQueue_onAir (w : Window) (q : List MsgId) : (s.setQueue w q).wsch.onAir = s.wsch.onAir := rfl
@[simp] theorem State.setQueue_oversize (w : Window) (q : List MsgId) :
    (s.setQueue w q).wsch.oversize = s.wsch.oversize := rfl
@[simp] theorem State.setQueue_deferrals (w : Window) (q : List MsgId) :
    (s.setQueue w q).wsch.deferrals = s.wsch.deferrals := rfl
@[simp] theorem State.settle_hlc : s.settle.hlc = s.hlc.settle := rfl
@[simp] theorem State.answer_answers (l : List OutLine) : (s.answer l).hlc.answers = s.hlc.answers ++ [l] := rfl
@[simp] theorem State.reply_eq (t : Nat) (r : Result) (fs : List Field) : s.reply t r fs = s.answer [.final t r fs] := rfl
@[simp] theorem State.raise_hlc (k : NoticeKind) (fs : List Field) :
    (s.raise k fs).hlc = s.hlc.raise k fs true := rfl
@[simp] theorem State.joinAwaiting_awaiting (m : MsgId) :
    (s.joinAwaiting m).rmat.awaiting = s.rmat.awaiting ++ [m] := rfl

end Sys2Proof.Machine
end

