-- ==== Sys2Proof/Laws/HostLine.lean ====
section
/-! SUPPORT. What raising a condition and choosing the next line leave of the Host Line Controller. -/

namespace Sys2Proof.Machine

variable (h : Hlc)

/-- A line that begins changes only the line being sent and the record of lines begun. -/
@[simp] theorem Hlc.begin_frame (l : OutLine) :
    (h.begin l).start = h.start ∧ (h.begin l).buffer = h.buffer ∧ (h.begin l).badLine = h.badLine ∧
    (h.begin l).flags = h.flags ∧ (h.begin l).levels = h.levels ∧ (h.begin l).notices = h.notices ∧
    (h.begin l).nextStamp = h.nextStamp ∧ (h.begin l).dropped = h.dropped ∧ (h.begin l).underWay = h.underWay ∧
    (h.begin l).answers = h.answers ∧ (h.begin l).busy = h.busy ∧ (h.begin l).sending = some l ∧
    (h.begin l).sent = h.sent ++ [l] := ⟨rfl, rfl, rfl, rfl, rfl, rfl, rfl, rfl, rfl, rfl, rfl, rfl, rfl⟩

/-- Choosing the next line changes neither the buffer nor any flag, level or counter. -/
@[simp] theorem Hlc.choose_frame :
    h.choose.start = h.start ∧ h.choose.buffer = h.buffer ∧ h.choose.badLine = h.badLine ∧
    h.choose.flags = h.flags ∧ h.choose.levels = h.levels ∧ h.choose.nextStamp = h.nextStamp ∧
    h.choose.dropped = h.dropped := by
  unfold Hlc.choose
  split <;> (try split) <;> (try split) <;> (try split) <;> simp

/-- At most one notice leaves the queue, from its head. -/
theorem Hlc.choose_notices : h.choose.notices = h.notices ∨ h.choose.notices = h.notices.drop 1 := by
  unfold Hlc.choose
  split <;> (try split) <;> (try split) <;> (try split) <;> simp [*]

@[simp] theorem Hlc.settle_frame :
    h.settle.start = h.start ∧ h.settle.buffer = h.buffer ∧ h.settle.badLine = h.badLine ∧
    h.settle.flags = h.flags ∧ h.settle.levels = h.levels ∧ h.settle.nextStamp = h.nextStamp ∧
    h.settle.dropped = h.dropped := by
  unfold Hlc.settle
  split <;> simp

theorem Hlc.settle_notices : h.settle.notices = h.notices ∨ h.settle.notices = h.notices.drop 1 := by
  unfold Hlc.settle
  split
  · exact h.choose_notices
  · exact Or.inl rfl

/-- While a line is being sent nothing is chosen. -/
theorem Hlc.settle_busy (hs : h.sending.isSome = true) : h.settle = h := by
  unfold Hlc.settle
  cases hq : h.sending with
  | none => simp [hq] at hs
  | some l => rfl

/-- Placing a notice changes the queue, the order of placing and the count of notices lost, nothing else. -/
@[simp] theorem Hlc.place_frame (k : NoticeKind) (fs : List Field) :
    (h.place k fs).start = h.start ∧ (h.place k fs).buffer = h.buffer ∧ (h.place k fs).badLine = h.badLine ∧
    (h.place k fs).flags = h.flags ∧ (h.place k fs).levels = h.levels ∧ (h.place k fs).sending = h.sending ∧
    (h.place k fs).underWay = h.underWay ∧ (h.place k fs).answers = h.answers ∧ (h.place k fs).busy = h.busy ∧
    (h.place k fs).sent = h.sent := by
  unfold Hlc.place
  simp only
  split
  · simp
  · split
    · split <;> simp
    · simp

@[simp] theorem length_insertNotice (lv : NoticeKind → Nat) (n : Notice) (l : List Notice) :
    (insertNotice lv n l).length = l.length + 1 := by
  induction l with
  | nil => rfl
  | cons x xs ih =>
    unfold insertNotice
    split <;> simp [ih]

/-- The notice queue never holds more than 32 (R175). -/
theorem Hlc.length_place (k : NoticeKind) (fs : List Field) (hn : h.notices.length ≤ Config.notices) :
    (h.place k fs).notices.length ≤ Config.notices := by
  unfold Hlc.place
  simp only [Config.notices] at *
  split
  · simp only [length_insertNotice]
    omega
  · split
    · split
      · simp only [length_insertNotice, List.length_dropLast]
        omega
      · exact hn
    · exact hn

/-- Raising a condition sets its flag and may place a notice; the lines, the buffer and the levels stand. -/
@[simp] theorem Hlc.raise_frame (k : NoticeKind) (fs : List Field) (c : Bool) :
    (h.raise k fs c).start = h.start ∧ (h.raise k fs c).buffer = h.buffer ∧ (h.raise k fs c).badLine = h.badLine ∧
    (h.raise k fs c).flags = h.flags.set k.index true ∧ (h.raise k fs c).levels = h.levels ∧
    (h.raise k fs c).sending = h.sending ∧ (h.raise k fs c).underWay = h.underWay ∧
    (h.raise k fs c).answers = h.answers ∧ (h.raise k fs c).busy = h.busy ∧ (h.raise k fs c).sent = h.sent := by
  unfold Hlc.raise
  simp only
  split <;> simp [Hlc.mark]

theorem Hlc.length_raise (k : NoticeKind) (fs : List Field) (c : Bool) (hn : h.notices.length ≤ Config.notices) :
    (h.raise k fs c).notices.length ≤ Config.notices := by
  unfold Hlc.raise
  simp only
  split
  · exact Hlc.length_place _ _ _ hn
  · exact hn

end Sys2Proof.Machine
end

