-- ==== Sys2Proof/Laws/Operations.lean ====
section
/-! SUPPORT. Everything the shared operations can change, said once for each: the parts of the state that stand. -/

namespace Sys2Proof.Machine

variable (s : State)

/-- It changes at most: subs. -/
@[simp] theorem State.modSub_frame (n : Nat) (f : Entry → Entry) :
    (s.modSub n f).hlc = s.hlc ∧ (s.modSub n f).plans = s.plans ∧ (s.modSub n f).store = s.store ∧
    (s.modSub n f).aclk = s.aclk ∧ (s.modSub n f).wsch = s.wsch ∧ (s.modSub n f).txi = s.txi ∧
    (s.modSub n f).rxi = s.rxi ∧ (s.modSub n f).rmat = s.rmat ∧ (s.modSub n f).rate = s.rate ∧
    (s.modSub n f).acct = s.acct ∧ (s.modSub n f).office = s.office ∧ (s.modSub n f).fresh = s.fresh ∧
    (s.modSub n f).pending = s.pending := by
  unfold State.modSub
  (repeat' split) <;> simp

/-- It changes at most: subs. -/
@[simp] theorem State.modMoney_frame (n : Nat) (f : Money → Money) :
    (s.modMoney n f).hlc = s.hlc ∧ (s.modMoney n f).plans = s.plans ∧ (s.modMoney n f).store = s.store ∧
    (s.modMoney n f).aclk = s.aclk ∧ (s.modMoney n f).wsch = s.wsch ∧ (s.modMoney n f).txi = s.txi ∧
    (s.modMoney n f).rxi = s.rxi ∧ (s.modMoney n f).rmat = s.rmat ∧ (s.modMoney n f).rate = s.rate ∧
    (s.modMoney n f).acct = s.acct ∧ (s.modMoney n f).office = s.office ∧ (s.modMoney n f).fresh = s.fresh ∧
    (s.modMoney n f).pending = s.pending := by
  unfold State.modMoney
  simp

/-- It changes at most: store, hlc. -/
@[simp] theorem State.judgeCongestion_frame :
    (s.judgeCongestion).subs = s.subs ∧ (s.judgeCongestion).plans = s.plans ∧ (s.judgeCongestion).aclk = s.aclk ∧
    (s.judgeCongestion).wsch = s.wsch ∧ (s.judgeCongestion).txi = s.txi ∧ (s.judgeCongestion).rxi = s.rxi ∧
    (s.judgeCongestion).rmat = s.rmat ∧ (s.judgeCongestion).rate = s.rate ∧ (s.judgeCongestion).acct = s.acct ∧
    (s.judgeCongestion).office = s.office ∧ (s.judgeCongestion).fresh = s.fresh ∧
    (s.judgeCongestion).pending = s.pending := by
  unfold State.judgeCongestion
  simp only
  (repeat' split) <;> simp

/-- It changes at most: subs, hlc. -/
@[simp] theorem State.barTest_frame (n : Nat) :
    (s.barTest n).plans = s.plans ∧ (s.barTest n).store = s.store ∧ (s.barTest n).aclk = s.aclk ∧
    (s.barTest n).wsch = s.wsch ∧ (s.barTest n).txi = s.txi ∧ (s.barTest n).rxi = s.rxi ∧
    (s.barTest n).rmat = s.rmat ∧ (s.barTest n).rate = s.rate ∧ (s.barTest n).acct = s.acct ∧
    (s.barTest n).office = s.office ∧ (s.barTest n).fresh = s.fresh ∧ (s.barTest n).pending = s.pending := by
  unfold State.barTest
  (repeat' split) <;> simp

/-- It changes at most: subs, hlc. -/
@[simp] theorem State.unbarTest_frame (n : Nat) :
    (s.unbarTest n).plans = s.plans ∧ (s.unbarTest n).store = s.store ∧ (s.unbarTest n).aclk = s.aclk ∧
    (s.unbarTest n).wsch = s.wsch ∧ (s.unbarTest n).txi = s.txi ∧ (s.unbarTest n).rxi = s.rxi ∧
    (s.unbarTest n).rmat = s.rmat ∧ (s.unbarTest n).rate = s.rate ∧ (s.unbarTest n).acct = s.acct ∧
    (s.unbarTest n).office = s.office ∧ (s.unbarTest n).fresh = s.fresh ∧ (s.unbarTest n).pending = s.pending := by
  unfold State.unbarTest
  (repeat' split) <;> simp

/-- It changes at most: subs, hlc. -/
@[simp] theorem State.lowTest_frame (n : Nat) :
    (s.lowTest n).plans = s.plans ∧ (s.lowTest n).store = s.store ∧ (s.lowTest n).aclk = s.aclk ∧
    (s.lowTest n).wsch = s.wsch ∧ (s.lowTest n).txi = s.txi ∧ (s.lowTest n).rxi = s.rxi ∧
    (s.lowTest n).rmat = s.rmat ∧ (s.lowTest n).rate = s.rate ∧ (s.lowTest n).acct = s.acct ∧
    (s.lowTest n).office = s.office ∧ (s.lowTest n).fresh = s.fresh ∧ (s.lowTest n).pending = s.pending := by
  unfold State.lowTest
  (repeat' split) <;> simp

/-- It changes at most: subs. -/
@[simp] theorem State.rearmLow_frame (n : Nat) :
    (s.rearmLow n).hlc = s.hlc ∧ (s.rearmLow n).plans = s.plans ∧ (s.rearmLow n).store = s.store ∧
    (s.rearmLow n).aclk = s.aclk ∧ (s.rearmLow n).wsch = s.wsch ∧ (s.rearmLow n).txi = s.txi ∧
    (s.rearmLow n).rxi = s.rxi ∧ (s.rearmLow n).rmat = s.rmat ∧ (s.rearmLow n).rate = s.rate ∧
    (s.rearmLow n).acct = s.acct ∧ (s.rearmLow n).office = s.office ∧ (s.rearmLow n).fresh = s.fresh ∧
    (s.rearmLow n).pending = s.pending := by
  unfold State.rearmLow
  simp

/-- It changes at most: subs, hlc. -/
@[simp] theorem State.usageTest_frame (n : Nat) :
    (s.usageTest n).plans = s.plans ∧ (s.usageTest n).store = s.store ∧ (s.usageTest n).aclk = s.aclk ∧
    (s.usageTest n).wsch = s.wsch ∧ (s.usageTest n).txi = s.txi ∧ (s.usageTest n).rxi = s.rxi ∧
    (s.usageTest n).rmat = s.rmat ∧ (s.usageTest n).rate = s.rate ∧ (s.usageTest n).acct = s.acct ∧
    (s.usageTest n).office = s.office ∧ (s.usageTest n).fresh = s.fresh ∧ (s.usageTest n).pending = s.pending := by
  unfold State.usageTest
  (repeat' split) <;> simp

/-- It changes at most: acct, hlc. -/
@[simp] theorem State.judgeJournalHigh_frame :
    (s.judgeJournalHigh).subs = s.subs ∧ (s.judgeJournalHigh).plans = s.plans ∧
    (s.judgeJournalHigh).store = s.store ∧ (s.judgeJournalHigh).aclk = s.aclk ∧
    (s.judgeJournalHigh).wsch = s.wsch ∧ (s.judgeJournalHigh).txi = s.txi ∧ (s.judgeJournalHigh).rxi = s.rxi ∧
    (s.judgeJournalHigh).rmat = s.rmat ∧ (s.judgeJournalHigh).rate = s.rate ∧
    (s.judgeJournalHigh).office = s.office ∧ (s.judgeJournalHigh).fresh = s.fresh ∧
    (s.judgeJournalHigh).pending = s.pending := by
  unfold State.judgeJournalHigh
  simp only
  (repeat' split) <;> simp

/-- It changes at most: hlc. -/
@[simp] theorem State.raiseLock_frame (b : Bool) :
    (s.raiseLock b).subs = s.subs ∧ (s.raiseLock b).plans = s.plans ∧ (s.raiseLock b).store = s.store ∧
    (s.raiseLock b).aclk = s.aclk ∧ (s.raiseLock b).wsch = s.wsch ∧ (s.raiseLock b).txi = s.txi ∧
    (s.raiseLock b).rxi = s.rxi ∧ (s.raiseLock b).rmat = s.rmat ∧ (s.raiseLock b).rate = s.rate ∧
    (s.raiseLock b).acct = s.acct ∧ (s.raiseLock b).office = s.office ∧ (s.raiseLock b).fresh = s.fresh ∧
    (s.raiseLock b).pending = s.pending := by
  unfold State.raiseLock
  simp

/-- It changes at most: aclk, wsch, hlc. -/
@[simp] theorem State.unlock_frame :
    (s.unlock).subs = s.subs ∧ (s.unlock).plans = s.plans ∧ (s.unlock).store = s.store ∧ (s.unlock).txi = s.txi ∧
    (s.unlock).rxi = s.rxi ∧ (s.unlock).rmat = s.rmat ∧ (s.unlock).rate = s.rate ∧ (s.unlock).acct = s.acct ∧
    (s.unlock).office = s.office ∧ (s.unlock).fresh = s.fresh ∧ (s.unlock).pending = s.pending := by
  unfold State.unlock
  simp only
  (repeat' split) <;> simp

/-- It changes at most: aclk, hlc. -/
@[simp] theorem State.goodGroup_frame :
    (s.goodGroup).subs = s.subs ∧ (s.goodGroup).plans = s.plans ∧ (s.goodGroup).store = s.store ∧
    (s.goodGroup).wsch = s.wsch ∧ (s.goodGroup).txi = s.txi ∧ (s.goodGroup).rxi = s.rxi ∧
    (s.goodGroup).rmat = s.rmat ∧ (s.goodGroup).rate = s.rate ∧ (s.goodGroup).acct = s.acct ∧
    (s.goodGroup).office = s.office ∧ (s.goodGroup).fresh = s.fresh ∧ (s.goodGroup).pending = s.pending := by
  unfold State.goodGroup
  (repeat' split) <;> simp

/-- It changes at most: aclk, wsch, hlc. -/
@[simp] theorem State.countStrobe_frame (g : Bool) :
    (s.countStrobe g).subs = s.subs ∧ (s.countStrobe g).plans = s.plans ∧ (s.countStrobe g).store = s.store ∧
    (s.countStrobe g).txi = s.txi ∧ (s.countStrobe g).rxi = s.rxi ∧ (s.countStrobe g).rmat = s.rmat ∧
    (s.countStrobe g).rate = s.rate ∧ (s.countStrobe g).acct = s.acct ∧ (s.countStrobe g).office = s.office ∧
    (s.countStrobe g).fresh = s.fresh ∧ (s.countStrobe g).pending = s.pending := by
  unfold State.countStrobe
  simp only
  (repeat' split) <;> simp

/-- It changes at most: aclk, wsch, hlc. -/
@[simp] theorem State.restartDetector_frame :
    (s.restartDetector).subs = s.subs ∧ (s.restartDetector).plans = s.plans ∧ (s.restartDetector).store = s.store ∧
    (s.restartDetector).txi = s.txi ∧ (s.restartDetector).rxi = s.rxi ∧ (s.restartDetector).rmat = s.rmat ∧
    (s.restartDetector).rate = s.rate ∧ (s.restartDetector).acct = s.acct ∧ (s.restartDetector).office = s.office ∧
    (s.restartDetector).fresh = s.fresh ∧ (s.restartDetector).pending = s.pending := by
  unfold State.restartDetector
  simp

/-- It changes at most: wsch. -/
@[simp] theorem State.fileRec_frame (r : PageRec) :
    (s.fileRec r).hlc = s.hlc ∧ (s.fileRec r).subs = s.subs ∧ (s.fileRec r).plans = s.plans ∧
    (s.fileRec r).store = s.store ∧ (s.fileRec r).aclk = s.aclk ∧ (s.fileRec r).txi = s.txi ∧
    (s.fileRec r).rxi = s.rxi ∧ (s.fileRec r).rmat = s.rmat ∧ (s.fileRec r).rate = s.rate ∧
    (s.fileRec r).acct = s.acct ∧ (s.fileRec r).office = s.office ∧ (s.fileRec r).fresh = s.fresh ∧
    (s.fileRec r).pending = s.pending := by
  unfold State.fileRec
  (repeat' split) <;> simp

/-- It changes at most: wsch. -/
@[simp] theorem State.unfile_frame (r : PageRec) :
    (s.unfile r).hlc = s.hlc ∧ (s.unfile r).subs = s.subs ∧ (s.unfile r).plans = s.plans ∧
    (s.unfile r).store = s.store ∧ (s.unfile r).aclk = s.aclk ∧ (s.unfile r).txi = s.txi ∧
    (s.unfile r).rxi = s.rxi ∧ (s.unfile r).rmat = s.rmat ∧ (s.unfile r).rate = s.rate ∧
    (s.unfile r).acct = s.acct ∧ (s.unfile r).office = s.office ∧ (s.unfile r).fresh = s.fresh ∧
    (s.unfile r).pending = s.pending := by
  unfold State.unfile
  (repeat' split) <;> simp

/-- It changes at most: subs. -/
@[simp] theorem State.holdRec_frame (r : PageRec) :
    (s.holdRec r).hlc = s.hlc ∧ (s.holdRec r).plans = s.plans ∧ (s.holdRec r).store = s.store ∧
    (s.holdRec r).aclk = s.aclk ∧ (s.holdRec r).wsch = s.wsch ∧ (s.holdRec r).txi = s.txi ∧
    (s.holdRec r).rxi = s.rxi ∧ (s.holdRec r).rmat = s.rmat ∧ (s.holdRec r).rate = s.rate ∧
    (s.holdRec r).acct = s.acct ∧ (s.holdRec r).office = s.office ∧ (s.holdRec r).fresh = s.fresh ∧
    (s.holdRec r).pending = s.pending := by
  unfold State.holdRec
  simp

/-- It changes at most: subs. -/
@[simp] theorem State.unholdRec_frame (r : PageRec) :
    (s.unholdRec r).hlc = s.hlc ∧ (s.unholdRec r).plans = s.plans ∧ (s.unholdRec r).store = s.store ∧
    (s.unholdRec r).aclk = s.aclk ∧ (s.unholdRec r).wsch = s.wsch ∧ (s.unholdRec r).txi = s.txi ∧
    (s.unholdRec r).rxi = s.rxi ∧ (s.unholdRec r).rmat = s.rmat ∧ (s.unholdRec r).rate = s.rate ∧
    (s.unholdRec r).acct = s.acct ∧ (s.unholdRec r).office = s.office ∧ (s.unholdRec r).fresh = s.fresh ∧
    (s.unholdRec r).pending = s.pending := by
  unfold State.unholdRec
  simp

/-- It changes at most: subs. -/
@[simp] theorem State.releaseTagOf_frame (r : PageRec) :
    (s.releaseTagOf r).hlc = s.hlc ∧ (s.releaseTagOf r).plans = s.plans ∧ (s.releaseTagOf r).store = s.store ∧
    (s.releaseTagOf r).aclk = s.aclk ∧ (s.releaseTagOf r).wsch = s.wsch ∧ (s.releaseTagOf r).txi = s.txi ∧
    (s.releaseTagOf r).rxi = s.rxi ∧ (s.releaseTagOf r).rmat = s.rmat ∧ (s.releaseTagOf r).rate = s.rate ∧
    (s.releaseTagOf r).acct = s.acct ∧ (s.releaseTagOf r).office = s.office ∧ (s.releaseTagOf r).fresh = s.fresh ∧
    (s.releaseTagOf r).pending = s.pending := by
  unfold State.releaseTagOf
  (repeat' split) <;> simp

/-- It changes at most: subs. -/
@[simp] theorem State.releaseReservation_frame (r : PageRec) :
    (s.releaseReservation r).hlc = s.hlc ∧ (s.releaseReservation r).plans = s.plans ∧
    (s.releaseReservation r).store = s.store ∧ (s.releaseReservation r).aclk = s.aclk ∧
    (s.releaseReservation r).wsch = s.wsch ∧ (s.releaseReservation r).txi = s.txi ∧
    (s.releaseReservation r).rxi = s.rxi ∧ (s.releaseReservation r).rmat = s.rmat ∧
    (s.releaseReservation r).rate = s.rate ∧ (s.releaseReservation r).acct = s.acct ∧
    (s.releaseReservation r).office = s.office ∧ (s.releaseReservation r).fresh = s.fresh ∧
    (s.releaseReservation r).pending = s.pending := by
  unfold State.releaseReservation
  (repeat' split) <;> simp

/-- It changes at most: subs, wsch, rmat. -/
@[simp] theorem State.leavePlace_frame (r : PageRec) :
    (s.leavePlace r).hlc = s.hlc ∧ (s.leavePlace r).plans = s.plans ∧ (s.leavePlace r).store = s.store ∧
    (s.leavePlace r).aclk = s.aclk ∧ (s.leavePlace r).txi = s.txi ∧ (s.leavePlace r).rxi = s.rxi ∧
    (s.leavePlace r).rate = s.rate ∧ (s.leavePlace r).acct = s.acct ∧ (s.leavePlace r).office = s.office ∧
    (s.leavePlace r).fresh = s.fresh ∧ (s.leavePlace r).pending = s.pending := by
  unfold State.leavePlace
  (repeat' split) <;> simp

/-- It changes at most: subs, store, wsch. -/
@[simp] theorem State.dropRec_frame (r : PageRec) :
    (s.dropRec r).hlc = s.hlc ∧ (s.dropRec r).plans = s.plans ∧ (s.dropRec r).aclk = s.aclk ∧
    (s.dropRec r).txi = s.txi ∧ (s.dropRec r).rxi = s.rxi ∧ (s.dropRec r).rmat = s.rmat ∧
    (s.dropRec r).rate = s.rate ∧ (s.dropRec r).acct = s.acct ∧ (s.dropRec r).office = s.office ∧
    (s.dropRec r).fresh = s.fresh ∧ (s.dropRec r).pending = s.pending := by
  unfold State.dropRec
  simp

/-- It changes at most: subs, store, wsch, rmat, hlc. -/
@[simp] theorem State.freeRec_frame (r : PageRec) (o : PageOutcome) :
    (s.freeRec r o).plans = s.plans ∧ (s.freeRec r o).aclk = s.aclk ∧ (s.freeRec r o).txi = s.txi ∧
    (s.freeRec r o).rxi = s.rxi ∧ (s.freeRec r o).rate = s.rate ∧ (s.freeRec r o).acct = s.acct ∧
    (s.freeRec r o).office = s.office ∧ (s.freeRec r o).fresh = s.fresh ∧ (s.freeRec r o).pending = s.pending := by
  unfold State.freeRec
  simp

/-- It changes at most: hlc. -/
@[simp] theorem State.raiseDelivered_frame (r : PageRec) (p : Report) (b : Bool) :
    (s.raiseDelivered r p b).subs = s.subs ∧ (s.raiseDelivered r p b).plans = s.plans ∧
    (s.raiseDelivered r p b).store = s.store ∧ (s.raiseDelivered r p b).aclk = s.aclk ∧
    (s.raiseDelivered r p b).wsch = s.wsch ∧ (s.raiseDelivered r p b).txi = s.txi ∧
    (s.raiseDelivered r p b).rxi = s.rxi ∧ (s.raiseDelivered r p b).rmat = s.rmat ∧
    (s.raiseDelivered r p b).rate = s.rate ∧ (s.raiseDelivered r p b).acct = s.acct ∧
    (s.raiseDelivered r p b).office = s.office ∧ (s.raiseDelivered r p b).fresh = s.fresh ∧
    (s.raiseDelivered r p b).pending = s.pending := by
  unfold State.raiseDelivered
  simp

/-- It changes at most: subs, store, wsch, rmat, hlc. -/
@[simp] theorem State.deliverOut_frame (r : PageRec) (p : Report) :
    (s.deliverOut r p).plans = s.plans ∧ (s.deliverOut r p).aclk = s.aclk ∧ (s.deliverOut r p).txi = s.txi ∧
    (s.deliverOut r p).rxi = s.rxi ∧ (s.deliverOut r p).rate = s.rate ∧ (s.deliverOut r p).acct = s.acct ∧
    (s.deliverOut r p).office = s.office ∧ (s.deliverOut r p).fresh = s.fresh ∧
    (s.deliverOut r p).pending = s.pending := by
  unfold State.deliverOut
  simp only
  (repeat' split) <;> simp

/-- It changes at most: store, hlc. -/
@[simp] theorem State.deliverLate_frame (r : PageRec) (p : Report) :
    (s.deliverLate r p).subs = s.subs ∧ (s.deliverLate r p).plans = s.plans ∧ (s.deliverLate r p).aclk = s.aclk ∧
    (s.deliverLate r p).wsch = s.wsch ∧ (s.deliverLate r p).txi = s.txi ∧ (s.deliverLate r p).rxi = s.rxi ∧
    (s.deliverLate r p).rmat = s.rmat ∧ (s.deliverLate r p).rate = s.rate ∧ (s.deliverLate r p).acct = s.acct ∧
    (s.deliverLate r p).office = s.office ∧ (s.deliverLate r p).fresh = s.fresh ∧
    (s.deliverLate r p).pending = s.pending := by
  unfold State.deliverLate
  simp only
  (repeat' split) <;> simp

/-- It changes at most: subs, store, wsch. -/
@[simp] theorem State.recoverRec_frame (m : MsgId) :
    (s.recoverRec m).hlc = s.hlc ∧ (s.recoverRec m).plans = s.plans ∧ (s.recoverRec m).aclk = s.aclk ∧
    (s.recoverRec m).txi = s.txi ∧ (s.recoverRec m).rxi = s.rxi ∧ (s.recoverRec m).rmat = s.rmat ∧
    (s.recoverRec m).rate = s.rate ∧ (s.recoverRec m).acct = s.acct ∧ (s.recoverRec m).office = s.office ∧
    (s.recoverRec m).fresh = s.fresh ∧ (s.recoverRec m).pending = s.pending := by
  unfold State.recoverRec
  (repeat' split) <;> simp

/-- It changes at most: store, wsch. -/
@[simp] theorem State.deferRec_frame (r : PageRec) :
    (s.deferRec r).hlc = s.hlc ∧ (s.deferRec r).subs = s.subs ∧ (s.deferRec r).plans = s.plans ∧
    (s.deferRec r).aclk = s.aclk ∧ (s.deferRec r).txi = s.txi ∧ (s.deferRec r).rxi = s.rxi ∧
    (s.deferRec r).rmat = s.rmat ∧ (s.deferRec r).rate = s.rate ∧ (s.deferRec r).acct = s.acct ∧
    (s.deferRec r).office = s.office ∧ (s.deferRec r).fresh = s.fresh ∧ (s.deferRec r).pending = s.pending := by
  unfold State.deferRec
  simp

/-- It changes at most: rate, hlc. -/
@[simp] theorem State.applyTariff_frame (t : Tariff) :
    (s.applyTariff t).subs = s.subs ∧ (s.applyTariff t).plans = s.plans ∧ (s.applyTariff t).store = s.store ∧
    (s.applyTariff t).aclk = s.aclk ∧ (s.applyTariff t).wsch = s.wsch ∧ (s.applyTariff t).txi = s.txi ∧
    (s.applyTariff t).rxi = s.rxi ∧ (s.applyTariff t).rmat = s.rmat ∧ (s.applyTariff t).acct = s.acct ∧
    (s.applyTariff t).office = s.office ∧ (s.applyTariff t).fresh = s.fresh ∧ (s.applyTariff t).pending = s.pending := by
  unfold State.applyTariff
  simp

/-- It changes at most: rate, hlc. -/
@[simp] theorem State.rateRoundStart_frame :
    (s.rateRoundStart).subs = s.subs ∧ (s.rateRoundStart).plans = s.plans ∧ (s.rateRoundStart).store = s.store ∧
    (s.rateRoundStart).aclk = s.aclk ∧ (s.rateRoundStart).wsch = s.wsch ∧ (s.rateRoundStart).txi = s.txi ∧
    (s.rateRoundStart).rxi = s.rxi ∧ (s.rateRoundStart).rmat = s.rmat ∧ (s.rateRoundStart).acct = s.acct ∧
    (s.rateRoundStart).office = s.office ∧ (s.rateRoundStart).fresh = s.fresh ∧
    (s.rateRoundStart).pending = s.pending := by
  unfold State.rateRoundStart
  simp only
  (repeat' split) <;> simp

/-- It changes at most: acct, hlc. -/
@[simp] theorem State.writeRec_frame (j : JournalRec) :
    (s.writeRec j).subs = s.subs ∧ (s.writeRec j).plans = s.plans ∧ (s.writeRec j).store = s.store ∧
    (s.writeRec j).aclk = s.aclk ∧ (s.writeRec j).wsch = s.wsch ∧ (s.writeRec j).txi = s.txi ∧
    (s.writeRec j).rxi = s.rxi ∧ (s.writeRec j).rmat = s.rmat ∧ (s.writeRec j).rate = s.rate ∧
    (s.writeRec j).office = s.office ∧ (s.writeRec j).fresh = s.fresh ∧ (s.writeRec j).pending = s.pending := by
  unfold State.writeRec
  simp

/-- It changes at most: acct, hlc. -/
@[simp] theorem State.loseRec_frame (j : JournalRec) :
    (s.loseRec j).subs = s.subs ∧ (s.loseRec j).plans = s.plans ∧ (s.loseRec j).store = s.store ∧
    (s.loseRec j).aclk = s.aclk ∧ (s.loseRec j).wsch = s.wsch ∧ (s.loseRec j).txi = s.txi ∧
    (s.loseRec j).rxi = s.rxi ∧ (s.loseRec j).rmat = s.rmat ∧ (s.loseRec j).rate = s.rate ∧
    (s.loseRec j).office = s.office ∧ (s.loseRec j).fresh = s.fresh ∧ (s.loseRec j).pending = s.pending := by
  unfold State.loseRec
  simp

/-- It changes at most: acct, hlc. -/
@[simp] theorem State.journal_frame (j : JournalRec) :
    (s.journal j).subs = s.subs ∧ (s.journal j).plans = s.plans ∧ (s.journal j).store = s.store ∧
    (s.journal j).aclk = s.aclk ∧ (s.journal j).wsch = s.wsch ∧ (s.journal j).txi = s.txi ∧
    (s.journal j).rxi = s.rxi ∧ (s.journal j).rmat = s.rmat ∧ (s.journal j).rate = s.rate ∧
    (s.journal j).office = s.office ∧ (s.journal j).fresh = s.fresh ∧ (s.journal j).pending = s.pending := by
  unfold State.journal
  (repeat' split) <;> simp

/-- It changes at most: subs, hlc. -/
@[simp] theorem State.chargeTests_frame (n : Nat) (a b : Money) :
    (s.chargeTests n a b).plans = s.plans ∧ (s.chargeTests n a b).store = s.store ∧
    (s.chargeTests n a b).aclk = s.aclk ∧ (s.chargeTests n a b).wsch = s.wsch ∧ (s.chargeTests n a b).txi = s.txi ∧
    (s.chargeTests n a b).rxi = s.rxi ∧ (s.chargeTests n a b).rmat = s.rmat ∧ (s.chargeTests n a b).rate = s.rate ∧
    (s.chargeTests n a b).acct = s.acct ∧ (s.chargeTests n a b).office = s.office ∧
    (s.chargeTests n a b).fresh = s.fresh ∧ (s.chargeTests n a b).pending = s.pending := by
  unfold State.chargeTests
  simp only
  (repeat' split) <;> simp

/-- It changes at most: subs, acct, hlc. -/
@[simp] theorem State.postCharge_frame (n a : Nat) (j : JournalRec) :
    (s.postCharge n a j).plans = s.plans ∧ (s.postCharge n a j).store = s.store ∧
    (s.postCharge n a j).aclk = s.aclk ∧ (s.postCharge n a j).wsch = s.wsch ∧ (s.postCharge n a j).txi = s.txi ∧
    (s.postCharge n a j).rxi = s.rxi ∧ (s.postCharge n a j).rmat = s.rmat ∧ (s.postCharge n a j).rate = s.rate ∧
    (s.postCharge n a j).office = s.office ∧ (s.postCharge n a j).fresh = s.fresh ∧
    (s.postCharge n a j).pending = s.pending := by
  unfold State.postCharge
  simp only
  (repeat' split) <;> simp

/-- It changes at most: subs, acct, hlc. -/
@[simp] theorem State.postCredit_frame (n a : Nat) (j : JournalRec) :
    (s.postCredit n a j).plans = s.plans ∧ (s.postCredit n a j).store = s.store ∧
    (s.postCredit n a j).aclk = s.aclk ∧ (s.postCredit n a j).wsch = s.wsch ∧ (s.postCredit n a j).txi = s.txi ∧
    (s.postCredit n a j).rxi = s.rxi ∧ (s.postCredit n a j).rmat = s.rmat ∧ (s.postCredit n a j).rate = s.rate ∧
    (s.postCredit n a j).office = s.office ∧ (s.postCredit n a j).fresh = s.fresh ∧
    (s.postCredit n a j).pending = s.pending := by
  unfold State.postCredit
  simp only
  (repeat' split) <;> simp

/-- It changes at most: subs, acct, hlc. -/
@[simp] theorem State.closePeriod_frame (n : Nat) (e : Entry) :
    (s.closePeriod n e).plans = s.plans ∧ (s.closePeriod n e).store = s.store ∧ (s.closePeriod n e).aclk = s.aclk ∧
    (s.closePeriod n e).wsch = s.wsch ∧ (s.closePeriod n e).txi = s.txi ∧ (s.closePeriod n e).rxi = s.rxi ∧
    (s.closePeriod n e).rmat = s.rmat ∧ (s.closePeriod n e).rate = s.rate ∧ (s.closePeriod n e).office = s.office ∧
    (s.closePeriod n e).fresh = s.fresh ∧ (s.closePeriod n e).pending = s.pending := by
  unfold State.closePeriod
  simp

end Sys2Proof.Machine
end

