-- ==== Sys2Proof/Laws/Effects.lean ====
section
/-! SUPPORT. What each shared operation does to the part it changes: the entries, the records, the queues, the awaiting
list, the flags and the journal after it, read through the functions of Access.lean. -/

namespace Sys2Proof.Machine

/-! ### Reading -/

theorem State.sub?_congr {s t : State} (h : t.subs = s.subs) (n : Nat) : t.sub? n = s.sub? n := by
  unfold State.sub?; rw [h]

theorem State.rec?_congr {s t : State} (h : t.store.records = s.store.records) (m : MsgId) : t.rec? m = s.rec? m := by
  unfold State.rec?; rw [h]

theorem State.queue_congr {s t : State} (h : t.wsch.queues = s.wsch.queues) (w : Window) : t.queue w = s.queue w := by
  unfold State.queue; rw [h]

theorem State.rec?_id {s : State} {m : MsgId} {r : PageRec} (h : s.rec? m = some r) : r.id = m := by
  unfold State.rec? at h
  split at h
  · split at h
    · rename_i hid; cases h; exact hid
    · cases h
  · cases h

variable (s : State)

/-! ### Entries -/

theorem State.sub?_setSub (n m : Nat) (e : Entry) : (s.setSub n e).sub? m = if m = n then some e else s.sub? m :=
  Table.get?_set _ _ _ _

theorem State.sub?_modSub (n m : Nat) (f : Entry → Entry) :
    (s.modSub n f).sub? m = if m = n then (s.sub? n).map f else s.sub? m := by
  unfold State.modSub
  split
  · rename_i e he; rw [State.sub?_setSub, he]; rfl
  · rename_i he
    split
    · rename_i h; rw [h, he]; rfl
    · rfl

theorem State.sub?_modMoney (n m : Nat) (f : Money → Money) :
    (s.modMoney n f).sub? m = if m = n then (s.sub? n).map (fun e => { e with money := f e.money }) else s.sub? m :=
  s.sub?_modSub n m _

/-! ### Records -/

theorem State.rec?_putRec (r : PageRec) (m : MsgId) :
    (s.putRec r).rec? m = if m.slot = r.id.slot then (if r.id = m then some r else none) else s.rec? m := by
  show (match (s.store.records.set r.id.slot r).get? m.slot with | some x => if x.id = m then some x else none | none => none)
    = _
  rw [Table.get?_set]
  by_cases h : m.slot = r.id.slot
  · rw [if_pos h, if_pos h]
  · rw [if_neg h, if_neg h]; rfl

theorem State.rec?_putRec_self (r : PageRec) : (s.putRec r).rec? r.id = some r := by
  rw [State.rec?_putRec, if_pos rfl, if_pos rfl]

theorem State.rec?_putRec_other (r : PageRec) {m : MsgId} (h : m.slot ≠ r.id.slot) : (s.putRec r).rec? m = s.rec? m := by
  rw [State.rec?_putRec, if_neg h]

/-! ### Window queues -/

theorem insertBefore_perm (before : MsgId → Bool) (m : MsgId) (l : List MsgId) :
    (insertBefore before m l).Perm (m :: l) := by
  induction l with
  | nil => exact .refl _
  | cons x xs ih =>
    unfold insertBefore
    split
    · exact .refl _
    · exact (ih.cons x).trans (.swap _ _ _)

theorem State.queue_setQueue (w v : Window) (q : List MsgId) :
    (s.setQueue w q).queue v = if v = w then q else s.queue v := by
  show (s.wsch.queues.set w q)[v] = _
  rw [Fin.getElem_fin, Vector.getElem_set]
  by_cases h : v = w
  · simp [h]
  · rw [if_neg (fun hh => h (Fin.ext hh.symm)), if_neg h]; rfl

/-- Filing puts the record's id into its home window's queue, and changes no other queue. -/
theorem State.queue_fileRec {r : PageRec} {e : Entry} (h : s.sub? r.sub = some e) :
    ((s.fileRec r).queue e.home).Perm (r.id :: s.queue e.home) ∧
      ∀ w : Window, w ≠ e.home → (s.fileRec r).queue w = s.queue w := by
  unfold State.fileRec
  rw [h]
  refine ⟨?_, fun w hw => ?_⟩
  · rw [State.queue_setQueue, if_pos rfl]; exact insertBefore_perm _ _ _
  · rw [State.queue_setQueue, if_neg hw]

theorem State.queue_unfile {r : PageRec} {e : Entry} (h : s.sub? r.sub = some e) (w : Window) :
    (s.unfile r).queue w = if w = e.home then (s.queue e.home).filter (fun m => m != r.id) else s.queue w := by
  unfold State.unfile
  rw [h]
  exact State.queue_setQueue _ _ _ _

/-- Filing and unfiling change nothing of the scheduler but a queue. -/
@[simp] theorem State.fileRec_wsch (r : PageRec) :
    (s.fileRec r).wsch.build = s.wsch.build ∧ (s.fileRec r).wsch.onAir = s.wsch.onAir ∧
    (s.fileRec r).wsch.oversize = s.wsch.oversize ∧ (s.fileRec r).wsch.deferrals = s.wsch.deferrals := by
  unfold State.fileRec
  split <;> exact ⟨rfl, rfl, rfl, rfl⟩

@[simp] theorem State.unfile_wsch (r : PageRec) :
    (s.unfile r).wsch.build = s.wsch.build ∧ (s.unfile r).wsch.onAir = s.wsch.onAir ∧
    (s.unfile r).wsch.oversize = s.wsch.oversize ∧ (s.unfile r).wsch.deferrals = s.wsch.deferrals := by
  unfold State.unfile
  split <;> exact ⟨rfl, rfl, rfl, rfl⟩

/-! ### The parts of freeing -/

theorem State.sub?_releaseTagOf (r : PageRec) (m : Nat) :
    (s.releaseTagOf r).sub? m = if m = r.sub then (s.sub? r.sub).map (fun e =>
      { e with tags := match r.tag with | some g => e.tags.filter (fun x => x != g) | none => e.tags }) else s.sub? m := by
  unfold State.releaseTagOf
  cases r.tag with
  | some g => exact s.sub?_modSub _ _ _
  | none =>
    by_cases h : m = r.sub
    · rw [if_pos h, h]; cases s.sub? r.sub <;> rfl
    · rw [if_neg h]

theorem State.sub?_releaseReservation (r : PageRec) (m : Nat) :
    (s.releaseReservation r).sub? m = if m = r.sub then (s.sub? r.sub).map (fun e =>
      { e with money := { e.money with reserved := e.money.reserved - r.reservation.getD 0 } }) else s.sub? m := by
  unfold State.releaseReservation
  cases r.reservation with
  | some a => exact s.sub?_modMoney _ _ _
  | none =>
    by_cases h : m = r.sub
    · rw [if_pos h, h]; cases s.sub? r.sub <;> rfl
    · rw [if_neg h]

theorem State.sub?_leavePlace (r : PageRec) (m : Nat) :
    (s.leavePlace r).sub? m = if m = r.sub then (s.sub? r.sub).map (fun e =>
      { e with held := if r.state = .held then e.held.filter (fun x => x != r.id) else e.held }) else s.sub? m := by
  have keep : ∀ t : State, t.subs = s.subs → r.state ≠ .held →
      t.sub? m = if m = r.sub then (s.sub? r.sub).map (fun e =>
        { e with held := if r.state = .held then e.held.filter (fun x => x != r.id) else e.held }) else s.sub? m := by
    intro t ht hr
    rw [State.sub?_congr ht]
    by_cases h : m = r.sub
    · rw [if_pos h, h]; cases s.sub? r.sub <;> simp [hr]
    · rw [if_neg h]
  unfold State.leavePlace
  cases hs : r.state with
  | held =>
    refine (s.sub?_modSub _ _ _).trans ?_
    simp
  | queued => simpa [hs] using keep _ (by simp) (by simp [hs])
  | retryWait => simpa [hs] using keep _ (by simp) (by simp [hs])
  | placed => simpa [hs] using keep _ rfl (by simp [hs])
  | awaiting => simpa [hs] using keep (s.leaveAwaiting r.id) rfl (by simp [hs])
  | delivered => simpa [hs] using keep (s.leaveAwaiting r.id) rfl (by simp [hs])

/-! ### Conditions -/

/-- Raising a condition sets its flag and no other. -/
theorem State.flags_raise (k : NoticeKind) (fs : List Field) :
    (s.raise k fs).hlc.flags = s.hlc.flags.set k.index true := by
  unfold State.raise Hlc.raise
  simp only
  split <;> simp [Hlc.mark]

/-- A flag that is set stays set when a condition is raised. -/
theorem State.flag_raise_mono (k : NoticeKind) (fs : List Field) (i : Fin 18) (h : s.hlc.flags[i] = true) :
    (s.raise k fs).hlc.flags[i] = true := by
  rw [State.flags_raise, Fin.getElem_fin, Vector.getElem_set]
  split
  · rfl
  · exact h

theorem State.flag_raise_self (k : NoticeKind) (fs : List Field) : (s.raise k fs).hlc.flags[k.index] = true := by
  rw [State.flags_raise]; simp

/-- The judgement of congestion changes nothing of the store but the congestion state, and clears no flag. -/
@[simp] theorem State.judgeCongestion_store :
    s.judgeCongestion.store.records = s.store.records ∧ s.judgeCongestion.store.gens = s.store.gens ∧
    s.judgeCongestion.store.nextSeq = s.store.nextSeq := by
  unfold State.judgeCongestion
  simp only
  (repeat' split) <;> exact ⟨rfl, rfl, rfl⟩

theorem State.flag_judgeCongestion (i : Fin 18) (h : s.hlc.flags[i] = true) :
    s.judgeCongestion.hlc.flags[i] = true := by
  unfold State.judgeCongestion
  simp only
  (repeat' split)
  · exact State.flag_raise_mono _ _ _ _ h
  · exact h
  · exact State.flag_raise_mono _ _ _ _ h
  · exact h

/-! ### The journal -/

/-- The judgement of JOURNAL_HIGH changes nothing of the account unit but the latch. -/
theorem State.judgeJournalHigh_acct :
    s.judgeJournalHigh.acct = { s.acct with highLatch := s.judgeJournalHigh.acct.highLatch } := by
  unfold State.judgeJournalHigh
  simp only
  (repeat' split) <;> rfl

/-- A record written stands at the tail of the ring under the next sequence number. -/
theorem State.writeRec_acct (j : JournalRec) :
    (s.writeRec j).acct.ring.getLast? = some { j with seq := s.acct.nextSeq } ∧
    (s.writeRec j).acct.nextSeq = s.acct.nextSeq + 1 ∧ (s.writeRec j).acct.airReserved = s.acct.airReserved ∧
    (s.writeRec j).acct.lost = s.acct.lost ∧ (s.writeRec j).acct.sweep = s.acct.sweep := by
  unfold State.writeRec
  rw [State.judgeJournalHigh_acct]
  unfold Acct.append
  simp only
  (repeat' split) <;> simp

/-! ### A command taken -/

/-- The row of a command takes the line at the head of the buffer when its words name the command. -/
theorem takeLine_head {c : HostCommand} {l : CmdLine} {rest : List CmdLine}
    (body : Nat → List RawField → State → State) (hb : s.hlc.buffer = l :: rest) (hc : l.command = some c) :
    takeLine c body s = done (body l.tag l.fields { s with hlc := { s.hlc with buffer := rest } }) := by
  unfold takeLine
  rw [hb]
  simp only [hc, if_true]

end Sys2Proof.Machine
end

