-- ==== Sys2Proof/Laws/Events.lean ====
section
/-! SUPPORT. Everything the operations of the air, the builds, the airings, the reports and the sweep can change. -/

namespace Sys2Proof.Machine

variable (s : State)

/-- It changes at most: hlc, fresh. -/
@[simp] theorem State.deny_frame (t : Nat) (d : Denial) :
    (s.deny t d).subs = s.subs ∧ (s.deny t d).plans = s.plans ∧ (s.deny t d).store = s.store ∧
    (s.deny t d).aclk = s.aclk ∧ (s.deny t d).wsch = s.wsch ∧ (s.deny t d).txi = s.txi ∧ (s.deny t d).rxi = s.rxi ∧
    (s.deny t d).rmat = s.rmat ∧ (s.deny t d).rate = s.rate ∧ (s.deny t d).acct = s.acct ∧
    (s.deny t d).office = s.office ∧ (s.deny t d).pending = s.pending := by
  cases d with
  | missing k more => cases more <;> simp [State.deny]
  | _ => simp [State.deny]

/-- It changes at most: hlc. -/
@[simp] theorem State.report_frame (t : Nat) (l : List (List Field)) (fs : List Field) :
    (s.report t l fs).subs = s.subs ∧ (s.report t l fs).plans = s.plans ∧ (s.report t l fs).store = s.store ∧
    (s.report t l fs).aclk = s.aclk ∧ (s.report t l fs).wsch = s.wsch ∧ (s.report t l fs).txi = s.txi ∧
    (s.report t l fs).rxi = s.rxi ∧ (s.report t l fs).rmat = s.rmat ∧ (s.report t l fs).rate = s.rate ∧
    (s.report t l fs).acct = s.acct ∧ (s.report t l fs).office = s.office ∧ (s.report t l fs).fresh = s.fresh ∧
    (s.report t l fs).pending = s.pending := by
  simp [State.report]

/-- It changes at most: wsch. -/
@[simp] theorem State.beginBuild_frame (r : Round) (w : Window) :
    (s.beginBuild r w).hlc = s.hlc ∧ (s.beginBuild r w).subs = s.subs ∧ (s.beginBuild r w).plans = s.plans ∧
    (s.beginBuild r w).store = s.store ∧ (s.beginBuild r w).aclk = s.aclk ∧ (s.beginBuild r w).txi = s.txi ∧
    (s.beginBuild r w).rxi = s.rxi ∧ (s.beginBuild r w).rmat = s.rmat ∧ (s.beginBuild r w).rate = s.rate ∧
    (s.beginBuild r w).acct = s.acct ∧ (s.beginBuild r w).office = s.office ∧ (s.beginBuild r w).fresh = s.fresh ∧
    (s.beginBuild r w).pending = s.pending := by
  simp [State.beginBuild]

/-- It changes at most: store. -/
@[simp] theorem State.mapRecs_frame (f : PageRec → PageRec) :
    (s.mapRecs f).hlc = s.hlc ∧ (s.mapRecs f).subs = s.subs ∧ (s.mapRecs f).plans = s.plans ∧
    (s.mapRecs f).aclk = s.aclk ∧ (s.mapRecs f).wsch = s.wsch ∧ (s.mapRecs f).txi = s.txi ∧
    (s.mapRecs f).rxi = s.rxi ∧ (s.mapRecs f).rmat = s.rmat ∧ (s.mapRecs f).rate = s.rate ∧
    (s.mapRecs f).acct = s.acct ∧ (s.mapRecs f).office = s.office ∧ (s.mapRecs f).fresh = s.fresh ∧
    (s.mapRecs f).pending = s.pending := by
  simp [State.mapRecs]

/-- It changes at most: rate, hlc, subs, store. -/
@[simp] theorem State.roundStart_frame :
    (s.roundStart).plans = s.plans ∧ (s.roundStart).aclk = s.aclk ∧ (s.roundStart).wsch = s.wsch ∧
    (s.roundStart).txi = s.txi ∧ (s.roundStart).rxi = s.rxi ∧ (s.roundStart).rmat = s.rmat ∧
    (s.roundStart).acct = s.acct ∧ (s.roundStart).office = s.office ∧ (s.roundStart).fresh = s.fresh ∧
    (s.roundStart).pending = s.pending := by
  simp [State.roundStart]

/-- It changes at most: aclk, rate, hlc, subs, store, wsch, txi. -/
@[simp] theorem State.windowStart_frame :
    (s.windowStart).plans = s.plans ∧ (s.windowStart).rxi = s.rxi ∧ (s.windowStart).rmat = s.rmat ∧
    (s.windowStart).acct = s.acct ∧ (s.windowStart).office = s.office ∧ (s.windowStart).fresh = s.fresh ∧
    (s.windowStart).pending = s.pending := by
  unfold State.windowStart
  try simp only
  (repeat' split) <;> simp

/-- It changes at most: aclk, rate, hlc, subs, store, wsch, txi. -/
@[simp] theorem State.startOrHold_frame :
    (s.startOrHold).plans = s.plans ∧ (s.startOrHold).rxi = s.rxi ∧ (s.startOrHold).rmat = s.rmat ∧
    (s.startOrHold).acct = s.acct ∧ (s.startOrHold).office = s.office ∧ (s.startOrHold).fresh = s.fresh ∧
    (s.startOrHold).pending = s.pending := by
  unfold State.startOrHold
  (repeat' split) <;> simp

/-- It changes at most: subs, store, wsch, rmat, hlc. -/
@[simp] theorem State.withdrawRec_frame (m : MsgId) :
    (s.withdrawRec m).plans = s.plans ∧ (s.withdrawRec m).aclk = s.aclk ∧ (s.withdrawRec m).txi = s.txi ∧
    (s.withdrawRec m).rxi = s.rxi ∧ (s.withdrawRec m).rate = s.rate ∧ (s.withdrawRec m).acct = s.acct ∧
    (s.withdrawRec m).office = s.office ∧ (s.withdrawRec m).fresh = s.fresh ∧ (s.withdrawRec m).pending = s.pending := by
  unfold State.withdrawRec
  (repeat' split) <;> simp

/-- It changes at most: aclk, wsch, txi. -/
@[simp] theorem State.arriveStopped_frame :
    (s.arriveStopped).hlc = s.hlc ∧ (s.arriveStopped).subs = s.subs ∧ (s.arriveStopped).plans = s.plans ∧
    (s.arriveStopped).store = s.store ∧ (s.arriveStopped).rxi = s.rxi ∧ (s.arriveStopped).rmat = s.rmat ∧
    (s.arriveStopped).rate = s.rate ∧ (s.arriveStopped).acct = s.acct ∧ (s.arriveStopped).office = s.office ∧
    (s.arriveStopped).fresh = s.fresh ∧ (s.arriveStopped).pending = s.pending := by
  simp [State.arriveStopped]

/-- It changes at most: wsch. -/
@[simp] theorem State.setBuild_frame (b : Build) :
    (s.setBuild b).hlc = s.hlc ∧ (s.setBuild b).subs = s.subs ∧ (s.setBuild b).plans = s.plans ∧
    (s.setBuild b).store = s.store ∧ (s.setBuild b).aclk = s.aclk ∧ (s.setBuild b).txi = s.txi ∧
    (s.setBuild b).rxi = s.rxi ∧ (s.setBuild b).rmat = s.rmat ∧ (s.setBuild b).rate = s.rate ∧
    (s.setBuild b).acct = s.acct ∧ (s.setBuild b).office = s.office ∧ (s.setBuild b).fresh = s.fresh ∧
    (s.setBuild b).pending = s.pending := by
  simp [State.setBuild]

/-- It changes at most: acct. -/
@[simp] theorem State.reserveAir_frame :
    (s.reserveAir).hlc = s.hlc ∧ (s.reserveAir).subs = s.subs ∧ (s.reserveAir).plans = s.plans ∧
    (s.reserveAir).store = s.store ∧ (s.reserveAir).aclk = s.aclk ∧ (s.reserveAir).wsch = s.wsch ∧
    (s.reserveAir).txi = s.txi ∧ (s.reserveAir).rxi = s.rxi ∧ (s.reserveAir).rmat = s.rmat ∧
    (s.reserveAir).rate = s.rate ∧ (s.reserveAir).office = s.office ∧ (s.reserveAir).fresh = s.fresh ∧
    (s.reserveAir).pending = s.pending := by
  unfold State.reserveAir
  (repeat' split) <;> simp

/-- It changes at most: subs, store, wsch, acct. -/
@[simp] theorem State.placeRec_frame (b : Build) (r : PageRec) (e : Entry) (z : ZoneSet) (l : List (Zone × Nat)) :
    (s.placeRec b r e z l).hlc = s.hlc ∧ (s.placeRec b r e z l).plans = s.plans ∧
    (s.placeRec b r e z l).aclk = s.aclk ∧ (s.placeRec b r e z l).txi = s.txi ∧
    (s.placeRec b r e z l).rxi = s.rxi ∧ (s.placeRec b r e z l).rmat = s.rmat ∧
    (s.placeRec b r e z l).rate = s.rate ∧ (s.placeRec b r e z l).office = s.office ∧
    (s.placeRec b r e z l).fresh = s.fresh ∧ (s.placeRec b r e z l).pending = s.pending := by
  unfold State.placeRec
  try simp only
  (repeat' split) <;> simp

/-- It changes at most: store, wsch, hlc. -/
@[simp] theorem State.deferOversize_frame (r : PageRec) :
    (s.deferOversize r).subs = s.subs ∧ (s.deferOversize r).plans = s.plans ∧ (s.deferOversize r).aclk = s.aclk ∧
    (s.deferOversize r).txi = s.txi ∧ (s.deferOversize r).rxi = s.rxi ∧ (s.deferOversize r).rmat = s.rmat ∧
    (s.deferOversize r).rate = s.rate ∧ (s.deferOversize r).acct = s.acct ∧ (s.deferOversize r).office = s.office ∧
    (s.deferOversize r).fresh = s.fresh ∧ (s.deferOversize r).pending = s.pending := by
  unfold State.deferOversize
  try simp only
  (repeat' split) <;> simp

/-- It changes at most: subs, store, wsch, acct, hlc. -/
@[simp] theorem State.offer_frame (b : Build) (r : PageRec) (e : Entry) :
    (s.offer b r e).plans = s.plans ∧ (s.offer b r e).aclk = s.aclk ∧ (s.offer b r e).txi = s.txi ∧
    (s.offer b r e).rxi = s.rxi ∧ (s.offer b r e).rmat = s.rmat ∧ (s.offer b r e).rate = s.rate ∧
    (s.offer b r e).office = s.office ∧ (s.offer b r e).fresh = s.fresh ∧ (s.offer b r e).pending = s.pending := by
  unfold State.offer
  try simp only
  (repeat' split) <;> simp

/-- It changes at most: subs, store, wsch, acct, hlc. -/
@[simp] theorem State.walk_frame (b : Build) (r : PageRec) :
    (s.walk b r).plans = s.plans ∧ (s.walk b r).aclk = s.aclk ∧ (s.walk b r).txi = s.txi ∧
    (s.walk b r).rxi = s.rxi ∧ (s.walk b r).rmat = s.rmat ∧ (s.walk b r).rate = s.rate ∧
    (s.walk b r).office = s.office ∧ (s.walk b r).fresh = s.fresh ∧ (s.walk b r).pending = s.pending := by
  unfold State.walk
  try simp only
  (repeat' split) <;> simp

/-- It changes at most: wsch, txi. -/
@[simp] theorem State.endBuild_frame (b : Build) :
    (s.endBuild b).hlc = s.hlc ∧ (s.endBuild b).subs = s.subs ∧ (s.endBuild b).plans = s.plans ∧
    (s.endBuild b).store = s.store ∧ (s.endBuild b).aclk = s.aclk ∧ (s.endBuild b).rxi = s.rxi ∧
    (s.endBuild b).rmat = s.rmat ∧ (s.endBuild b).rate = s.rate ∧ (s.endBuild b).acct = s.acct ∧
    (s.endBuild b).office = s.office ∧ (s.endBuild b).fresh = s.fresh ∧ (s.endBuild b).pending = s.pending := by
  simp [State.endBuild]

/-- It changes at most: acct. -/
@[simp] theorem State.releaseAir_frame :
    (s.releaseAir).hlc = s.hlc ∧ (s.releaseAir).subs = s.subs ∧ (s.releaseAir).plans = s.plans ∧
    (s.releaseAir).store = s.store ∧ (s.releaseAir).aclk = s.aclk ∧ (s.releaseAir).wsch = s.wsch ∧
    (s.releaseAir).txi = s.txi ∧ (s.releaseAir).rxi = s.rxi ∧ (s.releaseAir).rmat = s.rmat ∧
    (s.releaseAir).rate = s.rate ∧ (s.releaseAir).office = s.office ∧ (s.releaseAir).fresh = s.fresh ∧
    (s.releaseAir).pending = s.pending := by
  unfold State.releaseAir
  (repeat' split) <;> simp

/-- It changes at most: subs. -/
@[simp] theorem State.countPage_frame (n : Nat) (c : AttemptClass) :
    (s.countPage n c).hlc = s.hlc ∧ (s.countPage n c).plans = s.plans ∧ (s.countPage n c).store = s.store ∧
    (s.countPage n c).aclk = s.aclk ∧ (s.countPage n c).wsch = s.wsch ∧ (s.countPage n c).txi = s.txi ∧
    (s.countPage n c).rxi = s.rxi ∧ (s.countPage n c).rmat = s.rmat ∧ (s.countPage n c).rate = s.rate ∧
    (s.countPage n c).acct = s.acct ∧ (s.countPage n c).office = s.office ∧ (s.countPage n c).fresh = s.fresh ∧
    (s.countPage n c).pending = s.pending := by
  unfold State.countPage
  (repeat' split) <;> simp

/-- It changes at most: subs, store, wsch, rmat, hlc. -/
@[simp] theorem State.airMove_frame (r : PageRec) (e : Entry) :
    (s.airMove r e).plans = s.plans ∧ (s.airMove r e).aclk = s.aclk ∧ (s.airMove r e).txi = s.txi ∧
    (s.airMove r e).rxi = s.rxi ∧ (s.airMove r e).rate = s.rate ∧ (s.airMove r e).acct = s.acct ∧
    (s.airMove r e).office = s.office ∧ (s.airMove r e).fresh = s.fresh ∧ (s.airMove r e).pending = s.pending := by
  unfold State.airMove
  try simp only
  (repeat' split) <;> simp

/-- It changes at most: aclk, wsch, txi. -/
@[simp] theorem State.afterAiring_frame :
    (s.afterAiring).hlc = s.hlc ∧ (s.afterAiring).subs = s.subs ∧ (s.afterAiring).plans = s.plans ∧
    (s.afterAiring).store = s.store ∧ (s.afterAiring).rxi = s.rxi ∧ (s.afterAiring).rmat = s.rmat ∧
    (s.afterAiring).rate = s.rate ∧ (s.afterAiring).acct = s.acct ∧ (s.afterAiring).office = s.office ∧
    (s.afterAiring).fresh = s.fresh ∧ (s.afterAiring).pending = s.pending := by
  unfold State.afterAiring
  (repeat' split) <;> simp

/-- It changes at most: store, wsch, rmat. -/
@[simp] theorem State.retry_frame (r : PageRec) :
    (s.retry r).hlc = s.hlc ∧ (s.retry r).subs = s.subs ∧ (s.retry r).plans = s.plans ∧ (s.retry r).aclk = s.aclk ∧
    (s.retry r).txi = s.txi ∧ (s.retry r).rxi = s.rxi ∧ (s.retry r).rate = s.rate ∧ (s.retry r).acct = s.acct ∧
    (s.retry r).office = s.office ∧ (s.retry r).fresh = s.fresh ∧ (s.retry r).pending = s.pending := by
  simp [State.retry]

/-- It changes at most: rxi. -/
@[simp] theorem State.noise_frame :
    (s.noise).hlc = s.hlc ∧ (s.noise).subs = s.subs ∧ (s.noise).plans = s.plans ∧ (s.noise).store = s.store ∧
    (s.noise).aclk = s.aclk ∧ (s.noise).wsch = s.wsch ∧ (s.noise).txi = s.txi ∧ (s.noise).rmat = s.rmat ∧
    (s.noise).rate = s.rate ∧ (s.noise).acct = s.acct ∧ (s.noise).office = s.office ∧ (s.noise).fresh = s.fresh ∧
    (s.noise).pending = s.pending := by
  simp [State.noise]

/-- It changes at most: rxi, hlc. -/
@[simp] theorem State.joinReplies_frame (p : Report) :
    (s.joinReplies p).subs = s.subs ∧ (s.joinReplies p).plans = s.plans ∧ (s.joinReplies p).store = s.store ∧
    (s.joinReplies p).aclk = s.aclk ∧ (s.joinReplies p).wsch = s.wsch ∧ (s.joinReplies p).txi = s.txi ∧
    (s.joinReplies p).rmat = s.rmat ∧ (s.joinReplies p).rate = s.rate ∧ (s.joinReplies p).acct = s.acct ∧
    (s.joinReplies p).office = s.office ∧ (s.joinReplies p).fresh = s.fresh ∧ (s.joinReplies p).pending = s.pending := by
  unfold State.joinReplies
  try simp only
  (repeat' split) <;> simp

/-- It changes at most: rxi, hlc. -/
@[simp] theorem State.filterReport_frame (p : Report) :
    (s.filterReport p).subs = s.subs ∧ (s.filterReport p).plans = s.plans ∧ (s.filterReport p).store = s.store ∧
    (s.filterReport p).aclk = s.aclk ∧ (s.filterReport p).wsch = s.wsch ∧ (s.filterReport p).txi = s.txi ∧
    (s.filterReport p).rmat = s.rmat ∧ (s.filterReport p).rate = s.rate ∧ (s.filterReport p).acct = s.acct ∧
    (s.filterReport p).office = s.office ∧ (s.filterReport p).fresh = s.fresh ∧
    (s.filterReport p).pending = s.pending := by
  unfold State.filterReport
  (repeat' split) <;> simp

/-- It changes at most: rxi. -/
@[simp] theorem State.setLink_frame (l : LinkNo) (x : RxLink) :
    (s.setLink l x).hlc = s.hlc ∧ (s.setLink l x).subs = s.subs ∧ (s.setLink l x).plans = s.plans ∧
    (s.setLink l x).store = s.store ∧ (s.setLink l x).aclk = s.aclk ∧ (s.setLink l x).wsch = s.wsch ∧
    (s.setLink l x).txi = s.txi ∧ (s.setLink l x).rmat = s.rmat ∧ (s.setLink l x).rate = s.rate ∧
    (s.setLink l x).acct = s.acct ∧ (s.setLink l x).office = s.office ∧ (s.setLink l x).fresh = s.fresh ∧
    (s.setLink l x).pending = s.pending := by
  simp [State.setLink]

/-- It changes at most: rxi, hlc. -/
@[simp] theorem State.judgeFrame_frame (l : LinkNo) (b : List Byte) :
    (s.judgeFrame l b).subs = s.subs ∧ (s.judgeFrame l b).plans = s.plans ∧ (s.judgeFrame l b).store = s.store ∧
    (s.judgeFrame l b).aclk = s.aclk ∧ (s.judgeFrame l b).wsch = s.wsch ∧ (s.judgeFrame l b).txi = s.txi ∧
    (s.judgeFrame l b).rmat = s.rmat ∧ (s.judgeFrame l b).rate = s.rate ∧ (s.judgeFrame l b).acct = s.acct ∧
    (s.judgeFrame l b).office = s.office ∧ (s.judgeFrame l b).fresh = s.fresh ∧
    (s.judgeFrame l b).pending = s.pending := by
  unfold State.judgeFrame
  try simp only
  (repeat' split) <;> simp

/-- It changes at most: rmat. -/
@[simp] theorem State.countUnknown_frame :
    (s.countUnknown).hlc = s.hlc ∧ (s.countUnknown).subs = s.subs ∧ (s.countUnknown).plans = s.plans ∧
    (s.countUnknown).store = s.store ∧ (s.countUnknown).aclk = s.aclk ∧ (s.countUnknown).wsch = s.wsch ∧
    (s.countUnknown).txi = s.txi ∧ (s.countUnknown).rxi = s.rxi ∧ (s.countUnknown).rate = s.rate ∧
    (s.countUnknown).acct = s.acct ∧ (s.countUnknown).office = s.office ∧ (s.countUnknown).fresh = s.fresh ∧
    (s.countUnknown).pending = s.pending := by
  simp [State.countUnknown]

/-- It changes at most: rmat. -/
@[simp] theorem State.countUnexpected_frame :
    (s.countUnexpected).hlc = s.hlc ∧ (s.countUnexpected).subs = s.subs ∧ (s.countUnexpected).plans = s.plans ∧
    (s.countUnexpected).store = s.store ∧ (s.countUnexpected).aclk = s.aclk ∧ (s.countUnexpected).wsch = s.wsch ∧
    (s.countUnexpected).txi = s.txi ∧ (s.countUnexpected).rxi = s.rxi ∧ (s.countUnexpected).rate = s.rate ∧
    (s.countUnexpected).acct = s.acct ∧ (s.countUnexpected).office = s.office ∧
    (s.countUnexpected).fresh = s.fresh ∧ (s.countUnexpected).pending = s.pending := by
  simp [State.countUnexpected]

/-- It changes at most: rmat. -/
@[simp] theorem State.countStale_frame :
    (s.countStale).hlc = s.hlc ∧ (s.countStale).subs = s.subs ∧ (s.countStale).plans = s.plans ∧
    (s.countStale).store = s.store ∧ (s.countStale).aclk = s.aclk ∧ (s.countStale).wsch = s.wsch ∧
    (s.countStale).txi = s.txi ∧ (s.countStale).rxi = s.rxi ∧ (s.countStale).rate = s.rate ∧
    (s.countStale).acct = s.acct ∧ (s.countStale).office = s.office ∧ (s.countStale).fresh = s.fresh ∧
    (s.countStale).pending = s.pending := by
  simp [State.countStale]

/-- It changes at most: rmat. -/
@[simp] theorem State.countDuplicate_frame :
    (s.countDuplicate).hlc = s.hlc ∧ (s.countDuplicate).subs = s.subs ∧ (s.countDuplicate).plans = s.plans ∧
    (s.countDuplicate).store = s.store ∧ (s.countDuplicate).aclk = s.aclk ∧ (s.countDuplicate).wsch = s.wsch ∧
    (s.countDuplicate).txi = s.txi ∧ (s.countDuplicate).rxi = s.rxi ∧ (s.countDuplicate).rate = s.rate ∧
    (s.countDuplicate).acct = s.acct ∧ (s.countDuplicate).office = s.office ∧ (s.countDuplicate).fresh = s.fresh ∧
    (s.countDuplicate).pending = s.pending := by
  simp [State.countDuplicate]

/-- It changes at most: subs, store, wsch, rmat, hlc. -/
@[simp] theorem State.heard_frame (n : Nat) (p : Report) :
    (s.heard n p).plans = s.plans ∧ (s.heard n p).aclk = s.aclk ∧ (s.heard n p).txi = s.txi ∧
    (s.heard n p).rxi = s.rxi ∧ (s.heard n p).rate = s.rate ∧ (s.heard n p).acct = s.acct ∧
    (s.heard n p).office = s.office ∧ (s.heard n p).fresh = s.fresh ∧ (s.heard n p).pending = s.pending := by
  unfold State.heard
  try simp only
  (repeat' split) <;> simp

/-- It changes at most: subs, store, wsch, rmat, hlc, acct. -/
@[simp] theorem State.readRec_frame (r : PageRec) :
    (s.readRec r).plans = s.plans ∧ (s.readRec r).aclk = s.aclk ∧ (s.readRec r).txi = s.txi ∧
    (s.readRec r).rxi = s.rxi ∧ (s.readRec r).rate = s.rate ∧ (s.readRec r).office = s.office ∧
    (s.readRec r).fresh = s.fresh ∧ (s.readRec r).pending = s.pending := by
  unfold State.readRec
  try simp only
  (repeat' split) <;> simp

/-- It changes at most: subs, store, wsch, rmat, hlc, acct. -/
@[simp] theorem State.deliverRead_frame (r : PageRec) (p : Report) :
    (s.deliverRead r p).plans = s.plans ∧ (s.deliverRead r p).aclk = s.aclk ∧ (s.deliverRead r p).txi = s.txi ∧
    (s.deliverRead r p).rxi = s.rxi ∧ (s.deliverRead r p).rate = s.rate ∧ (s.deliverRead r p).office = s.office ∧
    (s.deliverRead r p).fresh = s.fresh ∧ (s.deliverRead r p).pending = s.pending := by
  unfold State.deliverRead
  try simp only
  (repeat' split) <;> simp

/-- It changes at most: subs, store, wsch, rmat, hlc, acct. -/
@[simp] theorem State.readReport_frame (n : Nat) (p : Report) :
    (s.readReport n p).plans = s.plans ∧ (s.readReport n p).aclk = s.aclk ∧ (s.readReport n p).txi = s.txi ∧
    (s.readReport n p).rxi = s.rxi ∧ (s.readReport n p).rate = s.rate ∧ (s.readReport n p).office = s.office ∧
    (s.readReport n p).fresh = s.fresh ∧ (s.readReport n p).pending = s.pending := by
  unfold State.readReport
  try simp only
  (repeat' split) <;> simp

/-- It changes at most: acct, hlc. -/
@[simp] theorem State.sweepOn_frame (c k : Nat) :
    (s.sweepOn c k).subs = s.subs ∧ (s.sweepOn c k).plans = s.plans ∧ (s.sweepOn c k).store = s.store ∧
    (s.sweepOn c k).aclk = s.aclk ∧ (s.sweepOn c k).wsch = s.wsch ∧ (s.sweepOn c k).txi = s.txi ∧
    (s.sweepOn c k).rxi = s.rxi ∧ (s.sweepOn c k).rmat = s.rmat ∧ (s.sweepOn c k).rate = s.rate ∧
    (s.sweepOn c k).office = s.office ∧ (s.sweepOn c k).fresh = s.fresh ∧ (s.sweepOn c k).pending = s.pending := by
  unfold State.sweepOn
  try simp only
  (repeat' split) <;> simp

/-- It changes at most: subs, acct, hlc. -/
@[simp] theorem State.visit_frame (w : Sweep) :
    (s.visit w).plans = s.plans ∧ (s.visit w).store = s.store ∧ (s.visit w).aclk = s.aclk ∧
    (s.visit w).wsch = s.wsch ∧ (s.visit w).txi = s.txi ∧ (s.visit w).rxi = s.rxi ∧ (s.visit w).rmat = s.rmat ∧
    (s.visit w).rate = s.rate ∧ (s.visit w).office = s.office ∧ (s.visit w).fresh = s.fresh ∧
    (s.visit w).pending = s.pending := by
  unfold State.visit
  try simp only
  (repeat' split) <;> simp

/-- It changes at most: subs, store, wsch. -/
@[simp] theorem State.recoverAll_frame (n : Nat) :
    (s.recoverAll n).hlc = s.hlc ∧ (s.recoverAll n).plans = s.plans ∧ (s.recoverAll n).aclk = s.aclk ∧
    (s.recoverAll n).txi = s.txi ∧ (s.recoverAll n).rxi = s.rxi ∧ (s.recoverAll n).rmat = s.rmat ∧
    (s.recoverAll n).rate = s.rate ∧ (s.recoverAll n).acct = s.acct ∧ (s.recoverAll n).office = s.office ∧
    (s.recoverAll n).fresh = s.fresh ∧ (s.recoverAll n).pending = s.pending := by
  unfold State.recoverAll
  split
  · rename_i e he
    clear he
    generalize e.held = l
    induction l generalizing s with
    | nil => simp
    | cons m ms ih =>
      simp only [List.foldl_cons]
      simpa using ih (s.recoverRec m)
  · simp

theorem State.foldl_withdrawRec_frame (l : List MsgId) :
    (l.foldl State.withdrawRec s).plans = s.plans ∧ (l.foldl State.withdrawRec s).aclk = s.aclk ∧
    (l.foldl State.withdrawRec s).txi = s.txi ∧ (l.foldl State.withdrawRec s).rxi = s.rxi ∧
    (l.foldl State.withdrawRec s).rate = s.rate ∧ (l.foldl State.withdrawRec s).acct = s.acct ∧
    (l.foldl State.withdrawRec s).office = s.office ∧ (l.foldl State.withdrawRec s).fresh = s.fresh ∧
    (l.foldl State.withdrawRec s).pending = s.pending := by
  induction l generalizing s with
  | nil => simp
  | cons m ms ih =>
    simp only [List.foldl_cons]
    simpa using ih (s.withdrawRec m)

/-- The posting of an airing changes at most the accounts, the entry and the host line. -/
@[simp] theorem State.airPost_frame (im : Image) (r : PageRec) (e : Entry) :
    (s.airPost im r e).1.plans = s.plans ∧ (s.airPost im r e).1.store = s.store ∧
    (s.airPost im r e).1.aclk = s.aclk ∧ (s.airPost im r e).1.wsch = s.wsch ∧
    (s.airPost im r e).1.txi = s.txi ∧ (s.airPost im r e).1.rxi = s.rxi ∧
    (s.airPost im r e).1.rmat = s.rmat ∧ (s.airPost im r e).1.rate = s.rate ∧
    (s.airPost im r e).1.office = s.office ∧ (s.airPost im r e).1.fresh = s.fresh ∧
    (s.airPost im r e).1.pending = s.pending := by
  unfold State.airPost
  simp only
  split <;> simp

/-- A refund changes at most the accounts, the entry and the host line. -/
@[simp] theorem State.postRefund_frame (r : PageRec) :
    (s.postRefund r).1.plans = s.plans ∧ (s.postRefund r).1.store = s.store ∧
    (s.postRefund r).1.aclk = s.aclk ∧ (s.postRefund r).1.wsch = s.wsch ∧
    (s.postRefund r).1.txi = s.txi ∧ (s.postRefund r).1.rxi = s.rxi ∧
    (s.postRefund r).1.rmat = s.rmat ∧ (s.postRefund r).1.rate = s.rate ∧
    (s.postRefund r).1.office = s.office ∧ (s.postRefund r).1.fresh = s.fresh ∧
    (s.postRefund r).1.pending = s.pending := by
  unfold State.postRefund
  (repeat' split) <;> simp

/-- It changes at most: subs, store, wsch, rmat, hlc, txi, acct. -/
@[simp] theorem State.withdrawImage_frame :
    (s.withdrawImage).plans = s.plans ∧ (s.withdrawImage).aclk = s.aclk ∧ (s.withdrawImage).rxi = s.rxi ∧
    (s.withdrawImage).rate = s.rate ∧ (s.withdrawImage).office = s.office ∧ (s.withdrawImage).fresh = s.fresh ∧
    (s.withdrawImage).pending = s.pending := by
  unfold State.withdrawImage
  split
  · simp
  · rename_i b _
    have h := s.foldl_withdrawRec_frame b.image.order
    simp [h]

/-- It changes at most: subs, store, wsch, rmat, hlc, acct. -/
@[simp] theorem State.airOne_frame (im : Image) (m : MsgId) :
    (s.airOne im m).plans = s.plans ∧ (s.airOne im m).aclk = s.aclk ∧ (s.airOne im m).txi = s.txi ∧
    (s.airOne im m).rxi = s.rxi ∧ (s.airOne im m).rate = s.rate ∧ (s.airOne im m).office = s.office ∧
    (s.airOne im m).fresh = s.fresh ∧ (s.airOne im m).pending = s.pending := by
  unfold State.airOne
  try simp only
  (repeat' split) <;> simp

/-- It changes at most: subs, store, rmat, hlc, acct. -/
@[simp] theorem State.miss_frame (r : PageRec) :
    (s.miss r).plans = s.plans ∧ (s.miss r).aclk = s.aclk ∧ (s.miss r).wsch = s.wsch ∧ (s.miss r).txi = s.txi ∧
    (s.miss r).rxi = s.rxi ∧ (s.miss r).rate = s.rate ∧ (s.miss r).office = s.office ∧ (s.miss r).fresh = s.fresh ∧
    (s.miss r).pending = s.pending := by
  unfold State.miss
  simp

/-- It changes at most: subs, store, wsch, rmat, hlc, acct. -/
@[simp] theorem State.expire_frame (r : PageRec) :
    (s.expire r).plans = s.plans ∧ (s.expire r).aclk = s.aclk ∧ (s.expire r).txi = s.txi ∧
    (s.expire r).rxi = s.rxi ∧ (s.expire r).rate = s.rate ∧ (s.expire r).office = s.office ∧
    (s.expire r).fresh = s.fresh ∧ (s.expire r).pending = s.pending := by
  unfold State.expire
  try simp only
  (repeat' split) <;> simp

/-- It changes at most: subs, store, wsch, rmat, hlc, acct. -/
@[simp] theorem State.byKind_frame (n : Nat) (e : Entry) (p : Report) :
    (s.byKind n e p).plans = s.plans ∧ (s.byKind n e p).aclk = s.aclk ∧ (s.byKind n e p).txi = s.txi ∧
    (s.byKind n e p).rxi = s.rxi ∧ (s.byKind n e p).rate = s.rate ∧ (s.byKind n e p).office = s.office ∧
    (s.byKind n e p).fresh = s.fresh ∧ (s.byKind n e p).pending = s.pending := by
  unfold State.byKind
  try simp only
  (repeat' split) <;> simp

/-- It changes at most: subs, store, wsch, rmat, hlc, acct. -/
@[simp] theorem State.takeReport_frame (p : Report) :
    (s.takeReport p).plans = s.plans ∧ (s.takeReport p).aclk = s.aclk ∧ (s.takeReport p).txi = s.txi ∧
    (s.takeReport p).rxi = s.rxi ∧ (s.takeReport p).rate = s.rate ∧ (s.takeReport p).office = s.office ∧
    (s.takeReport p).fresh = s.fresh ∧ (s.takeReport p).pending = s.pending := by
  unfold State.takeReport
  try simp only
  (repeat' split) <;> simp

end Sys2Proof.Machine
end

