-- ==== Sys2Proof/Laws/Journal.lean ====
section
/-! SUPPORT. That every posting leaves the journal its room (R157, R159): one AIR reservation for each record in an
image. -/

namespace Sys2Proof.Machine

variable {s t : State}

/-- `State.Roomy` with the number of records in images apart. -/
def State.RoomFor (s : State) (n : Nat) : Prop :=
  match s.office.journalMode with
  | .hold => s.acct.airReserved = n ∧ s.acct.unread + n ≤ Config.journal
  | .overwrite => s.acct.airReserved = 0

theorem State.roomy_iff (s : State) : s.Roomy ↔ s.RoomFor s.inImages.length := by
  unfold State.Roomy State.RoomFor
  cases s.office.journalMode with
  | hold =>
    simp only
    omega
  | overwrite => exact Iff.rfl

/-- The room reads the mode, the reservations and the unread records. -/
theorem State.RoomFor.congr {n : Nat} (h : s.RoomFor n) (ho : t.office.journalMode = s.office.journalMode)
    (ha : t.acct.airReserved = s.acct.airReserved) (hu : t.acct.unread = s.acct.unread) : t.RoomFor n := by
  unfold State.RoomFor at *
  rw [ho, ha, hu]
  exact h

/-- A record written while fewer than 1024 are unread is one unread more. -/
theorem Acct.unread_append {a : Acct} (h : a.unread < Config.journal) (j : JournalRec) :
    (a.append j).unread = a.unread + 1 := by
  have key : (a.nextSeq + 1 - a.cursor).toNat = (a.nextSeq - a.cursor).toNat + 1 := by
    unfold Acct.unread at h
    have e : a.nextSeq + 1 - a.cursor = (a.nextSeq - a.cursor) + 1 := by
      rw [BitVec.sub_eq_add_neg, BitVec.sub_eq_add_neg, BitVec.add_assoc, BitVec.add_comm 1, ← BitVec.add_assoc]
    rw [e, BitVec.toNat_add]
    show ((a.nextSeq - a.cursor).toNat + 1) % 4294967296 = _
    simp only [Config.journal] at h
    omega
  unfold Acct.append
  simp only
  split
  · exact key
  · rw [if_neg (by omega)]
    exact key

theorem State.writeRec_counts (s : State) (j : JournalRec) :
    (s.writeRec j).acct.unread = (s.acct.append j).unread ∧ (s.writeRec j).acct.airReserved = s.acct.airReserved ∧
      (s.writeRec j).office = s.office := by
  refine ⟨?_, (s.writeRec_acct j).2.2.1, by simp⟩
  unfold State.writeRec
  rw [State.judgeJournalHigh_acct]
  rfl

/-- A record that is written takes an open entry. -/
theorem State.RoomFor.writeRec {n : Nat} (h : s.RoomFor n) (hj : s.journalFull = false) (j : JournalRec) :
    (s.writeRec j).RoomFor n := by
  obtain ⟨w1, w2, w3⟩ := s.writeRec_counts j
  unfold State.RoomFor at h ⊢
  rw [w1, w2, w3]
  cases hm : s.office.journalMode with
  | hold =>
    rw [hm] at h
    unfold State.journalFull Acct.openEntries Acct.freeEntries at hj
    simp only [hm, beq_self_eq_true, Bool.true_and, beq_eq_false_iff_ne, ne_eq] at hj
    have hu : s.acct.unread < Config.journal := by omega
    refine ⟨h.1, ?_⟩
    rw [Acct.unread_append hu]
    omega
  | overwrite => rw [hm] at h; exact h

/-- A posting beside AIR is written into an open entry or lost. -/
theorem State.RoomFor.journal {n : Nat} (h : s.RoomFor n) {j : JournalRec} (hk : j.kind ≠ .air) :
    (s.journal j).RoomFor n := by
  unfold State.journal
  split
  · exact h.congr rfl rfl rfl
  · rename_i hf
    refine h.writeRec ?_ j
    cases hj : s.journalFull with
    | false => rfl
    | true => exact absurd ⟨hk, hj⟩ hf

theorem State.RoomFor.postCharge {n : Nat} (h : s.RoomFor n) (m a : Nat) {j : JournalRec} (hk : j.kind ≠ .air) :
    (s.postCharge m a j).RoomFor n := by
  unfold State.postCharge
  split
  · exact h
  · split
    · exact h.journal hk
    · exact State.RoomFor.journal (h.congr (by simp) (by simp) (by simp)) hk

theorem State.RoomFor.postCredit {n : Nat} (h : s.RoomFor n) (m a : Nat) {j : JournalRec} (hk : j.kind ≠ .air) :
    (s.postCredit m a j).RoomFor n := by
  unfold State.postCredit
  split
  · exact h
  · refine State.RoomFor.journal (h.congr ?_ ?_ ?_) hk <;> (simp only; split <;> simp)

theorem State.RoomFor.closePeriod {n : Nat} (h : s.RoomFor n) (hj : s.journalFull = false) (m : Nat) (e : Entry) :
    (s.closePeriod m e).RoomFor n := by
  unfold State.closePeriod
  exact State.RoomFor.writeRec (s := s.setSub m _) h hj _

/-- The posting of an airing turns one AIR reservation into the record (R157). -/
theorem State.RoomFor.airPost {n : Nat} (h : s.RoomFor (n + 1)) (image : Image) (r : PageRec) {e : Entry}
    (he : s.sub? r.sub = some e) : (s.airPost image r e).1.RoomFor n := by
  have hw : ∀ (u : State) (j : JournalRec), u.office = s.office → u.acct = s.releaseAir.acct →
      (u.writeRec j).RoomFor n := by
    intro u j h1 h2
    obtain ⟨w1, w2, w3⟩ := u.writeRec_counts j
    unfold State.RoomFor at h ⊢
    rw [w1, w2, w3, h1, h2]
    unfold State.releaseAir
    cases hm : s.office.journalMode with
    | hold =>
      rw [hm] at h
      simp only at h ⊢
      refine ⟨by omega, ?_⟩
      rw [Acct.unread_append (a := { s.acct with airReserved := s.acct.airReserved - 1 })
        (by show s.acct.unread < _; omega)]
      show s.acct.unread + 1 + n ≤ _
      omega
    | overwrite => rw [hm] at h; exact h
  have hp : ∀ (a : Nat) (j : JournalRec), j.kind = .air → (s.releaseAir.postCharge r.sub a j).RoomFor n := by
    intro a j hk
    unfold State.postCharge
    rw [State.sub?_congr (s := s) (by simp), he]
    simp only
    split
    · unfold State.journal
      rw [if_neg (fun hh => hh.1 hk)]
      exact hw _ _ (by simp) rfl
    · unfold State.journal
      rw [if_neg (fun hh => hh.1 hk)]
      exact hw _ _ (by simp) (by simp)
  have hc : ∀ (u : State) (cls : AttemptClass) (q : PageRec), u.RoomFor n →
      (u.countPage r.sub cls).RoomFor n ∧ ((u.countPage r.sub cls).releaseReservation q).RoomFor n := fun u cls q hu =>
    ⟨hu.congr (by simp) (by simp) (by simp), hu.congr (by simp) (by simp) (by simp)⟩
  unfold State.airPost
  simp only
  split
  · refine (hc _ _ _ (hp _ _ ?_)).2
    rfl
  · refine (hc _ _ r (hp _ _ ?_)).1
    rfl

/-- A placement takes an AIR reservation where the walk finds room (R78, R157). -/
theorem State.RoomFor.reserveAir {n : Nat} (h : s.RoomFor n) (hr : s.roomToPlace = true) : s.reserveAir.RoomFor (n + 1) := by
  unfold State.RoomFor at h ⊢
  rw [show s.reserveAir.office = s.office by simp]
  unfold State.reserveAir
  unfold State.roomToPlace Acct.freeEntries at hr
  cases hm : s.office.journalMode with
  | hold =>
    rw [hm] at h
    simp only [hm, Bool.or_eq_true, beq_iff_eq, reduceCtorEq, decide_eq_true_eq, false_or] at hr
    simp only at h ⊢
    refine ⟨by omega, ?_⟩
    show s.acct.unread + (n + 1) ≤ _
    omega
  | overwrite => rw [hm] at h; exact h

end Sys2Proof.Machine
end

