-- ==== Sys2Proof/Laws/Linked.lean ====
section
/-! SUPPORT. Entries, records and places in agreement (`State.Linked`), with the records in images as a list apart: what
keeps the agreement as it stands, and what a record's leaving its place, its change, its taking a place and its freeing
do to it. -/

namespace Sys2Proof.Machine

/-! ### Slots -/

/-- Each record stands in its own slot. -/
def State.Keyed (s : State) : Prop := s.store.records.wf = true ∧ ∀ c ∈ s.store.records.cells, c.2.id.slot = c.1

theorem State.keyed_of {s : State} (hc : s.Canonical) (hs : s.Sized) : s.Keyed :=
  ⟨hc.2.1, fun c h => (hs.2.2.2.2.2.2.2.2.1 c h).2.1⟩

/-- The records of the slots but one. -/
def State.others (s : State) (slot : Nat) : List PageRec := (s.store.records.erase slot).values

theorem get?_of_rec? {s : State} {m : MsgId} {r : PageRec} (h : s.rec? m = some r) :
    s.store.records.get? m.slot = some r := by
  unfold State.rec? at h
  split at h
  · split at h
    · rename_i h1 _; cases h; exact h1
    · cases h
  · cases h

theorem rec?_of_get? {s : State} {k : Nat} {r : PageRec} (h : s.store.records.get? k = some r) (hk : r.id.slot = k) :
    s.rec? r.id = some r := by
  unfold State.rec?
  rw [hk, h]
  simp

theorem State.mem_live_of_rec? {s : State} {m : MsgId} {r : PageRec} (h : s.rec? m = some r) : r ∈ s.live :=
  List.mem_map_of_mem (f := Prod.snd) (Table.mem_of_get? (get?_of_rec? h))

theorem Table.get?_of_mem {α : Type} {t : Table α} (h : t.wf = true) {k : Nat} {v : α} (hm : (k, v) ∈ t.cells) :
    t.get? k = some v := by
  obtain ⟨cells⟩ := t
  simp only [Table.wf, decide_eq_true_eq] at h
  unfold Table.get?
  induction cells with
  | nil => cases hm
  | cons c cs ih =>
    simp only [List.map_cons, List.pairwise_cons] at h
    rcases List.mem_cons.mp hm with rfl | hm
    · simp
    · have : c.1 < k := h.1 k (List.mem_map_of_mem (f := Prod.fst) hm)
      simp only [List.find?_cons, beq_eq_false_iff_ne.mpr (Nat.ne_of_lt this)]
      exact ih hm h.2

theorem State.Keyed.rec?_of_mem {s : State} (hK : s.Keyed) {r : PageRec} (h : r ∈ s.live) : s.rec? r.id = some r := by
  obtain ⟨c, hc, rfl⟩ := List.mem_map.mp h
  exact rec?_of_get? (Table.get?_of_mem hK.1 hc) (hK.2 c hc)

theorem State.Keyed.isSome_rec? {s : State} (hK : s.Keyed) (m : MsgId) :
    (s.rec? m).isSome = true ↔ m ∈ s.live.map PageRec.id := by
  constructor
  · intro h
    obtain ⟨r, hr⟩ := Option.isSome_iff_exists.mp h
    exact List.mem_map.mpr ⟨r, State.mem_live_of_rec? hr, State.rec?_id hr⟩
  · intro h
    obtain ⟨r, hr, rfl⟩ := List.mem_map.mp h
    rw [hK.rec?_of_mem hr]
    rfl

theorem State.Keyed.placed_iff {s : State} (hK : s.Keyed) :
    s.Placed ↔ PlacedOn s.sub? s.live s.queue s.inImages s.rmat.awaiting := by
  unfold State.Placed PlacedOn Lists
  simp only [hK.isSome_rec?]
  rfl

theorem Table.mem_cells_set {α : Type} {t : Table α} {k : Nat} {v : α} {c : Nat × α} (h : c ∈ (t.set k v).cells) :
    c = (k, v) ∨ c ∈ t.cells := by
  obtain ⟨cells⟩ := t
  simp only [Table.set] at h
  induction cells with
  | nil => simpa [insertCell] using h
  | cons x xs ih =>
    unfold insertCell at h
    split at h
    · simpa using h
    · split at h
      · simp only [List.mem_cons] at h ⊢; tauto
      · simp only [List.mem_cons] at h ⊢
        rcases h with h | h
        · exact .inr (.inl h)
        · rcases ih h with h | h
          · exact .inl h
          · exact .inr (.inr h)

theorem State.Keyed.putRec {s : State} (hK : s.Keyed) (r : PageRec) : (s.putRec r).Keyed :=
  ⟨Table.wf_set hK.1 _ _, fun c hc => by
    rcases Table.mem_cells_set hc with rfl | hc
    · rfl
    · exact hK.2 c hc⟩

theorem State.Keyed.congr {s t : State} (hK : s.Keyed) (h : t.store.records = s.store.records) : t.Keyed := by
  unfold State.Keyed; rw [h]; exact hK

theorem State.dropRec_records (s : State) (r : PageRec) :
    (s.dropRec r).store.records = s.store.records.erase r.id.slot := by
  unfold State.dropRec
  simp

theorem State.Keyed.erase {s t : State} (hK : s.Keyed) {k : Nat} (h : t.store.records = s.store.records.erase k) :
    t.Keyed := by
  unfold State.Keyed
  rw [h]
  exact ⟨Table.wf_erase hK.1 _, fun c hc => hK.2 c (List.mem_of_mem_filter hc)⟩

theorem State.Keyed.set {s t : State} (hK : s.Keyed) {r : PageRec}
    (h : t.store.records = s.store.records.set r.id.slot r) : t.Keyed :=
  (hK.putRec r).congr h

/-- The live records are the one in a slot and the others. -/
theorem State.live_perm {s : State} (hw : s.store.records.wf = true) {m : MsgId} {r : PageRec} (h : s.rec? m = some r) :
    s.live.Perm (r :: s.others m.slot) :=
  (Table.values_erase_perm hw (get?_of_rec? h)).1

theorem State.live_putRec_perm {s : State} (hw : s.store.records.wf = true) {r r' : PageRec} (h : s.rec? r.id = some r)
    (hid : r'.id = r.id) : (s.putRec r').live.Perm (r' :: s.others r.id.slot) := by
  show (s.store.records.set r'.id.slot r').values.Perm _
  rw [hid]
  exact (Table.values_erase_perm hw (get?_of_rec? h)).2 r'

theorem State.others_putRec (s : State) (r : PageRec) : (s.putRec r).others r.id.slot = s.others r.id.slot := by
  show ((s.store.records.set r.id.slot r).erase r.id.slot).values = _
  have : (s.store.records.set r.id.slot r).erase r.id.slot = s.store.records.erase r.id.slot := by
    unfold Table.erase Table.set
    congr 1
    show (insertCell r.id.slot r s.store.records.cells).filter _ = _
    induction s.store.records.cells with
    | nil => simp [insertCell]
    | cons c cs ih =>
      unfold insertCell
      split
      · simp
      · split
        · rename_i hk; simp [← hk]
        · simp [List.filter_cons, ih]
  rw [this]
  rfl

theorem State.Keyed.not_mem_others {s : State} (hK : s.Keyed) (m : MsgId) :
    m ∉ (s.others m.slot).map PageRec.id := by
  intro h
  obtain ⟨r, hr, hid⟩ := List.mem_map.mp h
  obtain ⟨c, hc, rfl⟩ := List.mem_map.mp hr
  have := hK.2 c (List.mem_of_mem_filter hc)
  rw [hid] at this
  have hne := (List.mem_filter.mp hc).2
  simp [this] at hne

theorem State.others_congr {s t : State} (h : t.store.records = s.store.records) (k : Nat) : t.others k = s.others k := by
  unfold State.others; rw [h]

/-! ### Agreement over a list of the records in images -/

/-- Records in their slots, and entries, records and places in agreement, `im` the records in images. -/
def State.SoundIn (s : State) (im : List MsgId) : Prop :=
  s.Keyed ∧ AgreesOn s.sub? s.live ∧ PlacedOn s.sub? s.live s.queue im s.rmat.awaiting

/-- The same, but that the live record `r` is in no place. -/
def State.LooseIn (s : State) (r : PageRec) (im : List MsgId) : Prop :=
  s.Keyed ∧ s.rec? r.id = some r ∧ AgreesOn s.sub? (r :: s.others r.id.slot) ∧
    PlacedOn s.sub? (s.others r.id.slot) s.queue im s.rmat.awaiting

theorem State.soundIn_iff {s : State} (hK : s.Keyed) : s.SoundIn s.inImages ↔ s.Linked := by
  unfold State.SoundIn State.Linked
  rw [State.agrees_iff, hK.placed_iff]
  exact and_iff_right hK

/-- An entry says the same of its records. -/
def Entry.SameLinks (e x : Entry) : Prop :=
  x.live = e.live ∧ x.tags = e.tags ∧ x.money.reserved = e.money.reserved ∧ x.held = e.held ∧ x.home = e.home

theorem Entry.SameLinks.refl (e : Entry) : e.SameLinks e := ⟨rfl, rfl, rfl, rfl, rfl⟩

/-- What the agreement reads stands, the images apart. -/
def State.Kept (s t : State) : Prop :=
  (∀ n x, t.sub? n = some x → ∃ e, s.sub? n = some e ∧ e.SameLinks x) ∧
    (∀ n, (s.sub? n).isSome = true → (t.sub? n).isSome = true) ∧ t.store.records = s.store.records ∧
    t.wsch.queues = s.wsch.queues ∧ t.rmat.awaiting = s.rmat.awaiting

theorem State.Kept.trans {s t u : State} (h : s.Kept t) (g : t.Kept u) : s.Kept u := by
  obtain ⟨h1, h2, h3, h4, h5⟩ := h
  obtain ⟨g1, g2, g3, g4, g5⟩ := g
  refine ⟨fun n x hx => ?_, fun n hn => g2 n (h2 n hn), g3.trans h3, g4.trans h4, g5.trans h5⟩
  obtain ⟨y, hy, k1, k2, k3, k4, k5⟩ := g1 n x hx
  obtain ⟨e, he, j1, j2, j3, j4, j5⟩ := h1 n y hy
  exact ⟨e, he, k1.trans j1, k2.trans j2, k3.trans j3, k4.trans j4, k5.trans j5⟩

theorem State.kept_of {s t : State} (hs : t.subs = s.subs) (hr : t.store.records = s.store.records)
    (hq : t.wsch.queues = s.wsch.queues) (ha : t.rmat.awaiting = s.rmat.awaiting) : s.Kept t :=
  ⟨fun n x hx => ⟨x, by rw [← State.sub?_congr hs n]; exact hx, .refl x⟩,
    fun n hn => by rw [State.sub?_congr hs n]; exact hn, hr, hq, ha⟩

theorem State.kept_modSub (s : State) (n : Nat) (f : Entry → Entry) (hf : ∀ e : Entry, e.SameLinks (f e)) :
    State.Kept s (s.modSub n f) := by
  refine ⟨fun m x hx => ?_, fun m hm => ?_, by simp, by simp, by simp⟩
  · rw [State.sub?_modSub] at hx
    split at hx
    · rename_i h
      subst h
      obtain ⟨e, he, rfl⟩ := Option.map_eq_some_iff.mp hx
      exact ⟨e, he, hf e⟩
    · exact ⟨x, hx, .refl x⟩
  · rw [State.sub?_modSub]
    split
    · rename_i h
      subst h
      simpa using hm
    · exact hm

theorem State.kept_setSub {s : State} {n : Nat} {e x : Entry} (he : s.sub? n = some e) (hx : e.SameLinks x) :
    s.Kept (s.setSub n x) := by
  refine ⟨fun m y hy => ?_, fun m hm => ?_, rfl, rfl, rfl⟩
  · rw [State.sub?_setSub] at hy
    split at hy
    · rename_i h
      subst h
      cases hy
      exact ⟨e, he, hx⟩
    · exact ⟨y, hy, .refl y⟩
  · rw [State.sub?_setSub]
    split
    · rfl
    · exact hm

theorem State.SoundIn.kept {s t : State} {im : List MsgId} (h : s.SoundIn im) (k : s.Kept t) : t.SoundIn im := by
  obtain ⟨hK, hA, hP⟩ := h
  obtain ⟨k1, k2, k3, k4, k5⟩ := k
  have h2 : t.live = s.live := by unfold State.live; rw [k3]
  have h3 : t.queue = s.queue := funext fun w => State.queue_congr k4 w
  refine ⟨hK.congr k3, ?_, ?_⟩
  · rw [h2]
    refine hA.entries (fun n x hx => ?_) (fun n e he _ => k2 n (by rw [he]; rfl))
    obtain ⟨e, he, j1, j2, j3, _⟩ := k1 n x hx
    exact .inl ⟨e, he, j1, j2, j3⟩
  · rw [h2, h3, k5]
    refine hP.entries (fun n x hx => ?_)
    obtain ⟨e, he, _, _, _, j4, j5⟩ := k1 n x hx
    exact .inl ⟨e, he, j4, .inl j5⟩

theorem State.LooseIn.kept {s t : State} {r : PageRec} {im : List MsgId} (h : s.LooseIn r im) (k : s.Kept t) :
    t.LooseIn r im := by
  obtain ⟨hK, hrec, hA, hP⟩ := h
  obtain ⟨k1, k2, k3, k4, k5⟩ := k
  have h3 : t.queue = s.queue := funext fun w => State.queue_congr k4 w
  refine ⟨hK.congr k3, by rw [State.rec?_congr k3]; exact hrec, ?_, ?_⟩
  · rw [State.others_congr k3]
    refine hA.entries (fun n x hx => ?_) (fun n e he _ => k2 n (by rw [he]; rfl))
    obtain ⟨e, he, j1, j2, j3, _⟩ := k1 n x hx
    exact .inl ⟨e, he, j1, j2, j3⟩
  · rw [State.others_congr k3, h3, k5]
    refine hP.entries (fun n x hx => ?_)
    obtain ⟨e, he, _, _, _, j4, j5⟩ := k1 n x hx
    exact .inl ⟨e, he, j4, .inl j5⟩

/-! ### Reading a sound state -/

theorem State.SoundIn.parts {s : State} {im : List MsgId} (h : s.SoundIn im) {r : PageRec} (hr : s.rec? r.id = some r) :
    AgreesOn s.sub? (r :: s.others r.id.slot) ∧
      PlacedOn s.sub? (r :: s.others r.id.slot) s.queue im s.rmat.awaiting :=
  ⟨h.2.1.perm (State.live_perm h.1.1 hr), h.2.2.perm (State.live_perm h.1.1 hr)⟩

/-- The entry of a live record. -/
theorem State.SoundIn.entry {s : State} {im : List MsgId} (h : s.SoundIn im) {m : MsgId} {r : PageRec}
    (hr : s.rec? m = some r) : ∃ e, s.sub? r.sub = some e :=
  Option.isSome_iff_exists.mp (h.2.1.2.1 r (State.mem_live_of_rec? hr)).1

theorem State.SoundIn.whole {s : State} {im : List MsgId} (h : s.SoundIn im) {m : MsgId} {r : PageRec}
    (hr : s.rec? m = some r) : r.Whole := (h.2.1.2.1 r (State.mem_live_of_rec? hr)).2

/-- Where a live record stands. -/
theorem State.SoundIn.inPlace {s : State} {im : List MsgId} (h : s.SoundIn im) {m : MsgId} {r : PageRec} {e : Entry}
    (hr : s.rec? m = some r) (he : s.sub? r.sub = some e) : InPlaceOn s.sub? s.queue im s.rmat.awaiting r e :=
  h.2.2.1 r (State.mem_live_of_rec? hr) e he

theorem State.SoundIn.rec_of_lists {s : State} {im : List MsgId} (h : s.SoundIn im) {l : List MsgId}
    (hl : Lists s.live l) {m : MsgId} (hm : m ∈ l) : ∃ r, s.rec? m = some r ∧ r.id = m := by
  obtain ⟨r, hr, rfl⟩ := List.mem_map.mp (hl.2 m hm)
  exact ⟨r, h.1.rec?_of_mem hr, rfl⟩

/-- A record in no place is in none of the lists. -/
theorem State.LooseIn.notIn {s : State} {r : PageRec} {im : List MsgId} (h : s.LooseIn r im) {l : List MsgId}
    (hl : Lists (s.others r.id.slot) l) : r.id ∉ l := fun hm => h.1.not_mem_others r.id (hl.2 _ hm)

theorem State.LooseIn.entry {s : State} {r : PageRec} {im : List MsgId} (h : s.LooseIn r im) :
    ∃ e, s.sub? r.sub = some e := Option.isSome_iff_exists.mp (h.2.2.1.2.1 r (List.mem_cons_self ..)).1

theorem State.LooseIn.whole {s : State} {r : PageRec} {im : List MsgId} (h : s.LooseIn r im) : r.Whole :=
  (h.2.2.1.2.1 r (List.mem_cons_self ..)).2

/-! ### A record leaves its place -/

/-- One record leaves its place and nothing else happens. -/
theorem State.SoundIn.loosen {s t : State} {im im' : List MsgId} (h : s.SoundIn im) {r : PageRec}
    (hr : s.rec? r.id = some r) (hrec : t.store.records = s.store.records)
    (hq : ∀ w, Without r.id (s.queue w) (t.queue w)) (him : Without r.id im im')
    (haw : Without r.id s.rmat.awaiting t.rmat.awaiting)
    (hsub : ∀ n x, t.sub? n = some x → ∃ e, s.sub? n = some e ∧ x.live = e.live ∧ x.tags = e.tags ∧
      x.money.reserved = e.money.reserved ∧ x.home = e.home ∧ Without r.id e.held x.held)
    (hsome : ∀ n, (s.sub? n).isSome = true → (t.sub? n).isSome = true) : t.LooseIn r im' := by
  obtain ⟨hA, hP⟩ := h.parts hr
  refine ⟨h.1.congr hrec, by rw [State.rec?_congr hrec]; exact hr, ?_, ?_⟩
  · rw [State.others_congr hrec]
    refine hA.entries (fun n x hx => ?_) (fun n e he _ => hsome n (by rw [he]; rfl))
    obtain ⟨e, he, j1, j2, j3, _⟩ := hsub n x hx
    exact .inl ⟨e, he, j1, j2, j3⟩
  · rw [State.others_congr hrec]
    refine hP.detach (h.1.not_mem_others r.id) hq him haw (fun n x hx => ?_)
    obtain ⟨e, he, _, _, _, j4, j5⟩ := hsub n x hx
    exact ⟨e, he, j4, j5⟩

/-- A record that is not held is on no held list. -/
theorem State.SoundIn.not_held {s : State} {im : List MsgId} (h : s.SoundIn im) {r : PageRec}
    (hr : s.rec? r.id = some r) (hst : r.state ≠ .held) {n : Nat} {e : Entry} (he : s.sub? n = some e) :
    r.id ∉ e.held := fun hm => by
  obtain ⟨e0, he0⟩ := h.entry hr
  exact hst ((h.inPlace hr he0).2.2.2 n e he |>.mp hm).1

/-- A record leaves its window queue. -/
theorem State.SoundIn.unfile {s : State} {im : List MsgId} (h : s.SoundIn im) {r : PageRec} (hr : s.rec? r.id = some r)
    (hst : r.state = .queued ∨ r.state = .retryWait) : (s.unfile r).LooseIn r im := by
  obtain ⟨e, he⟩ := h.entry hr
  obtain ⟨g1, g2, g3, g4⟩ := h.inPlace hr he
  have hsub : (s.unfile r).subs = s.subs := by simp
  refine h.loosen hr (by simp) (fun w => ?_) (without_self fun hm => ?_) ?_ (fun n x hx => ?_) (fun n hn => ?_)
  · rw [State.queue_unfile _ he]
    split
    · rename_i hw
      rw [hw]
      exact without_filter _ _
    · rename_i hw
      exact without_self fun hm => hw ((g1 w).mp hm).2
  · rcases g2.mp hm with hh | hh <;> rcases hst with h1 | h1 <;> rw [h1] at hh <;> simp at hh
  · show Without r.id s.rmat.awaiting (s.unfile r).rmat.awaiting
    rw [(show (s.unfile r).rmat = s.rmat by simp)]
    refine without_self fun hm => ?_
    rcases g3.mp hm with hh | hh <;> rcases hst with h1 | h1 <;> rw [h1] at hh <;> simp at hh
  · rw [State.sub?_congr hsub] at hx
    exact ⟨x, hx, rfl, rfl, rfl, rfl, without_self (h.not_held hr (by rcases hst with h1 | h1 <;> rw [h1] <;> simp) hx)⟩
  · rw [State.sub?_congr hsub]; exact hn

/-- A record leaves the awaiting list. -/
theorem State.SoundIn.leaveAwaiting {s : State} {im : List MsgId} (h : s.SoundIn im) {r : PageRec}
    (hr : s.rec? r.id = some r) (ha : r.id ∈ s.rmat.awaiting) : (s.leaveAwaiting r.id).LooseIn r im := by
  obtain ⟨e, he⟩ := h.entry hr
  obtain ⟨g1, g2, g3, g4⟩ := h.inPlace hr he
  have hst := g3.mp ha
  refine h.loosen hr rfl (fun w => without_self fun hm => ?_) (without_self fun hm => ?_) (without_filter _ _)
    (fun n x hx => ?_) (fun n hn => hn)
  · have := ((g1 w).mp hm).1
    rcases hst with h1 | h1 <;> simp [h1] at this
  · rcases hst with h1 | h1
    · have := g2.mp hm; simp [h1] at this
    · exact h1.2 hm
  · refine ⟨x, hx, rfl, rfl, rfl, rfl, without_self (h.not_held hr ?_ hx)⟩
    rcases hst with h1 | h1 <;> simp [h1]

/-- A record leaves its subscriber's held list. -/
theorem State.SoundIn.unholdRec {s : State} {im : List MsgId} (h : s.SoundIn im) {r : PageRec}
    (hr : s.rec? r.id = some r) (hst : r.state = .held) : (s.unholdRec r).LooseIn r im := by
  obtain ⟨e, he⟩ := h.entry hr
  obtain ⟨g1, g2, g3, g4⟩ := h.inPlace hr he
  refine h.loosen hr (by simp) (fun w => ?_) (without_self fun hm => ?_) ?_ (fun n x hx => ?_) (fun n hn => ?_)
  · have hq : (s.unholdRec r).queue w = s.queue w := State.queue_congr (by simp) w
    rw [hq]
    exact without_self fun hm => by simpa [hst] using (g1 w).mp hm
  · simpa [hst] using g2.mp hm
  · rw [(show (s.unholdRec r).rmat = s.rmat by simp)]
    exact without_self fun hm => by simpa [hst] using g3.mp hm
  · unfold State.unholdRec at hx
    rw [State.sub?_modSub] at hx
    split at hx
    · rename_i hn
      subst hn
      obtain ⟨y, hy, rfl⟩ := Option.map_eq_some_iff.mp hx
      exact ⟨y, hy, rfl, rfl, rfl, rfl, without_filter _ _⟩
    · rename_i hn
      exact ⟨x, hx, rfl, rfl, rfl, rfl, without_self fun hm => hn ((g4 n x hx).mp hm).2⟩
  · unfold State.unholdRec
    rw [State.sub?_modSub]
    split
    · rename_i hh
      subst hh
      simpa using hn
    · exact hn

/-- A record leaves the images. -/
theorem State.SoundIn.leaveImage {s : State} {im im' : List MsgId} (h : s.SoundIn im) {r : PageRec}
    (hr : s.rec? r.id = some r) (hm : r.id ∈ im) (him : Without r.id im im') : s.LooseIn r im' := by
  obtain ⟨e, he⟩ := h.entry hr
  obtain ⟨g1, g2, g3, g4⟩ := h.inPlace hr he
  have hst := g2.mp hm
  refine h.loosen hr rfl (fun w => without_self fun hm => ?_) him (without_self fun hm' => ?_)
    (fun n x hx => ?_) (fun n hn => hn)
  · have := ((g1 w).mp hm).1
    rcases hst with h1 | h1 <;> simp [h1] at this
  · rcases hst with h1 | h1
    · have := g3.mp hm'; simp [h1] at this
    · exact h1.2 hm'
  · refine ⟨x, hx, rfl, rfl, rfl, rfl, without_self (h.not_held hr ?_ hx)⟩
    rcases hst with h1 | h1 <;> simp [h1]

/-! ### A record changes, and takes a place -/

/-- The parts of a record that the entry reads stand. -/
def PageRec.SameLinks (r r' : PageRec) : Prop :=
  r'.id = r.id ∧ r'.sub = r.sub ∧ r'.tag = r.tag ∧ r'.reservation = r.reservation ∧
    (r'.chunkList.map Chunk.index).Sublist (r.chunkList.map Chunk.index)

theorem AgreesOn.same {sub : Nat → Option Entry} {r r' : PageRec} {R : List PageRec} (h : AgreesOn sub (r :: R))
    (hs : r.SameLinks r') (hw : r'.Whole) : AgreesOn sub (r' :: R) := by
  obtain ⟨h1, h2, h3, h4, h5⟩ := hs
  obtain ⟨e, he⟩ := Option.isSome_iff_exists.mp (h.2.1 r (List.mem_cons_self ..)).1
  have hold := entryAgreesOn_cons_self.mp (h.1 _ _ he)
  refine h.change he h2 hw h5 (e' := e) (fun m => ?_) rfl (fun g hg => .inl (h3 ▸ hg)) (fun g => ?_) (by rw [h4])
  · split
    · rename_i hm; rw [hm, he]
    · rfl
  · rw [h3]
    by_cases hg : r.tag = some g
    · simp [hg, (hold.2.2.1 g).mpr (.inl hg)]
    · simp [hg]

/-- A record changes in its place. -/
theorem State.SoundIn.putRec {s : State} {im : List MsgId} (h : s.SoundIn im) {r r' : PageRec}
    (hr : s.rec? r.id = some r) (hs : r.SameLinks r') (hw : r'.Whole)
    (hst : r'.state = r.state ∨ (r.state = .awaiting ∨ r.state = .placed) ∧ r'.state = .delivered) :
    (s.putRec r').SoundIn im := by
  obtain ⟨hA, hP⟩ := h.parts hr
  have hp := State.live_putRec_perm h.1.1 hr hs.1
  exact ⟨h.1.putRec r', (hA.same hs hw).perm hp.symm, (hP.restate hs.1 hs.2.1 hst).perm hp.symm⟩

/-- A record in no place changes. -/
theorem State.LooseIn.putRec {s : State} {im : List MsgId} {r r' : PageRec} (h : s.LooseIn r im) (hs : r.SameLinks r')
    (hw : r'.Whole) : (s.putRec r').LooseIn r' im := by
  obtain ⟨hK, hr, hA, hP⟩ := h
  have ho : (s.putRec r').others r'.id.slot = s.others r.id.slot := by rw [State.others_putRec, hs.1]
  refine ⟨hK.putRec r', State.rec?_putRec_self _ _, ?_, ?_⟩
  · rw [ho]; exact hA.same hs hw
  · rw [ho]; exact hP

/-- A record in no place changes, with its entry, and takes a place. -/
theorem State.LooseIn.attach {s t : State} {im im' : List MsgId} {r r' : PageRec} {e e' : Entry} {pim paw : Prop}
    (h : s.LooseIn r im) (he : s.sub? r.sub = some e) (hid : r'.id = r.id) (hs : r'.sub = r.sub) (hw : r'.Whole)
    (hc : (r'.chunkList.map Chunk.index).Sublist (r.chunkList.map Chunk.index))
    (hK' : t.Keyed) (hp : t.live.Perm (r' :: s.others r.id.slot))
    (hsub : ∀ m, t.sub? m = if m = r.sub then some e' else s.sub? m) (hl : e'.live = e.live) (hh : e'.home = e.home)
    (ht : ∀ g, r'.tag = some g → r.tag = some g ∨ g ∉ e.tags)
    (ht' : ∀ g, g ∈ e'.tags ↔ r'.tag = some g ∨ g ∈ e.tags ∧ r.tag ≠ some g)
    (hres : e'.money.reserved + r.reservation.getD 0 = e.money.reserved + r'.reservation.getD 0)
    (hq : ∀ w, Joined r.id ((r'.state = .queued ∨ r'.state = .retryWait) ∧ w = e.home) (s.queue w) (t.queue w))
    (him : Joined r.id pim im im') (haw : Joined r.id paw s.rmat.awaiting t.rmat.awaiting)
    (hpim : pim ↔ r'.state = .placed ∨ r'.state = .delivered ∧ ¬ paw)
    (hpaw : paw ↔ r'.state = .awaiting ∨ r'.state = .delivered ∧ ¬ pim)
    (hheld : Joined r.id (r'.state = .held) e.held e'.held) : t.SoundIn im' := by
  obtain ⟨hK, hr, hA, hP⟩ := h
  refine ⟨hK', (hA.change he hs hw hc hsub hl ht ht' hres).perm hp.symm, ?_⟩
  have he' : t.sub? r'.sub = some e' := by rw [hsub, hs, if_pos rfl]
  refine PlacedOn.perm hp.symm (hP.attach (pim := pim) (paw := paw) (by rw [hid]; exact hK.not_mem_others r.id) he'
    (fun w => by rw [hid, hh]; exact hq w) (by rw [hid]; exact him) (by rw [hid]; exact haw) hpim hpaw
    (fun n x hx => ?_))
  rw [hsub] at hx
  split at hx
  · rename_i hn
    cases hx
    subst hn
    exact ⟨e, he, hh, by rw [hid, hs]; simpa using hheld⟩
  · rename_i hn
    exact ⟨x, hx, rfl, joined_not (by rw [hs]; simp [hn]) (hP.2.2.2.2 n x hx).1⟩

theorem State.live_perm_set {s t : State} {r r' : PageRec} (hK : s.Keyed) (hr : s.rec? r.id = some r)
    (hid : r'.id = r.id) (hrec : t.store.records = s.store.records.set r.id.slot r') :
    t.live.Perm (r' :: s.others r.id.slot) := by
  have := State.live_putRec_perm hK.1 hr hid
  rw [show t.live = (s.putRec r').live by unfold State.live; rw [hrec, State.putRec_records, hid]]
  exact this

/-- A record in no place takes one outside the held lists. -/
theorem State.LooseIn.settle {s t : State} {im im' : List MsgId} {r : PageRec} {e : Entry} {pim paw : Prop}
    (h : s.LooseIn r im) (he : s.sub? r.sub = some e) (hrec : t.store.records = s.store.records)
    (hsub : t.subs = s.subs) (hnh : r.state ≠ .held)
    (hq : ∀ w, Joined r.id ((r.state = .queued ∨ r.state = .retryWait) ∧ w = e.home) (s.queue w) (t.queue w))
    (him : Joined r.id pim im im') (haw : Joined r.id paw s.rmat.awaiting t.rmat.awaiting)
    (hpim : pim ↔ r.state = .placed ∨ r.state = .delivered ∧ ¬ paw)
    (hpaw : paw ↔ r.state = .awaiting ∨ r.state = .delivered ∧ ¬ pim) : t.SoundIn im' := by
  have hold := entryAgreesOn_cons_self.mp (h.2.2.1.1 _ _ he)
  have hp : t.live.Perm (r :: s.others r.id.slot) := by
    rw [show t.live = s.live by unfold State.live; rw [hrec]]
    exact State.live_perm h.1.1 h.2.1
  refine h.attach he rfl rfl h.whole (.refl _) (h.1.congr hrec) hp (e' := e) (fun m => ?_) rfl rfl
    (fun g hg => .inl hg) (fun g => ?_) rfl hq him haw hpim hpaw
    (joined_not hnh (h.2.2.2.2.2.2.2 _ _ he).1)
  · rw [State.sub?_congr hsub]
    split
    · rename_i hm; rw [hm, he]
    · rfl
  · by_cases hg : r.tag = some g
    · simp [hg, (hold.2.2.1 g).mpr (.inl hg)]
    · simp [hg]

/-- A record in no place is filed. -/
theorem State.LooseIn.file {s : State} {im : List MsgId} {r : PageRec} (h : s.LooseIn r im)
    (hst : r.state = .queued ∨ r.state = .retryWait) : (s.fileRec r).SoundIn im := by
  obtain ⟨e, he⟩ := h.entry
  obtain ⟨q1, q2⟩ := s.queue_fileRec he
  have hP := h.2.2.2
  refine h.settle he (pim := False) (paw := False) (by simp) (by simp) (by rcases hst with h | h <;> simp [h])
    (fun w => ?_) (joined_not id hP.2.2.1.1) ?_ (by rcases hst with h | h <;> simp [h])
    (by rcases hst with h | h <;> simp [h])
  · by_cases hw' : w = e.home
    · subst hw'
      exact joined_perm ⟨hst, rfl⟩ (hP.2.1 _).1 (h.notIn (hP.2.1 _)) q1
    · rw [q2 w hw']
      exact joined_not (fun hh => hw' hh.2) (hP.2.1 w).1
  · rw [(show (s.fileRec r).rmat = s.rmat by simp)]
    exact joined_not id hP.2.2.2.1.1

/-- A record in no place joins the awaiting list. -/
theorem State.LooseIn.join {s : State} {im : List MsgId} {r : PageRec} (h : s.LooseIn r im)
    (hst : r.state = .awaiting ∨ r.state = .delivered) : (s.joinAwaiting r.id).SoundIn im := by
  obtain ⟨e, he⟩ := h.entry
  have hP := h.2.2.2
  refine h.settle he (pim := False) (paw := True) rfl rfl (by rcases hst with h | h <;> simp [h])
    (fun w => joined_not (by rcases hst with h | h <;> simp [h]) (hP.2.1 w).1) (joined_not id hP.2.2.1.1) ?_
    (by rcases hst with h | h <;> simp [h]) (by rcases hst with h | h <;> simp [h])
  exact joined_perm trivial hP.2.2.2.1.1 (h.notIn hP.2.2.2.1) (List.perm_append_singleton _ _)

/-! ### Freeing (R32) -/

/-- A record in no place is dropped with what its entry holds for it. -/
theorem State.LooseIn.drop {s : State} {im : List MsgId} {r : PageRec} (h : s.LooseIn r im) :
    (((s.releaseTagOf r).releaseReservation r).dropRec r).SoundIn im := by
  obtain ⟨hK, hr, hA, hP⟩ := h
  obtain ⟨e, he⟩ := Option.isSome_iff_exists.mp (hA.2.1 r (List.mem_cons_self ..)).1
  have hrec : (((s.releaseTagOf r).releaseReservation r).dropRec r).store.records = s.store.records.erase r.id.slot := by
    rw [State.dropRec_records]; simp
  have hlive : (((s.releaseTagOf r).releaseReservation r).dropRec r).live = s.others r.id.slot := by
    unfold State.live State.others; rw [hrec]
  have hsub : ∀ m, (((s.releaseTagOf r).releaseReservation r).dropRec r).sub? m = if m = r.sub then some
      { e with
        live := e.live - 1
        tags := (match r.tag with | some g => e.tags.filter (fun x => x != g) | none => e.tags)
        money := { e.money with reserved := e.money.reserved - r.reservation.getD 0 } } else s.sub? m := by
    intro m
    show (((s.releaseTagOf r).releaseReservation r).modSub r.sub (fun e => { e with live := e.live - 1 })).sub? m = _
    rw [State.sub?_modSub, State.sub?_releaseReservation, if_pos rfl, State.sub?_releaseReservation]
    by_cases hm : m = r.sub
    · simp only [hm, State.sub?_releaseTagOf, he, if_pos, Option.map_some] <;> cases r.tag <;> rfl
    · simp [hm, State.sub?_releaseTagOf]
  refine ⟨hK.erase hrec, ?_, ?_⟩
  · rw [hlive]
    refine hA.drop he hsub rfl (fun g => ?_) rfl
    cases ht : r.tag with
    | none => simp
    | some g' => simp [@eq_comm _ g' g]
  · rw [hlive]
    have hq : (((s.releaseTagOf r).releaseReservation r).dropRec r).queue = s.queue :=
      funext fun w => State.queue_congr (by unfold State.dropRec; simp) w
    rw [hq, (show (((s.releaseTagOf r).releaseReservation r).dropRec r).rmat = s.rmat by simp)]
    refine hP.entries (fun n x hx => ?_)
    rw [hsub] at hx
    split at hx
    · rename_i hn
      cases hx
      subst hn
      exact .inl ⟨e, he, rfl, .inl rfl⟩
    · exact .inl ⟨x, hx, rfl, .inl rfl⟩

theorem State.kept_raise (s : State) (k : NoticeKind) (fs : List Field) : s.Kept (s.raise k fs) :=
  State.kept_of rfl rfl rfl rfl

theorem State.kept_judgeCongestion (s : State) : s.Kept s.judgeCongestion :=
  State.kept_of (by simp) (by simp) (by simp) (by simp)

/-- A record that has left its place is freed. -/
theorem State.LooseIn.freed {s : State} {im : List MsgId} {r : PageRec} {o : PageOutcome}
    (h : ((s.raise o.kind (o.fields r)).leavePlace r).LooseIn r im) : (s.freeRec r o).SoundIn im :=
  h.drop.kept (State.kept_judgeCongestion _)

/-- A record in one of the lists is freed; one in an image is not, before it has left it. -/
theorem State.SoundIn.freeRec {s : State} {im : List MsgId} (h : s.SoundIn im) {r : PageRec} (hr : s.rec? r.id = some r)
    (hst : r.state ≠ .placed) (hd : r.state = .delivered → r.id ∈ s.rmat.awaiting) (o : PageOutcome) :
    (s.freeRec r o).SoundIn im := by
  refine State.LooseIn.freed ?_
  have h' := h.kept (s.kept_raise o.kind (o.fields r))
  have hr' : (s.raise o.kind (o.fields r)).rec? r.id = some r := hr
  unfold State.leavePlace
  cases hs : r.state with
  | queued => exact h'.unfile hr' (.inl hs)
  | retryWait => exact h'.unfile hr' (.inr hs)
  | placed => exact absurd hs hst
  | awaiting =>
    obtain ⟨e, he⟩ := h.entry hr
    exact h'.leaveAwaiting hr' ((h.inPlace hr he).2.2.1.mpr (.inl hs))
  | delivered => exact h'.leaveAwaiting hr' (hd hs)
  | held => exact h'.unholdRec hr' hs

theorem filter_ne_self {m : MsgId} {l : List MsgId} (h : m ∉ l) : l.filter (fun x => x != m) = l := by
  rw [List.filter_eq_self]
  intro x hx
  simpa using fun he : x = m => h (he ▸ hx)

/-- A record in no place has none to leave. -/
theorem State.LooseIn.kept_leavePlace {s : State} {im : List MsgId} {r : PageRec} (h : s.LooseIn r im) :
    s.Kept (s.leavePlace r) := by
  have hP := h.2.2.2
  have hun : s.Kept (s.unfile r) := by
    obtain ⟨e, he⟩ := h.entry
    refine State.kept_of (by simp) (by simp) ?_ (by simp)
    unfold State.unfile
    rw [he]
    simp only [filter_ne_self (h.notIn (hP.2.1 e.home))]
    show s.wsch.queues.set e.home (s.queue e.home) = _
    exact Vector.set_getElem_self _
  have haw : s.Kept (s.leaveAwaiting r.id) :=
    State.kept_of rfl rfl rfl (filter_ne_self (h.notIn hP.2.2.2.1))
  unfold State.leavePlace
  cases hs : r.state with
  | queued => exact hun
  | retryWait => exact hun
  | placed => exact State.kept_of rfl rfl rfl rfl
  | awaiting => exact haw
  | delivered => exact haw
  | held =>
    obtain ⟨e, he⟩ := h.entry
    have : s.Kept (s.setSub r.sub { e with held := e.held.filter (fun x => x != r.id) }) :=
      State.kept_setSub he ⟨rfl, rfl, rfl, filter_ne_self (h.notIn (hP.2.2.2.2 _ _ he)), rfl⟩
    unfold State.unholdRec State.modSub
    rw [he]
    exact this

/-- A record in no place is freed. -/
theorem State.LooseIn.freeRec {s : State} {im : List MsgId} {r : PageRec} (h : s.LooseIn r im) (o : PageOutcome) :
    (s.freeRec r o).SoundIn im := by
  have h' := h.kept (s.kept_raise o.kind (o.fields r))
  exact State.LooseIn.freed (h'.kept h'.kept_leavePlace)

end Sys2Proof.Machine
end

