-- ==== Sys2Proof/Laws/Notices.lean ====
section
/-! SUPPORT. That every change of the notice queue leaves it by level and age (R175). -/

namespace Sys2Proof.Machine

/-- `Hlc.Ahead` by levels alone. -/
def AheadBy (lv : NoticeKind → Nat) (a b : Notice) : Prop :=
  lv b.kind < lv a.kind ∨ lv b.kind = lv a.kind ∧ a.stamp < b.stamp

theorem AheadBy.trans {lv : NoticeKind → Nat} {a b c : Notice} (h : AheadBy lv a b) (g : AheadBy lv b c) :
    AheadBy lv a c := by
  unfold AheadBy at *
  omega

/-- `Hlc.InOrder` by its parts. -/
def OrderedBy (lv : NoticeKind → Nat) (next : Nat) (l : List Notice) : Prop :=
  l.Pairwise (AheadBy lv) ∧ (l.map Notice.stamp).Nodup ∧ ∀ n ∈ l, n.stamp < next ∧ 0 < lv n.kind

theorem Hlc.inOrder_iff (h : Hlc) : h.InOrder ↔ OrderedBy h.level h.nextStamp h.notices := Iff.rfl

theorem insertNotice_perm (lv : NoticeKind → Nat) (n : Notice) (l : List Notice) :
    (insertNotice lv n l).Perm (n :: l) := by
  induction l with
  | nil => exact .refl _
  | cons x xs ih =>
    unfold insertNotice
    split
    · exact .refl _
    · exact (ih.cons x).trans (.swap _ _ _)

theorem pairwise_insertNotice {lv : NoticeKind → Nat} {n : Notice} {l : List Notice} (h : l.Pairwise (AheadBy lv))
    (hn : ∀ x ∈ l, x.stamp ≠ n.stamp) : (insertNotice lv n l).Pairwise (AheadBy lv) := by
  induction l with
  | nil => simp [insertNotice]
  | cons x xs ih =>
    simp only [List.pairwise_cons] at h
    unfold insertNotice
    split
    · rename_i hc
      have hx : AheadBy lv n x := by
        unfold AheadBy
        simp only [Bool.or_eq_true, decide_eq_true_eq, Bool.and_eq_true, beq_iff_eq] at hc
        exact hc
      simp only [List.pairwise_cons]
      refine ⟨fun y hy => ?_, h⟩
      rcases List.mem_cons.mp hy with rfl | hy
      · exact hx
      · exact hx.trans (h.1 y hy)
    · rename_i hc
      have hx : AheadBy lv x n := by
        have := hn x (List.mem_cons_self ..)
        unfold AheadBy
        simp only [Bool.or_eq_true, decide_eq_true_eq, Bool.and_eq_true, beq_iff_eq, not_or, not_and] at hc
        omega
      simp only [List.pairwise_cons]
      refine ⟨fun y hy => ?_, ih h.2 (fun y hy => hn y (List.mem_cons_of_mem _ hy))⟩
      rcases List.mem_cons.mp ((insertNotice_perm lv n xs).mem_iff.mp hy) with rfl | hy
      · exact hx
      · exact h.1 y hy

/-- A notice of its own place in time goes to its place by level. -/
theorem OrderedBy.insert {lv : NoticeKind → Nat} {next : Nat} {l : List Notice} (h : OrderedBy lv next l) {n : Notice}
    (hn : n.stamp ∉ l.map Notice.stamp) (h1 : n.stamp < next) (h2 : 0 < lv n.kind) :
    OrderedBy lv next (insertNotice lv n l) := by
  have hp := insertNotice_perm lv n l
  refine ⟨pairwise_insertNotice h.1 fun x hx he => hn (List.mem_map.mpr ⟨x, hx, he⟩), ?_, fun x hx => ?_⟩
  · rw [(hp.map Notice.stamp).nodup_iff]
    exact List.nodup_cons.mpr ⟨hn, h.2.1⟩
  · rcases List.mem_cons.mp (hp.mem_iff.mp hx) with rfl | hx
    · exact ⟨h1, h2⟩
    · exact h.2.2 x hx

theorem OrderedBy.sublist {lv : NoticeKind → Nat} {next : Nat} {l l' : List Notice} (h : OrderedBy lv next l)
    (hl : l'.Sublist l) : OrderedBy lv next l' :=
  ⟨h.1.sublist hl, h.2.1.sublist (hl.map _), fun n hn => h.2.2 n (hl.subset hn)⟩

theorem OrderedBy.later {lv : NoticeKind → Nat} {next next' : Nat} {l : List Notice} (h : OrderedBy lv next l)
    (hn : next ≤ next') : OrderedBy lv next' l :=
  ⟨h.1, h.2.1, fun n hm => ⟨Nat.lt_of_lt_of_le (h.2.2 n hm).1 hn, (h.2.2 n hm).2⟩⟩

theorem OrderedBy.fresh {lv : NoticeKind → Nat} {next : Nat} {l : List Notice} (h : OrderedBy lv next l) :
    next ∉ l.map Notice.stamp := fun hm => by
  obtain ⟨n, hn, he⟩ := List.mem_map.mp hm
  have := (h.2.2 n hn).1
  omega

variable {h : Hlc}

/-- A notice of a kind with a level above 0 is placed. -/
theorem Hlc.InOrder.place (hi : h.InOrder) {k : NoticeKind} (hk : 0 < h.level k) (fs : List Field) :
    (h.place k fs).InOrder := by
  have hl : ∀ l : List Notice, l.Sublist h.notices → OrderedBy h.level (h.nextStamp + 1)
      (insertNotice h.level { kind := k, fields := fs, stamp := h.nextStamp } l) := fun l hl =>
    ((OrderedBy.sublist hi hl).later (Nat.le_succ _)).insert (OrderedBy.sublist hi hl).fresh (Nat.lt_succ_self _) hk
  unfold Hlc.place
  simp only
  split
  · exact hl _ (.refl _)
  · split
    · split
      · exact hl _ (List.dropLast_sublist _)
      · exact hi
    · exact hi

theorem Hlc.InOrder.raise (hi : h.InOrder) (k : NoticeKind) (fs : List Field) (c : Bool) : (h.raise k fs c).InOrder := by
  have hm : (h.mark k).InOrder := hi
  unfold Hlc.raise
  simp only
  split
  · rename_i hc
    simp only [Bool.and_eq_true, decide_eq_true_eq] at hc
    exact hm.place hc.2 fs
  · exact hm

theorem Hlc.InOrder.settle (hi : h.InOrder) : h.settle.InOrder := by
  rw [Hlc.inOrder_iff]
  have hl : h.settle.level = h.level := by
    funext k
    unfold Hlc.level
    rw [h.settle_frame.2.2.2.2.1]
  rw [hl, h.settle_frame.2.2.2.2.2.1]
  rcases h.settle_notices with hn | hn
  · rw [hn]; exact hi
  · rw [hn]; exact OrderedBy.sublist hi (List.drop_sublist _ _)

theorem Hlc.level_set (h : Hlc) (k k' : NoticeKind) (new : Fin 4) :
    Hlc.level { h with levels := h.levels.set k.index new } k' = if k' = k then new.val else h.level k' := by
  unfold Hlc.level
  show ((h.levels.set k.index new)[k'.index]).val = _
  rw [Fin.getElem_fin, Vector.getElem_set]
  by_cases hk : k' = k
  · simp [hk]
  · have : (k.index : Nat) ≠ k'.index := by
      revert hk
      cases k <;> cases k' <;> simp [NoticeKind.index]
    rw [if_neg this, if_neg hk]
    rfl

/-- A kind takes a new level: its notices keep their places in time. -/
theorem Hlc.InOrder.setLevel (hi : h.InOrder) (k : NoticeKind) (new : Fin 4) : (h.setLevel k new).InOrder := by
  obtain ⟨h1, h2, h3⟩ := hi
  have hlv : ∀ k', Hlc.level { h with levels := h.levels.set k.index new } k' = if k' = k then new.val else h.level k' :=
    fun k' => h.level_set k k' new
  -- the other notices under the new levels
  have hoth : OrderedBy (Hlc.level { h with levels := h.levels.set k.index new }) h.nextStamp
      (h.notices.filter (fun n => n.kind != k)) := by
    refine ⟨(h1.sublist List.filter_sublist).imp_of_mem fun {a b} ha hb hab => ?_, h2.sublist (List.filter_sublist.map _),
      fun n hn => ?_⟩
    · have ha := (List.mem_filter.mp ha).2
      have hb := (List.mem_filter.mp hb).2
      simp only [bne_iff_ne, ne_eq] at ha hb
      unfold AheadBy
      rw [hlv, hlv, if_neg ha, if_neg hb]
      exact hab
    · obtain ⟨hm, hk⟩ := List.mem_filter.mp hn
      simp only [bne_iff_ne, ne_eq] at hk
      rw [hlv, if_neg hk]
      exact h3 n hm
  unfold Hlc.setLevel
  simp only
  split
  · exact ⟨h1, h2, h3⟩
  · rename_i hne
    split
    · rename_i hold
      have hnone : h.notices.filter (fun n => n.kind != k) = h.notices := by
        rw [List.filter_eq_self]
        intro n hn
        simp only [bne_iff_ne, ne_eq]
        intro hk
        have := (h3 n hn).2
        rw [hk] at this
        unfold Hlc.level at this
        rw [hold] at this
        simp at this
      rw [hnone] at hoth
      split
      · refine Hlc.InOrder.place (h := { h with levels := h.levels.set k.index new }) hoth ?_ _
        rw [hlv, if_pos rfl]
        rw [hold] at hne
        exact Nat.pos_of_ne_zero fun h0 => hne (Fin.ext (by simpa using h0.symm))
      · exact hoth
    · split
      · exact hoth
      · rename_i hnew
        have hpos : 0 < Hlc.level { h with levels := h.levels.set k.index new } k := by
          rw [hlv, if_pos rfl]
          exact Nat.pos_of_ne_zero fun h0 => hnew (Fin.ext (by simpa using h0))
        have key : ∀ (own q : List Notice), (∀ n ∈ own, n.kind = k ∧ n.stamp < h.nextStamp) →
            (own.map Notice.stamp).Nodup → (∀ n ∈ own, n.stamp ∉ q.map Notice.stamp) →
            OrderedBy (Hlc.level { h with levels := h.levels.set k.index new }) h.nextStamp q →
            OrderedBy (Hlc.level { h with levels := h.levels.set k.index new }) h.nextStamp
              (own.foldl (fun q n => insertNotice (Hlc.level { h with levels := h.levels.set k.index new }) n q) q) := by
          intro own
          induction own with
          | nil => exact fun _ _ _ _ hq => hq
          | cons n own ih =>
            intro q ho hn hd hq
            simp only [List.map_cons, List.nodup_cons] at hn
            obtain ⟨hk, hs⟩ := ho n (List.mem_cons_self ..)
            refine ih _ (fun x hx => ho x (List.mem_cons_of_mem _ hx)) hn.2 (fun x hx hm => ?_)
              (hq.insert (hd n (List.mem_cons_self ..)) hs (by rw [hk]; exact hpos))
            have := ((insertNotice_perm (Hlc.level { h with levels := h.levels.set k.index new }) n q).map
              Notice.stamp).mem_iff.mp hm
            rcases List.mem_cons.mp this with he | hm
            · exact hn.1 (he ▸ List.mem_map_of_mem hx)
            · exact hd x (List.mem_cons_of_mem _ hx) hm
        refine key _ _ (fun n hn => ?_) (h2.sublist (List.filter_sublist.map _)) (fun n hn hm => ?_) hoth
        · obtain ⟨hm, hk⟩ := List.mem_filter.mp hn
          exact ⟨by simpa using hk, (h3 n hm).1⟩
        · obtain ⟨hm1, hk⟩ := List.mem_filter.mp hn
          obtain ⟨x, hx, he⟩ := List.mem_map.mp hm
          obtain ⟨hx1, hxk⟩ := List.mem_filter.mp hx
          have : x = n := List.inj_on_of_nodup_map h2 hx1 hm1 he
          rw [this] at hxk
          simp at hk hxk
          exact hxk hk

end Sys2Proof.Machine
end

