-- ==== Sys2Proof/WellFormed.lean ====
section
/-! DEFINITION. When a command or event is one the outside can give. The meanings are total and run on any
term; this check says which terms stand for something. -/

namespace Sys2Proof

/-- Why a term stands for no event. -/
inductive IllFormed where
  /-- a line's characters hold the terminator 0Ah, which ends the line (R182) -/
  | terminatorInLine
  /-- a message id names a slot outside 0-2047 (R27) -/
  | slotOutOfRange
  /-- REPLY_REPORT_FRAME brings no byte -/
  | emptyFrame
  /-- REPLY_REPORT_FRAME brings more than the 14 bytes of one frame (11_record_and_frame_layouts.md, 11.3) -/
  | frameTooLong
  deriving DecidableEq, Repr

/-- The first thing wrong with a term, if anything is. -/
def Instr.illFormed : Instr → Option IllFormed
  | .commandLine chars => if (0x0A#8 : Byte) ∈ chars then some .terminatorInLine else none
  | .holdEnd msg => if msg.slot < 2048 then none else some .slotOutOfRange
  | .replyReportFrame _ bytes =>
    if bytes.length = 0 then some .emptyFrame
    else if 14 < bytes.length then some .frameTooLong else none
  | .coldStart | .lineSent | .badCommand | .subAdd | .subSet | .subGet | .subSuspend | .subResume | .subRemove
  | .planSet | .planGet | .submit | .cancel | .pageGet | .heldList | .heldRelease | .airStart | .airStop
  | .zoneSet | .zoneGet | .tariffLoad | .bandSet | .tariffGet | .credit | .adjust | .billRead | .billRewind
  | .periodClose | .periodCloseAll | .noticeLevels | .status | .officeSet | .officeGet | .restart
  | .reportTake | .strobe _ | .missingStrobe | .leadInEnd | .windowBoundary | .heldWindowStart
  | .stoppingWindowEnd | .walkRecord | .buildEnd | .airingRecord | .replyWaitExpiry | .readWaitEnd
  | .sweepVisit | .startMarker _ _ => none

/-- A term that stands for an event. -/
def Instr.wellFormed (i : Instr) : Bool := i.illFormed.isNone

end Sys2Proof
end

