-- ==== Sys2Proof/Laws/PerInstr.lean ====
section
/-! SUPPORT. What is said once for each row of the table: the only things that can be wrong with its term. -/

namespace Sys2Proof.Laws.TermFaults

/-- Whatever is wrong with a term is one of the four things its row's operands allow. -/
def Statement (i : Instr) : Prop :=
  ∀ why, i.illFormed = some why →
    match why with
    | .terminatorInLine => ∃ chars, i = .commandLine chars ∧ (0x0A#8 : Byte) ∈ chars
    | .slotOutOfRange => ∃ msg, i = .holdEnd msg ∧ 2048 ≤ msg.slot
    | .emptyFrame => ∃ link, i = .replyReportFrame link []
    | .frameTooLong => ∃ link bytes, i = .replyReportFrame link bytes ∧ 14 < bytes.length

/-- A row with nothing to be wrong. -/
theorem of_none {i : Instr} (h : i.illFormed = none) : Statement i := fun why hw => by simp [h] at hw

theorem coldStart : Statement .coldStart := of_none rfl

theorem commandLine (chars : Text) : Statement (.commandLine chars) := by
  intro why h
  simp only [Instr.illFormed] at h
  split at h
  · rename_i hc
    cases h
    exact ⟨chars, rfl, hc⟩
  · cases h

theorem lineSent : Statement .lineSent := of_none rfl

theorem badCommand : Statement .badCommand := of_none rfl

theorem subAdd : Statement .subAdd := of_none rfl

theorem subSet : Statement .subSet := of_none rfl

theorem subGet : Statement .subGet := of_none rfl

theorem subSuspend : Statement .subSuspend := of_none rfl

theorem subResume : Statement .subResume := of_none rfl

theorem subRemove : Statement .subRemove := of_none rfl

theorem planSet : Statement .planSet := of_none rfl

theorem planGet : Statement .planGet := of_none rfl

theorem submit : Statement .submit := of_none rfl

theorem cancel : Statement .cancel := of_none rfl

theorem pageGet : Statement .pageGet := of_none rfl

theorem heldList : Statement .heldList := of_none rfl

theorem heldRelease : Statement .heldRelease := of_none rfl

theorem airStart : Statement .airStart := of_none rfl

theorem airStop : Statement .airStop := of_none rfl

theorem zoneSet : Statement .zoneSet := of_none rfl

theorem zoneGet : Statement .zoneGet := of_none rfl

theorem tariffLoad : Statement .tariffLoad := of_none rfl

theorem bandSet : Statement .bandSet := of_none rfl

theorem tariffGet : Statement .tariffGet := of_none rfl

theorem credit : Statement .credit := of_none rfl

theorem adjust : Statement .adjust := of_none rfl

theorem billRead : Statement .billRead := of_none rfl

theorem billRewind : Statement .billRewind := of_none rfl

theorem periodClose : Statement .periodClose := of_none rfl

theorem periodCloseAll : Statement .periodCloseAll := of_none rfl

theorem noticeLevels : Statement .noticeLevels := of_none rfl

theorem status : Statement .status := of_none rfl

theorem officeSet : Statement .officeSet := of_none rfl

theorem officeGet : Statement .officeGet := of_none rfl

theorem restart : Statement .restart := of_none rfl

theorem replyReportFrame (link : LinkNo) (bytes : List Byte) : Statement (.replyReportFrame link bytes) := by
  intro why h
  simp only [Instr.illFormed] at h
  split at h
  · rename_i hc
    cases h
    exact ⟨link, by simp [List.length_eq_zero_iff.mp hc]⟩
  · split at h
    · rename_i hc
      cases h
      exact ⟨link, bytes, rfl, hc⟩
    · cases h

theorem reportTake : Statement .reportTake := of_none rfl

theorem strobe (good : Bool) : Statement (.strobe good) := of_none rfl

theorem missingStrobe : Statement .missingStrobe := of_none rfl

theorem leadInEnd : Statement .leadInEnd := of_none rfl

theorem windowBoundary : Statement .windowBoundary := of_none rfl

theorem heldWindowStart : Statement .heldWindowStart := of_none rfl

theorem stoppingWindowEnd : Statement .stoppingWindowEnd := of_none rfl

theorem walkRecord : Statement .walkRecord := of_none rfl

theorem buildEnd : Statement .buildEnd := of_none rfl

theorem airingRecord : Statement .airingRecord := of_none rfl

theorem replyWaitExpiry : Statement .replyWaitExpiry := of_none rfl

theorem holdEnd (msg : MsgId) : Statement (.holdEnd msg) := by
  intro why h
  simp only [Instr.illFormed] at h
  split at h
  · cases h
  · rename_i hc
    cases h
    exact ⟨msg, rfl, by omega⟩

theorem readWaitEnd : Statement .readWaitEnd := of_none rfl

theorem sweepVisit : Statement .sweepVisit := of_none rfl

theorem startMarker (link : LinkNo) (byte : Byte) : Statement (.startMarker link byte) := of_none rfl

end Sys2Proof.Laws.TermFaults
end

