-- ==== Sys2Proof/Laws/Places.lean ====
section
/-! SUPPORT. That each operation on records, entries and images keeps entries, records and places in agreement. -/

namespace Sys2Proof.Machine

variable {s t : State} {im im' : List MsgId} {r : PageRec}

/-! ### Money and what is read beside records -/

theorem State.Kept.refl (s : State) : s.Kept s := State.kept_of rfl rfl rfl rfl

theorem State.kept_modMoney (s : State) (n : Nat) (f : Money → Money) (hf : ∀ m, (f m).reserved = m.reserved) :
    s.Kept (s.modMoney n f) := s.kept_modSub n _ fun e => ⟨rfl, rfl, hf e.money, rfl, rfl⟩

theorem State.kept_barTest (s : State) (n : Nat) : s.Kept (s.barTest n) := by
  unfold State.barTest
  split
  · exact .refl s
  · split
    · refine State.Kept.trans ?_ (State.kept_raise _ _ _)
      exact s.kept_modMoney n _ fun _ => rfl
    · exact .refl s

theorem State.kept_unbarTest (s : State) (n : Nat) : s.Kept (s.unbarTest n) := by
  unfold State.unbarTest
  split
  · exact .refl s
  · split
    · refine State.Kept.trans ?_ (State.kept_raise _ _ _)
      exact s.kept_modMoney n _ fun _ => rfl
    · exact .refl s

theorem State.kept_lowTest (s : State) (n : Nat) : s.Kept (s.lowTest n) := by
  unfold State.lowTest
  split
  · exact .refl s
  · split
    · refine State.Kept.trans ?_ (State.kept_raise _ _ _)
      exact s.kept_modMoney n _ fun _ => rfl
    · exact .refl s

theorem State.kept_usageTest (s : State) (n : Nat) : s.Kept (s.usageTest n) := by
  unfold State.usageTest
  split
  · exact .refl s
  · split
    · refine State.Kept.trans ?_ (State.kept_raise _ _ _)
      exact s.kept_modMoney n _ fun _ => rfl
    · exact .refl s

theorem State.kept_rearmLow (s : State) (n : Nat) : s.Kept (s.rearmLow n) :=
  s.kept_modMoney n _ fun m => by split <;> rfl

theorem State.kept_judgeJournalHigh (s : State) : s.Kept s.judgeJournalHigh :=
  State.kept_of (by simp) (by simp) (by simp) (by simp)

theorem State.kept_journal (s : State) (j : JournalRec) : s.Kept (s.journal j) :=
  State.kept_of (by simp) (by simp) (by simp) (by simp)

theorem State.kept_writeRec (s : State) (j : JournalRec) : s.Kept (s.writeRec j) :=
  State.kept_of (by simp) (by simp) (by simp) (by simp)

theorem State.kept_chargeTests (s : State) (n : Nat) (a b : Money) : s.Kept (s.chargeTests n a b) := by
  unfold State.chargeTests
  have h1 := s.kept_barTest n
  have h2 := h1.trans (State.kept_lowTest (s.barTest n) n)
  have h3 : s.Kept (if b.balance = a.balance then s.barTest n else (s.barTest n).lowTest n) := by
    split
    · exact h1
    · exact h2
  simp only
  split
  · exact h3
  · exact h3.trans (State.kept_usageTest _ _)

/-- A charge changes nothing that the agreement reads. -/
theorem State.kept_postCharge (s : State) (n a : Nat) (j : JournalRec) : s.Kept (s.postCharge n a j) := by
  unfold State.postCharge
  split
  · exact .refl s
  · rename_i e he
    split
    · exact s.kept_journal _
    · simp only
      exact ((State.kept_setSub (x := { e with money := e.money.charged a }) he ⟨rfl, rfl, rfl, rfl, rfl⟩).trans
        (State.kept_chargeTests _ _ _ _)).trans (State.kept_journal _ _)

/-- Nor does a credit. -/
theorem State.kept_postCredit (s : State) (n a : Nat) (j : JournalRec) : s.Kept (s.postCredit n a j) := by
  unfold State.postCredit
  split
  · exact .refl s
  · rename_i e he
    simp only
    refine State.Kept.trans ?_ (State.kept_journal _ _)
    have h1 := (State.kept_setSub (x :=
        { e with money := { e.money with balance := e.money.balance + e.money.creditApplied a } }) he
        ⟨rfl, rfl, rfl, rfl, rfl⟩).trans (State.kept_unbarTest _ n)
    split
    · exact h1
    · exact h1.trans (State.kept_rearmLow _ _)

theorem State.kept_closePeriod {s : State} {n : Nat} {e : Entry} (he : s.sub? n = some e) : s.Kept (s.closePeriod n e) := by
  unfold State.closePeriod
  refine State.Kept.trans ?_ (State.kept_writeRec _ _)
  exact State.kept_setSub he ⟨rfl, rfl, rfl, rfl, rfl⟩

theorem State.kept_postRefund (s : State) (r : PageRec) : s.Kept (s.postRefund r).1 := by
  unfold State.postRefund
  split
  · exact .refl s
  · split
    · exact .refl s
    · exact s.kept_postCredit _ _ _

theorem State.kept_countPage (s : State) (n : Nat) (c : AttemptClass) : s.Kept (s.countPage n c) := by
  unfold State.countPage
  split
  · exact s.kept_modMoney n _ fun _ => rfl
  · exact .refl s

theorem State.kept_releaseAir (s : State) : s.Kept s.releaseAir :=
  State.kept_of (by simp) (by simp) (by simp) (by simp)

/-! ### Delivery and recovery -/

theorem PageRec.sameLinks_of {r r' : PageRec} (h1 : r'.id = r.id) (h2 : r'.sub = r.sub) (h3 : r'.tag = r.tag)
    (h4 : r'.reservation = r.reservation) (h5 : r'.chunks = r.chunks) : r.SameLinks r' :=
  ⟨h1, h2, h3, h4, by unfold PageRec.chunkList; rw [h5]⟩

theorem PageRec.sameLinks_delivered (r : PageRec) : r.SameLinks r.delivered :=
  ⟨rfl, rfl, rfl, rfl, by simp [PageRec.delivered, PageRec.chunkList]⟩

theorem PageRec.Whole.delivered {r : PageRec} (h : r.Whole) : r.delivered.Whole :=
  ⟨h.1, by simp [PageRec.delivered], by simp [PageRec.delivered], ⟨h.2.2.2.1.1, by simp [PageRec.delivered]⟩,
    by simp [PageRec.delivered]⟩

/-- What delivery leaves stays whole whatever else of the record changes but its kept text. -/
theorem PageRec.Whole.afterDelivery {r q : PageRec} (h : r.Whole) (h1 : q.state = .delivered) (h2 : q.chunks = none)
    (h3 : q.reservation = r.reservation) (h4 : q.series = r.series) (h5 : q.count = r.count)
    (ht : q.len = r.len ∧ q.kept = r.kept) : q.Whole :=
  ⟨by rw [h3, h4, h5]; exact h.1, by simp [h1], by simp [h1, h2], ⟨by rw [ht.1, ht.2]; exact h.2.2.2.1.1, by simp [h2]⟩,
    by simp [h1]⟩

/-- The text on air is the kept text, in the pool or out of it (R47). -/
theorem PageRec.Whole.airText_eq_kept {r : PageRec} (h : r.Whole) : r.airText = r.kept := by
  have key : r.state ≠ .delivered → r.text = r.kept := by
    intro hs
    cases hc : r.chunks with
    | some cs => exact (h.2.2.2.1.2 cs hc).2
    | none =>
      have h0 := h.2.2.2.1.1
      rw [(h.2.2.1.mp hc).resolve_right hs] at h0
      rw [List.length_eq_zero_iff.mp h0]
      simp [PageRec.text, PageRec.chunkList, hc]
  unfold PageRec.airText
  split <;> simp_all

/-- A whole record stays whole in another state, if it reserves nothing and holds no tag where it may not, and neither
state is DELIVERED. -/
theorem PageRec.Whole.of {r r' : PageRec} (h : r.Whole)
    (h1 : r'.reservation.isSome = true → r'.series = .first ∧ r'.count = 0)
    (h2 : r'.state = .awaiting ∨ r'.state = .retryWait ∨ r'.state = .held → r'.reservation = none)
    (h3 : r'.state = .delivered ↔ r.state = .delivered) (hc : r'.chunks = r.chunks)
    (ht : r'.len = r.len ∧ r'.kept = r.kept) (h4 : r'.state = .queued ∨ r'.state = .held → r'.tag = none) : r'.Whole := by
  refine ⟨h1, h2, ?_, ⟨?_, ?_⟩, h4⟩
  · rw [hc, ht.1, h3]; exact h.2.2.1
  · rw [ht.1, ht.2]; exact h.2.2.2.1.1
  · intro cs hcs
    rw [ht.1, ht.2]
    have := h.2.2.2.1.2 cs (hc ▸ hcs)
    refine ⟨this.1, ?_⟩
    rw [← this.2]
    unfold PageRec.text PageRec.chunkList
    rw [hc]

theorem State.SoundIn.recoverRec (h : s.SoundIn im) {m : MsgId} (hm : ∀ r, s.rec? m = some r → r.state = .held) :
    (s.recoverRec m).SoundIn im := by
  unfold State.recoverRec
  split
  · rename_i r hr
    have hid := State.rec?_id hr
    subst hid
    have hw := h.whole hr
    have hres := hw.2.1 (.inr (.inr (hm r hr)))
    refine ((h.unholdRec hr (hm r hr)).putRec (r' := r.recovered)
      (PageRec.sameLinks_of rfl rfl rfl (by simp [PageRec.recovered, hres]) rfl) ?_).file (.inl rfl)
    exact hw.of (by simp [PageRec.recovered]) (by simp [PageRec.recovered]) (by simp [PageRec.recovered, hm r hr]) rfl
      ⟨rfl, rfl⟩ (fun _ => hw.2.2.2.2 (.inr (hm r hr)))
  · exact h

/-- Where the recovery of one record leaves the others. -/
theorem State.rec?_recoverRec (s : State) {m x : MsgId} (hx : x ≠ m) {r : PageRec}
    (h : (s.recoverRec m).rec? x = some r) : s.rec? x = some r := by
  unfold State.recoverRec at h
  split at h
  · rename_i r' hr'
    have hid := State.rec?_id hr'
    rw [State.rec?_congr (s := (s.unholdRec r').putRec r'.recovered) (by simp), State.rec?_putRec] at h
    split at h
    · have : r'.recovered.id = m := hid
      rw [this, if_neg (Ne.symm hx)] at h
      cases h
    · rw [State.rec?_congr (s := s) (by simp)] at h
      exact h
  · exact h

theorem State.SoundIn.recoverFold : ∀ (l : List MsgId) {s : State}, s.SoundIn im → l.Nodup →
    (∀ m ∈ l, ∀ r, s.rec? m = some r → r.state = .held) → (l.foldl State.recoverRec s).SoundIn im
  | [], _, h, _, _ => h
  | m :: l, s, h, hn, hh => by
    simp only [List.nodup_cons] at hn
    refine State.SoundIn.recoverFold l (h.recoverRec (hh m (List.mem_cons_self ..))) hn.2 (fun x hx r hr => ?_)
    exact hh x (List.mem_cons_of_mem _ hx) r (s.rec?_recoverRec (fun he : x = m => hn.1 (by rw [← he]; exact hx)) hr)

/-- Every record of a held list starts its recovery series. -/
theorem State.SoundIn.recoverAll (h : s.SoundIn im) (n : Nat) : (s.recoverAll n).SoundIn im := by
  unfold State.recoverAll
  split
  · rename_i e he
    have hl := h.2.2.2.2.2.2 n e he
    refine State.SoundIn.recoverFold e.held h hl.1 (fun m hm r hr => ?_)
    obtain ⟨e0, he0⟩ := h.entry hr
    have := (h.inPlace hr he0).2.2.2 n e he
    rw [State.rec?_id hr] at this
    exact (this.mp hm).1
  · exact h

theorem State.kept_raiseDelivered (s : State) (r : PageRec) (p : Report) (l : Bool) : s.Kept (s.raiseDelivered r p l) :=
  s.kept_raise _ _

/-- A record that is AWAITING or RETRY_WAIT is delivered. -/
theorem State.SoundIn.deliverOut (h : s.SoundIn im) (hr : s.rec? r.id = some r)
    (hst : r.state = .awaiting ∨ r.state = .retryWait) (p : Report) : (s.deliverOut r p).SoundIn im := by
  have h1 := h.kept (s.kept_raiseDelivered r p false)
  have hr1 : (s.raiseDelivered r p false).rec? r.id = some r := hr
  have hw := h.whole hr
  unfold State.deliverOut
  simp only
  rcases hst with hst | hst
  · have ha : r.id ∈ (s.raiseDelivered r p false).rmat.awaiting := by
      obtain ⟨e, he⟩ := h.entry hr
      exact (h.inPlace hr he).2.2.1.mpr (.inl hst)
    simp only [hst, reduceCtorEq, if_false]
    split
    · have h2 := h1.putRec hr1 r.sameLinks_delivered hw.delivered (.inr ⟨.inl hst, rfl⟩)
      exact h2.freeRec (State.rec?_putRec_self _ _) (by simp [PageRec.delivered]) (fun _ => ha) _
    · exact h1.putRec hr1 r.sameLinks_delivered (hw.afterDelivery rfl rfl rfl rfl rfl ⟨rfl, rfl⟩) (.inr ⟨.inl hst, rfl⟩)
  · have h2 := h1.unfile hr1 (.inr hst)
    simp only [hst, if_true]
    split
    · exact (h2.putRec r.sameLinks_delivered hw.delivered).freeRec _
    · exact (h2.putRec (r' := { r.delivered with readWait := some { left := r.terms.readWait, due := false } })
        r.sameLinks_delivered (hw.afterDelivery rfl rfl rfl rfl rfl ⟨rfl, rfl⟩)).join (.inr rfl)

/-- A record in an image is delivered there. -/
theorem State.SoundIn.deliverLate (h : s.SoundIn im) (hr : s.rec? r.id = some r) (hst : r.state = .placed)
    (p : Report) : (s.deliverLate r p).SoundIn im := by
  have h1 := h.kept (s.kept_raiseDelivered r p true)
  have hr1 : (s.raiseDelivered r p true).rec? r.id = some r := hr
  have hw := h.whole hr
  unfold State.deliverLate
  simp only
  split
  · exact h1.putRec hr1 r.sameLinks_delivered (hw.afterDelivery rfl rfl rfl rfl rfl ⟨rfl, rfl⟩) (.inr ⟨.inr hst, rfl⟩)
  · exact h1.putRec hr1 r.sameLinks_delivered (hw.afterDelivery rfl rfl rfl rfl rfl ⟨rfl, rfl⟩) (.inr ⟨.inr hst, rfl⟩)

/-- A DELIVERED record of the awaiting list is read. -/
theorem State.SoundIn.readRec (h : s.SoundIn im) (hr : s.rec? r.id = some r) (hst : r.state = .delivered)
    (ha : r.id ∈ s.rmat.awaiting) : (s.readRec r).SoundIn im := by
  have hw := h.whole hr
  unfold State.readRec
  split
  · exact h
  · rename_i e he
    simp only
    split
    · exact h.freeRec hr (by simp [hst]) (fun _ => ha) _
    · have k := s.kept_postCharge r.sub (s.plan e.plan).receiptFee { blankRec s .receipt r.sub with msg := some r.id }
      have h1 := h.kept k
      have hr1 := (State.rec?_congr k.2.2.1 r.id).trans hr
      have h2 := h1.putRec (r' := { r with posted := r.posted + e.money.chargeApplied (s.plan e.plan).receiptFee })
        hr1 (PageRec.sameLinks_of rfl rfl rfl rfl rfl) (hw.of hw.1 hw.2.1 Iff.rfl rfl ⟨rfl, rfl⟩ hw.2.2.2.2) (.inl rfl)
      refine h2.freeRec (State.rec?_putRec_self _ _) (by simp [hst]) (fun _ => ?_) _
      show r.id ∈ (s.postCharge _ _ _).rmat.awaiting
      rw [k.2.2.2.2]
      exact ha

theorem State.SoundIn.deliverRead (h : s.SoundIn im) (hr : s.rec? r.id = some r)
    (hst : r.state = .awaiting ∨ r.state = .retryWait) (p : Report) : (s.deliverRead r p).SoundIn im := by
  have h1 := h.kept (s.kept_raiseDelivered r p false)
  have hr1 : (s.raiseDelivered r p false).rec? r.id = some r := hr
  have hw := h.whole hr
  unfold State.deliverRead
  simp only
  rcases hst with hst | hst
  · have ha : r.id ∈ (s.raiseDelivered r p false).rmat.awaiting := by
      obtain ⟨e, he⟩ := h.entry hr
      exact (h.inPlace hr he).2.2.1.mpr (.inl hst)
    simp only [hst, reduceCtorEq, if_false]
    have h2 := h1.putRec hr1 r.sameLinks_delivered hw.delivered (.inr ⟨.inl hst, rfl⟩)
    exact h2.readRec (State.rec?_putRec_self _ _) rfl ha
  · simp only [hst, if_true]
    have h2 := ((h1.unfile hr1 (.inr hst)).putRec r.sameLinks_delivered hw.delivered).join (.inr rfl)
    refine State.SoundIn.readRec (s := (((s.raiseDelivered r p false).unfile r).joinAwaiting r.id).putRec r.delivered) h2
      (State.rec?_putRec_self _ _) rfl ?_
    show r.id ∈ _ ++ [r.id]
    simp

theorem State.SoundIn.tagHolder (h : s.SoundIn im) {n : Nat} {t : PageTag} (hr : s.tagHolder n t = some r) :
    s.rec? r.id = some r := h.1.rec?_of_mem (List.mem_of_find?_eq_some hr)

theorem State.kept_countStale (s : State) : s.Kept s.countStale := State.kept_of rfl rfl rfl rfl

theorem State.SoundIn.heard (h : s.SoundIn im) (n : Nat) (p : Report) : (s.heard n p).SoundIn im := by
  unfold State.heard
  split
  · exact h.kept s.kept_countStale
  · rename_i r hr
    have hr := h.tagHolder hr
    split
    · rename_i hst
      split
      · exact h.freeRec hr (by simp [hst]) (by simp [hst]) _
      · exact h.deliverOut hr (.inl hst) p
    · rename_i hst; exact h.deliverOut hr (.inr hst) p
    · rename_i hst; exact h.deliverLate hr hst p
    · exact h.kept (State.kept_of rfl rfl rfl rfl)
    · exact h.kept s.kept_countStale
    · exact h.kept s.kept_countStale

theorem State.SoundIn.readReport (h : s.SoundIn im) (n : Nat) (p : Report) : (s.readReport n p).SoundIn im := by
  unfold State.readReport
  split
  · exact h.kept s.kept_countStale
  · rename_i r hr
    have hr := h.tagHolder hr
    split
    · rename_i hst
      split
      · exact h.freeRec hr (by simp [hst]) (by simp [hst]) _
      · exact h.deliverRead hr (.inl hst) p
    · rename_i hst; exact h.deliverRead hr (.inr hst) p
    · rename_i hst; exact (h.deliverLate hr hst p).kept (State.kept_countStale _)
    · rename_i hst
      split
      · rename_i ha; exact h.readRec hr hst ha
      · exact h.kept s.kept_countStale
    · exact h.kept s.kept_countStale
    · exact h.kept s.kept_countStale

/-- A report taken keeps the agreement. -/
theorem State.SoundIn.takeReport (h : s.SoundIn im) (p : Report) : (s.takeReport p).SoundIn im := by
  unfold State.takeReport
  split
  · exact h.kept (State.kept_of rfl rfl rfl rfl)
  · rename_i n _
    split
    · exact h.kept (State.kept_of rfl rfl rfl rfl)
    · rename_i e he
      split
      · exact h.kept (State.kept_of rfl rfl rfl rfl)
      · simp only
        have h1 := h.kept (State.kept_setSub (x := { e with heard := some { zone := p.zone, age := 0 } }) he
          ⟨rfl, rfl, rfl, rfl, rfl⟩)
        unfold State.byKind
        split
        · exact h1.heard _ _
        · exact h1.readReport _ _
        · exact h1.recoverAll _
        · split
          · exact h1.recoverAll _
          · exact h1

/-! ### Expiries -/

theorem State.SoundIn.retry (h : s.SoundIn im) (hr : s.rec? r.id = some r) (hst : r.state = .awaiting) :
    (s.retry r).SoundIn im := by
  obtain ⟨e, he⟩ := h.entry hr
  have hw := h.whole hr
  have hres := hw.2.1 (.inl hst)
  exact ((h.leaveAwaiting hr ((h.inPlace hr he).2.2.1.mpr (.inl hst))).putRec
    (r' := { r with state := .retryWait, replyWait := none, skip := r.terms.backoffAfter r.count - 1 })
    (PageRec.sameLinks_of rfl rfl rfl rfl rfl)
    (hw.of hw.1 (fun _ => hres) (by simp [hst]) rfl ⟨rfl, rfl⟩ (by simp))).file (.inr rfl)

/-- A miss: the record leaves the awaiting list for the held list, without its tag. -/
theorem State.SoundIn.miss (h : s.SoundIn im) (hr : s.rec? r.id = some r) (hst : r.state = .awaiting) :
    (s.miss r).SoundIn im := by
  obtain ⟨e, he⟩ := h.entry hr
  have hw := h.whole hr
  have hres := hw.2.1 (.inl hst)
  have hL := h.leaveAwaiting hr ((h.inPlace hr he).2.2.1.mpr (.inl hst))
  have hP := hL.2.2.2
  unfold State.miss
  simp only
  refine State.SoundIn.kept ?_ ((State.kept_postRefund _ _).trans (State.kept_raise _ _ _))
  generalize hh : ({ r with
      state := .held, replyWait := none, tag := none, holdWait := some { left := r.terms.hold, due := false }
      refunded := r.refunded || r.series == .first } : PageRec) = q
  have hq : q.state = .held ∧ q.id = r.id ∧ q.sub = r.sub ∧ q.tag = none ∧ q.reservation = r.reservation ∧
      q.chunks = r.chunks ∧ (q.len = r.len ∧ q.kept = r.kept) := by
    subst hh; exact ⟨rfl, rfl, rfl, rfl, rfl, rfl, ⟨rfl, rfl⟩⟩
  obtain ⟨q1, q2, q3, q4, q5, q6, q7⟩ := hq
  let before (m : MsgId) : Bool :=
    match ((s.leaveAwaiting r.id).putRec q).rec? m with | some x => older q.seq x.seq | none => false
  have hsub : ∀ m, ((((s.leaveAwaiting r.id).putRec q).holdRec q).releaseTagOf r).sub? m = if m = r.sub then some
      { e with
        held := insertBefore before r.id e.held
        tags := (match r.tag with | some g => e.tags.filter (fun x => x != g) | none => e.tags) } else s.sub? m := by
    intro m
    rw [State.sub?_releaseTagOf]
    unfold State.holdRec
    rw [State.sub?_modSub, State.sub?_modSub, q3, if_pos rfl, q2]
    by_cases hm : m = r.sub
    · rw [if_pos hm, if_pos hm]
      show Option.map _ (Option.map _ (s.sub? r.sub)) = _
      rw [he]
      rfl
    · rw [if_neg hm, if_neg hm, if_neg hm]
      rfl
  have hrec : ((((s.leaveAwaiting r.id).putRec q).holdRec q).releaseTagOf r).store.records =
      s.store.records.set r.id.slot q := by simp [q2, State.leaveAwaiting]
  have hold := entryAgreesOn_cons_self.mp (hL.2.2.1.1 _ _ he)
  refine hL.attach (t := (((s.leaveAwaiting r.id).putRec q).holdRec q).releaseTagOf r) he q2 q3 ?_ ?_
    (h.1.set (r := q) (by rw [hrec, q2])) (State.live_perm_set hL.1 hL.2.1 q2 hrec) hsub rfl rfl
    (by simp [q4]) (fun g => ?_) (by rw [q5]) (pim := False) (paw := False) (fun w => ?_) (joined_not id hP.2.2.1.1) ?_
    (by simp [q1]) (by simp [q1]) ?_
  · exact hw.of (by simp [q5, hres]) (by simp [q5, hres]) (by simp [q1, hst]) q6 q7 (fun _ => q4)
  · unfold PageRec.chunkList; rw [q6]
  · cases ht : r.tag with
    | none => simp [q4]
    | some g' => simp [q4, @eq_comm _ g' g]
  · have : ((((s.leaveAwaiting r.id).putRec q).holdRec q).releaseTagOf r).queue w = (s.leaveAwaiting r.id).queue w :=
      State.queue_congr (by simp) w
    rw [this]
    exact joined_not (by simp [q1]) (hP.2.1 w).1
  · have : ((((s.leaveAwaiting r.id).putRec q).holdRec q).releaseTagOf r).rmat = (s.leaveAwaiting r.id).rmat := by simp
    rw [this]
    exact joined_not id hP.2.2.2.1.1
  · exact joined_perm q1 (hP.2.2.2.2 _ _ he).1 (hL.notIn (hP.2.2.2.2 _ _ he)) (insertBefore_perm _ _ _)

theorem State.SoundIn.expire (h : s.SoundIn im) (hr : s.rec? r.id = some r) (hst : r.state = .awaiting) :
    (s.expire r).SoundIn im := by
  unfold State.expire
  split
  · exact h.freeRec hr (by simp [hst]) (by simp [hst]) _
  · split
    · exact h.retry hr hst
    · exact h.miss hr hst

/-- A record of the awaiting list found there. -/
theorem State.found {l : List MsgId} {p : PageRec → Bool}
    (hr : (l.filterMap s.rec?).find? p = some r) : s.rec? r.id = some r ∧ r.id ∈ l ∧ p r = true := by
  obtain ⟨m, hm, hrec⟩ := List.mem_filterMap.mp (List.mem_of_find?_eq_some hr)
  have := State.rec?_id hrec
  subst this
  exact ⟨hrec, hm, List.find?_some hr⟩

/-! ### Withdrawal -/

/-- An entry without the tag of a record. -/
def Entry.untagged (e : Entry) (t : Option PageTag) : Entry :=
  { e with tags := match t with | some g => e.tags.filter (fun x => x != g) | none => e.tags }

theorem Entry.mem_untagged (e : Entry) (t : Option PageTag) (g : PageTag) :
    g ∈ (e.untagged t).tags ↔ g ∈ e.tags ∧ t ≠ some g := by
  unfold Entry.untagged
  cases t with
  | none => simp
  | some g' => simp [@eq_comm _ g' g]

theorem State.sub?_releaseTagOf_untagged {e : Entry} (he : s.sub? r.sub = some e) (m : Nat) :
    (s.releaseTagOf r).sub? m = if m = r.sub then some (e.untagged r.tag) else s.sub? m := by
  rw [State.sub?_releaseTagOf, he]
  rfl

theorem State.withdrawRec_first {m : MsgId} (hr : s.rec? m = some r) (hst : r.state = .placed) (hc : r.count = 0) :
    s.withdrawRec m = (((s.releaseTagOf r).putRec { r with state := .queued, placement := none, tag := none }).fileRec
      { r with state := .queued, placement := none, tag := none }) := by
  unfold State.withdrawRec
  rw [hr]
  simp only [hst, hc, if_true]

theorem State.withdrawRec_later {m : MsgId} (hr : s.rec? m = some r) (hst : r.state = .placed) (hc : r.count ≠ 0) :
    s.withdrawRec m = ((s.putRec { r with state := .retryWait, placement := none, skip := 0 }).fileRec
      { r with state := .retryWait, placement := none, skip := 0 }) := by
  unfold State.withdrawRec
  rw [hr]
  simp only [hst, hc, if_false]

theorem State.withdrawRec_delivered {m : MsgId} (hr : s.rec? m = some r) (hst : r.state = .delivered) :
    s.withdrawRec m = if r.freeAfterAiring = true then
      (s.putRec { r with late := false, placement := none }).freeRec { r with late := false, placement := none }
        .deliveredDone
      else (s.putRec { r with late := false, placement := none }).joinAwaiting m := by
  unfold State.withdrawRec
  rw [hr]
  simp only [hst]

/-- One record leaves a withdrawn image. -/
theorem State.SoundIn.withdrawRec {m : MsgId} (h : s.SoundIn (m :: im)) : (s.withdrawRec m).SoundIn im := by
  obtain ⟨r, hr, rfl⟩ := h.rec_of_lists h.2.2.2.2.1 (List.mem_cons_self ..)
  obtain ⟨e, he⟩ := h.entry hr
  have hw := h.whole hr
  have hn := h.2.2.2.2.1.1
  simp only [List.nodup_cons] at hn
  have hwo : Without r.id (r.id :: im) im :=
    ⟨List.sublist_cons_self _ _, fun x => by
      simp only [List.mem_cons]
      exact ⟨fun hx => ⟨.inr hx, fun he => hn.1 (he ▸ hx)⟩, fun hx => hx.1.resolve_left hx.2⟩⟩
  have hL := h.leaveImage hr (List.mem_cons_self ..) hwo
  have hP := hL.2.2.2
  rcases (h.inPlace hr he).2.1.mp (List.mem_cons_self ..) with hst | ⟨hst, _⟩
  · by_cases hc : r.count = 0
    · rw [State.withdrawRec_first hr hst hc]
      generalize hq : ({ r with state := .queued, placement := none, tag := none } : PageRec) = q
      have hq : q.state = .queued ∧ q.id = r.id ∧ q.sub = r.sub ∧ q.tag = none ∧ q.reservation = r.reservation ∧
          q.chunks = r.chunks ∧ (q.len = r.len ∧ q.kept = r.kept) ∧ q.series = r.series ∧ q.count = r.count := by
        subst hq; exact ⟨rfl, rfl, rfl, rfl, rfl, rfl, ⟨rfl, rfl⟩, rfl, rfl⟩
      obtain ⟨q1, q2, q3, q4, q5, q6, q7, q8, q9⟩ := hq
      have he' : ((s.releaseTagOf r).putRec q).sub? q.sub = some (e.untagged r.tag) := by
        show (s.releaseTagOf r).sub? q.sub = _
        rw [q3, State.sub?_releaseTagOf_untagged he, if_pos rfl]
      obtain ⟨g1, g2⟩ := ((s.releaseTagOf r).putRec q).queue_fileRec he'
      have hqq : ∀ w, ((s.releaseTagOf r).putRec q).queue w = s.queue w := State.queue_congr (by simp)
      have hrec : (((s.releaseTagOf r).putRec q).fileRec q).store.records = s.store.records.set r.id.slot q := by
        simp [q2]
      refine hL.attach he q2 q3 ?_ ?_ (h.1.set (r := q) (by rw [hrec, q2])) (State.live_perm_set hL.1 hL.2.1 q2 hrec)
        (e' := e.untagged r.tag) (fun m => ?_) rfl rfl (by simp [q4])
        (fun g => by rw [q4, Entry.mem_untagged]; simp) (by rw [q5]; rfl) (pim := False) (paw := False) (fun w => ?_)
        (joined_not id hP.2.2.1.1) ?_ (by simp [q1]) (by simp [q1])
        (joined_not (by simp [q1]) (hP.2.2.2.2 _ _ he).1)
      · exact hw.of (by rw [q5, q8, q9]; exact hw.1) (by simp [q1]) (by simp [q1, hst]) q6 q7 (fun _ => q4)
      · unfold PageRec.chunkList; rw [q6]
      · have : (((s.releaseTagOf r).putRec q).fileRec q).subs = (s.releaseTagOf r).subs := by simp
        rw [State.sub?_congr this, State.sub?_releaseTagOf_untagged he]
      · by_cases hw' : w = e.home
        · subst hw'
          refine joined_perm ⟨.inl q1, rfl⟩ (hP.2.1 _).1 (hL.notIn (hP.2.1 _)) ?_
          rw [← q2, ← hqq]
          exact g1
        · rw [g2 w hw', hqq]
          exact joined_not (fun hh => hw' hh.2) (hP.2.1 w).1
      · rw [show (((s.releaseTagOf r).putRec q).fileRec q).rmat = s.rmat by simp]
        exact joined_not id hP.2.2.2.1.1
    · rw [State.withdrawRec_later hr hst hc]
      have hres : r.reservation = none := by
        cases hr' : r.reservation with
        | none => rfl
        | some a => exact absurd (hw.1 (by simp [hr'])).2 hc
      exact (hL.putRec (r' := { r with state := .retryWait, placement := none, skip := 0 })
        (PageRec.sameLinks_of rfl rfl rfl rfl rfl)
        (hw.of hw.1 (fun _ => hres) (by simp [hst]) rfl ⟨rfl, rfl⟩ (by simp))).file (.inr rfl)
  · rw [State.withdrawRec_delivered hr hst]
    have h2 := hL.putRec (r' := { r with late := false, placement := none }) (PageRec.sameLinks_of rfl rfl rfl rfl rfl)
      (hw.of hw.1 hw.2.1 Iff.rfl rfl ⟨rfl, rfl⟩ hw.2.2.2.2)
    split
    · exact h2.freeRec _
    · exact h2.join (.inr hst)

/-- The records of an image leave it, one after the other. -/
theorem State.SoundIn.withdrawFold : ∀ (l : List MsgId) {s : State}, s.SoundIn (l ++ im) →
    (l.foldl State.withdrawRec s).SoundIn im
  | [], _, h => h
  | _ :: l, _, h => State.SoundIn.withdrawFold l h.withdrawRec

/-! ### Placement -/

theorem Entry.freeTag_not_mem {e : Entry} {g : PageTag} (h : e.freeTag = some g) : g ∉ e.tags := by
  have := List.find?_some h
  simpa using this

theorem Entry.mem_holdTag (e : Entry) (t g : PageTag) : g ∈ (e.holdTag t).tags ↔ g = t ∨ g ∈ e.tags := by
  unfold Entry.holdTag allTags
  simp

/-- An entry with the tag of a placement. -/
def Entry.tagged (e : Entry) : Option PageTag → Entry
  | some t => e.holdTag t
  | none => e

/-- A record is placed. -/
theorem State.SoundIn.placeRec (h : s.SoundIn im) (hr : s.rec? r.id = some r) {e : Entry} (he : s.sub? r.sub = some e)
    (hst : r.state = .queued ∨ r.state = .retryWait) (b : Build) (zones : ZoneSet) (runs : List (Zone × Nat))
    (him : im'.Perm (r.id :: im)) : (s.placeRec b r e zones runs).SoundIn im' := by
  have hw := h.whole hr
  have hL := h.unfile hr hst
  have hP := hL.2.2.2
  have he1 : (s.unfile r).sub? r.sub = some e := by
    rw [State.sub?_congr (s := s) (by simp)]; exact he
  have hold := entryAgreesOn_cons_self.mp (hL.2.2.1.1 _ _ he1)
  unfold State.placeRec
  simp only
  generalize ht : placementTag r e = tag
  generalize hq : r.placedIn b.image zones runs tag = q
  have hq : q.state = .placed ∧ q.id = r.id ∧ q.sub = r.sub ∧ q.tag = tag ∧ q.reservation = r.reservation ∧
      q.chunks = r.chunks ∧ (q.len = r.len ∧ q.kept = r.kept) ∧ q.series = r.series ∧ q.count = r.count := by
    subst hq; exact ⟨rfl, rfl, rfl, rfl, rfl, rfl, ⟨rfl, rfl⟩, rfl, rfl⟩
  obtain ⟨q1, q2, q3, q4, q5, q6, q7, q8, q9⟩ := hq
  -- the tag is the record's own or a free one
  have htag : ∀ g, tag = some g → r.tag = some g ∨ g ∉ e.tags := by
    intro g hg
    subst hg
    unfold placementTag at ht
    split at ht
    · exact .inr (Entry.freeTag_not_mem ht)
    · rename_i h1 h2; exact .inl (h2.trans ht)
    · exact .inl ht
  have hlost : tag = none → r.tag = none := by
    intro hg
    subst hg
    unfold placementTag at ht
    split at ht
    · assumption
    · cases ht
    · exact ht
  have hkeep : ∀ g, r.tag = some g → tag = some g := by
    intro g hg
    rw [← ht]
    unfold placementTag
    rw [hg]
    cases e.kind <;> rfl
  generalize hu : (match tag with
    | some t => ((s.unfile r).putRec q).setSub r.sub (e.holdTag t)
    | none => (s.unfile r).putRec q) = u
  have hu1 : u.store.records = s.store.records.set r.id.slot q ∧ u.wsch.queues = (s.unfile r).wsch.queues ∧
      u.rmat = s.rmat ∧ ∀ m, u.sub? m = if m = r.sub then some (e.tagged tag)
        else s.sub? m := by
    subst hu
    have hs : ∀ m, ((s.unfile r).putRec q).sub? m = s.sub? m := State.sub?_congr (by simp)
    cases tag with
    | none =>
      refine ⟨by simp [q2], rfl, by simp, fun m => ?_⟩
      rw [hs]
      split
      · rename_i hm; rw [hm, he]; rfl
      · rfl
    | some t =>
      refine ⟨by simp [q2], rfl, by simp, fun m => ?_⟩
      rw [State.sub?_setSub, hs]; rfl
  obtain ⟨u1, u2, u3, u4⟩ := hu1
  have hsend : ∀ t : State, t.store.records = u.store.records → t.wsch.queues = u.wsch.queues →
      t.rmat.awaiting = u.rmat.awaiting → t.subs = u.subs → t.SoundIn im' := by
    intro t t1 t2 t3 t4
    have hrec : t.store.records = (s.unfile r).store.records.set r.id.slot q := by rw [t1, u1]; simp
    refine hL.attach (t := t) (r' := q) he1 q2 q3 ?_ ?_ (hL.1.set (r := q) (by rw [hrec, q2]))
      (State.live_perm_set hL.1 hL.2.1 q2 hrec) (e' := e.tagged tag)
      (fun m => ?_) (by cases tag <;> rfl) (by cases tag <;> rfl) (fun g hg => htag g (q4 ▸ hg)) (fun g => ?_) ?_
      (pim := True) (paw := False) (fun w => ?_) (joined_perm trivial hP.2.2.1.1 (hL.notIn hP.2.2.1) him) ?_
      (by simp [q1]) (by simp [q1]) ?_
    · exact hw.of (by rw [q5, q8, q9]; exact hw.1) (by simp [q1])
        (by rw [q1]; rcases hst with hst | hst <;> simp [hst]) q6 q7 (by simp [q1])
    · unfold PageRec.chunkList; rw [q6]
    · rw [State.sub?_congr t4, u4, State.sub?_congr (s := s) (t := s.unfile r) (by simp)]
    · rw [q4]
      cases tag with
      | none => simp [hlost rfl, Entry.tagged]
      | some t =>
        simp only [Entry.tagged, Entry.mem_holdTag, Option.some.injEq]
        constructor
        · rintro (hg | hg)
          · exact .inl hg.symm
          · by_cases hgt : r.tag = some g
            · exact .inl (Option.some.inj (hkeep g hgt))
            · exact .inr ⟨hg, hgt⟩
        · rintro (hg | hg)
          · exact .inl hg.symm
          · exact .inr hg.1
    · cases tag <;> simp [q5, Entry.holdTag, Entry.tagged]
    · rw [State.queue_congr (s := s.unfile r) (t := t) (by rw [t2, u2])]
      exact joined_not (by simp [q1]) (hP.2.1 w).1
    · rw [t3, u3]
      have := hP.2.2.2.1.1
      rw [show (s.unfile r).rmat = s.rmat by simp] at this ⊢
      exact joined_not id this
    · cases tag <;> exact joined_not (by simp [q1]) (hP.2.2.2.2 _ _ he1).1
  refine hsend _ ?_ ?_ ?_ ?_ <;>
    (rw [← hu]; unfold State.setBuild; clear hu hlost ht hq htag hkeep u4 hsend q4; cases tag <;> simp)

/-! ### The pool and the slots -/

theorem insertRising_perm (n : Nat) (l : List Nat) : (insertRising n l).Perm (n :: l) := by
  induction l with
  | nil => exact .refl _
  | cons x xs ih =>
    unfold insertRising
    split
    · exact .refl _
    · exact (ih.cons x).trans (.swap _ _ _)

theorem insertRising_sorted (n : Nat) (l : List Nat) (h : l.Pairwise (· ≤ ·)) : (insertRising n l).Pairwise (· ≤ ·) := by
  induction l with
  | nil => simp [insertRising]
  | cons x xs ih =>
    simp only [List.pairwise_cons] at h
    unfold insertRising
    split
    · rename_i hx
      simp only [List.pairwise_cons, List.mem_cons]
      exact ⟨fun a ha => by rcases ha with rfl | ha; exact hx; exact Nat.le_trans hx (h.1 a ha), h⟩
    · rename_i hx
      simp only [List.pairwise_cons]
      refine ⟨fun a ha => ?_, ih h.2⟩
      rcases List.mem_cons.mp ((insertRising_perm n xs).mem_iff.mp ha) with rfl | ha
      · omega
      · exact h.1 a ha

theorem sorted_used (l : List Nat) : (l.foldr insertRising []).Pairwise (· ≤ ·) ∧ (l.foldr insertRising []).Perm l := by
  induction l with
  | nil => simp
  | cons x xs ih =>
    simp only [List.foldr_cons]
    exact ⟨insertRising_sorted _ _ ih.1, (insertRising_perm _ _).trans (ih.2.cons x)⟩

theorem unusedAt_spec (l : List Nat) (k : Nat) (h : l.Pairwise (· ≤ ·)) :
    k ≤ unusedAt l k ∧ unusedAt l k ∉ l ∧ unusedAt l k ≤ k + l.length := by
  induction l generalizing k with
  | nil => simp [unusedAt]
  | cons u us ih =>
    simp only [List.pairwise_cons] at h
    unfold unusedAt
    split
    · rename_i hu
      obtain ⟨i1, i2, i3⟩ := ih (k + 1) h.2
      refine ⟨by omega, ?_, by simp only [List.length_cons]; omega⟩
      simp only [List.mem_cons, not_or]
      exact ⟨by omega, i2⟩
    · rename_i hu
      refine ⟨Nat.le_refl _, ?_, by omega⟩
      simp only [List.mem_cons, not_or]
      exact ⟨by omega, fun hm => by have := h.1 k hm; omega⟩

/-- A chunk picked is a free one of the pool. -/
theorem pickChunk_free (used : List Nat) (d : Nat) (h : used.length < Config.chunks) :
    pickChunk used d ∉ used ∧ pickChunk used d < Config.chunks := by
  obtain ⟨h1, h2⟩ := sorted_used used
  obtain ⟨_, i2, i3⟩ := unusedAt_spec (used.foldr insertRising []) (Config.chunkPick d % (Config.chunks - used.length)) h1
  unfold pickChunk
  refine ⟨fun hm => i2 (h2.mem_iff.mpr hm), ?_⟩
  have := Nat.mod_lt (Config.chunkPick d) (show 0 < Config.chunks - used.length by omega)
  rw [h2.length_eq] at i3
  omega

/-- The chunks taken for a text are free ones, none twice, as many as asked. -/
theorem takeChunks_free (n : Nat) : ∀ (used : List Nat) (d : Nat) (t : Text), used.length + n ≤ Config.chunks →
    ((takeChunks n used d t).map Chunk.index).Nodup ∧
      (∀ i ∈ (takeChunks n used d t).map Chunk.index, i ∉ used ∧ i < Config.chunks) ∧
      (takeChunks n used d t).length = n := by
  induction n with
  | zero => intro used d t _; simp [takeChunks]
  | succ n ih =>
    intro used d t h
    obtain ⟨p1, p2⟩ := pickChunk_free used d (by omega)
    obtain ⟨i1, i2, i3⟩ := ih (pickChunk used d :: used) (d + 1) (t.drop Config.chunkChars)
      (by simp only [List.length_cons]; omega)
    refine ⟨?_, ?_, by simp [takeChunks, i3]⟩
    · simp only [takeChunks, List.map_cons, List.nodup_cons]
      exact ⟨fun hm => (i2 _ hm).1 (List.mem_cons_self ..), i1⟩
    · intro i hi
      simp only [takeChunks, List.map_cons, List.mem_cons] at hi
      rcases hi with rfl | hi
      · exact ⟨p1, p2⟩
      · exact ⟨fun hm => (i2 i hi).1 (List.mem_cons_of_mem _ hm), (i2 i hi).2⟩

/-- The chunks taken hold the whole text, in order. -/
theorem text_takeChunks (n : Nat) : ∀ (used : List Nat) (d : Nat) (t : Text), t.length ≤ Config.chunkChars * n →
    (takeChunks n used d t).flatMap Chunk.chars = t := by
  induction n with
  | zero => intro used d t h; simp only [Nat.mul_zero, Nat.le_zero] at h; simp [takeChunks, List.length_eq_zero_iff.mp h]
  | succ n ih =>
    intro used d t h
    simp only [takeChunks, List.flatMap_cons]
    rw [ih _ _ _ (by simp only [Config.chunkChars, List.length_drop] at *; omega)]
    exact List.take_append_drop ..

theorem lowestVacant_spec {α : Type} (l : List (Nat × α)) (k : Nat) (h : (l.map Prod.fst).Pairwise (· < ·))
    (hk : ∀ c ∈ l, k ≤ c.1) : k ≤ lowestVacant k l ∧ ∀ c ∈ l, c.1 ≠ lowestVacant k l := by
  induction l generalizing k with
  | nil => simp [lowestVacant]
  | cons c cs ih =>
    simp only [List.map_cons, List.pairwise_cons] at h
    have hgt : ∀ x ∈ cs, c.1 < x.1 := fun x hx => h.1 x.1 (List.mem_map_of_mem hx)
    unfold lowestVacant
    split
    · rename_i hc
      obtain ⟨i1, i2⟩ := ih (k + 1) h.2 (fun x hx => by have := hgt x hx; omega)
      refine ⟨by omega, fun x hx => ?_⟩
      rcases List.mem_cons.mp hx with rfl | hx
      · omega
      · exact i2 x hx
    · rename_i hc
      have h1 := hk c (List.mem_cons_self ..)
      refine ⟨Nat.le_refl _, fun x hx => ?_⟩
      rcases List.mem_cons.mp hx with rfl | hx
      · exact hc
      · have := hgt x hx; omega

/-- The lowest vacant number is vacant. -/
theorem Table.get?_lowest {α : Type} {t : Table α} (h : t.wf = true) : t.get? t.lowest = none := by
  obtain ⟨cells⟩ := t
  simp only [Table.wf, decide_eq_true_eq] at h
  have := (lowestVacant_spec cells 0 h (fun _ _ => Nat.zero_le _)).2
  unfold Table.get? Table.lowest
  simp only [Option.map_eq_none_iff, List.find?_eq_none, beq_iff_eq]
  exact this

/-! ### Acceptance -/

/-- The record of a SUBMIT joins its home window's queue, and its entry counts it. -/
theorem State.SoundIn.submit (h : s.SoundIn im) {a : SubmitArgs} {e : Entry} (he : s.sub? a.sub = some e)
    (hroom : chunksFor a.text.length ≤ s.freeChunks) (tag : Nat) : (applySubmit tag a s).SoundIn im := by
  obtain ⟨hK, hA, hP⟩ := h
  have hslot : s.store.records.get? s.nextId.slot = none := Table.get?_lowest hK.1
  have hno : s.nextId ∉ s.live.map PageRec.id := by
    intro hm
    obtain ⟨x, hx, hid⟩ := List.mem_map.mp hm
    have := get?_of_rec? (hK.rec?_of_mem hx)
    rw [hid, hslot] at this
    cases this
  unfold applySubmit
  rw [he]
  simp only
  generalize hr : a.record s e s.nextId = r
  have hrr : r.state = .queued ∧ r.id = s.nextId ∧ r.sub = a.sub ∧ r.tag = none ∧ r.reservation = some a.estimate ∧
      r.series = .first ∧ r.count = 0 ∧ r.len = a.text.length ∧ r.kept = a.text ∧
      r.chunks = if a.text = [] then none else
        some (takeChunks (chunksFor a.text.length) s.usedChunks s.fresh a.text) := by
    subst hr; exact ⟨rfl, rfl, rfl, rfl, rfl, rfl, rfl, rfl, rfl, rfl⟩
  obtain ⟨r1, r2, r3, r4, r5, r6, r7, r8, rk, r9⟩ := hrr
  have hfit : s.usedChunks.length + chunksFor a.text.length ≤ Config.chunks ∨ a.text = [] := by
    by_cases ht : a.text = []
    · exact .inr ht
    · left
      have : 0 < a.text.length := List.length_pos_iff.mpr ht
      unfold State.freeChunks at hroom
      unfold chunksFor ceilDiv at hroom ⊢
      simp only [Config.chunkChars] at hroom ⊢
      omega
  have hw : r.Whole := by
    refine ⟨fun _ => ⟨r6, r7⟩, by simp [r1], ?_, ⟨by rw [rk, r8], fun cs hcs => ?_⟩, fun _ => r4⟩
    · rw [r9, r8, r1]
      by_cases ht : a.text = [] <;> simp [ht]
    · rw [r9] at hcs
      split at hcs
      · cases hcs
      · rename_i ht
        cases hcs
        have hf := takeChunks_free (chunksFor a.text.length) s.usedChunks s.fresh a.text (hfit.resolve_right ht)
        refine ⟨by rw [hf.2.2, r8]; rfl, ?_⟩
        unfold PageRec.text PageRec.chunkList
        rw [r9, if_neg ht, rk]
        rw [Option.getD_some, text_takeChunks]
        unfold chunksFor ceilDiv
        simp only [Config.chunkChars]
        omega
  have hch : (r.chunkList.map Chunk.index).Nodup ∧ ∀ i ∈ r.chunkList.map Chunk.index,
      i < Config.chunks ∧ i ∉ s.usedChunks := by
    unfold PageRec.chunkList
    rw [r9]
    by_cases ht : a.text = []
    · simp [ht]
    · rw [if_neg ht]
      have hf := takeChunks_free (chunksFor a.text.length) s.usedChunks s.fresh a.text (hfit.resolve_right ht)
      exact ⟨hf.1, fun i hi => ⟨(hf.2.1 i hi).2, (hf.2.1 i hi).1⟩⟩
  generalize hu : ((s.allocate r).setSub a.sub
      { e with live := e.live + 1, money := { e.money with reserved := e.money.reserved + a.estimate } }).judgeCongestion
      = u
  have u1 : u.store.records = s.store.records.set r.id.slot r := by rw [← hu]; simp [State.allocate]
  have u2 : u.wsch = s.wsch := by rw [← hu]; simp [State.allocate]
  have u3 : u.rmat = s.rmat := by rw [← hu]; simp [State.allocate]
  have u4 : ∀ m, u.sub? m = if m = a.sub then some
      { e with live := e.live + 1, money := { e.money with reserved := e.money.reserved + a.estimate } } else s.sub? m := by
    intro m
    rw [← hu, State.sub?_congr (State.judgeCongestion_frame _).1, State.sub?_setSub]
    rfl
  have hlive : (u.fileRec r).live.Perm (r :: s.live) := by
    unfold State.live
    rw [show (u.fileRec r).store.records = s.store.records.set r.id.slot r by simp [u1]]
    exact Table.values_insert_perm (by rw [r2]; exact hslot) r
  have hsub : ∀ m, (u.fileRec r).sub? m = if m = r.sub then some
      { e with live := e.live + 1, money := { e.money with reserved := e.money.reserved + a.estimate } } else s.sub? m := by
    intro m
    rw [State.sub?_congr (s := u) (by simp), u4, r3]
  have hsub' : u.sub? r.sub = some
      { e with live := e.live + 1, money := { e.money with reserved := e.money.reserved + a.estimate } } := by
    rw [u4, r3, if_pos rfl]
  obtain ⟨q1, q2⟩ := u.queue_fileRec hsub'
  have hqq : ∀ w, u.queue w = s.queue w := State.queue_congr (by rw [u2])
  have nin : ∀ {l : List MsgId}, Lists s.live l → r.id ∉ l := fun hl hm => hno (r2 ▸ hl.2 _ hm)
  refine State.SoundIn.kept (s := u.fileRec r) ?_ (State.kept_of rfl rfl rfl rfl)
  refine ⟨hK.set (r := r) (by simp [u1]), ?_, ?_⟩
  · refine AgreesOn.perm hlive.symm (hA.add (by rw [r3]; exact he) hw r4 hch.1 hch.2 hsub rfl rfl ?_)
    rw [r5]; rfl
  · refine PlacedOn.perm hlive.symm (hP.attach (pim := False) (paw := False) (r2 ▸ hno) (e := _) (hsub r.sub ▸ if_pos rfl)
      (fun w => ?_) (joined_not id hP.2.2.1.1) ?_ (by simp [r1]) (by simp [r1]) (fun n x hx => ?_))
    · by_cases hw' : w = e.home
      · subst hw'
        refine joined_perm ⟨.inl r1, rfl⟩ (hP.2.1 _).1 (nin (hP.2.1 _)) ?_
        rw [← hqq]
        exact q1
      · rw [q2 w hw', hqq]
        exact joined_not (fun hh => hw' hh.2) (hP.2.1 w).1
    · rw [show (u.fileRec r).rmat = s.rmat by simp [u3]]
      exact joined_not id hP.2.2.2.1.1
    · rw [hsub] at hx
      split at hx
      · rename_i hn
        cases hx
        subst hn
        exact ⟨e, by rw [r3]; exact he, rfl, joined_not (by simp [r1]) (hP.2.2.2.2 _ _ he).1⟩
      · exact ⟨x, hx, rfl, joined_not (by simp [r1]) (hP.2.2.2.2 _ _ hx).1⟩

/-! ### Airing -/

/-- A record in no place is put without its reservation, which its entry no longer holds. -/
theorem State.LooseIn.putReleased (h : s.LooseIn r im) {q : PageRec} (h1 : q.id = r.id) (h2 : q.sub = r.sub)
    (h3 : q.tag = r.tag) (h4 : q.reservation = none) (h5 : q.chunks = r.chunks) (hw : q.Whole) :
    ((s.releaseReservation r).putRec q).LooseIn q im := by
  obtain ⟨hK, hr, hA, hP⟩ := h
  obtain ⟨e, he⟩ := Option.isSome_iff_exists.mp (hA.2.1 r (List.mem_cons_self ..)).1
  have hold := entryAgreesOn_cons_self.mp (hA.1 _ _ he)
  have hrec : ((s.releaseReservation r).putRec q).store.records = s.store.records.set q.id.slot q := by simp
  have ho : ((s.releaseReservation r).putRec q).others q.id.slot = s.others r.id.slot := by
    rw [State.others_putRec, h1, State.others_congr (s := s) (by simp)]
  have hsub : ∀ m, ((s.releaseReservation r).putRec q).sub? m = if m = r.sub then some
      { e with money := { e.money with reserved := e.money.reserved - r.reservation.getD 0 } } else s.sub? m := by
    intro m
    show (s.releaseReservation r).sub? m = _
    rw [State.sub?_releaseReservation, he]
    rfl
  have hq : ((s.releaseReservation r).putRec q).queue = s.queue := funext fun w => State.queue_congr (by simp) w
  refine ⟨hK.set (r := q) hrec, State.rec?_putRec_self _ _, ?_, ?_⟩
  · rw [ho]
    refine hA.change he h2 hw (by unfold PageRec.chunkList; rw [h5]) hsub rfl (fun g hg => .inl (h3 ▸ hg)) (fun g => ?_) ?_
    · rw [h3]
      by_cases hg : r.tag = some g
      · simp [hg, (hold.2.2.1 g).mpr (.inl hg)]
      · simp [hg]
    · rw [h4]
      have := hold.2.2.2
      simp only [Option.getD_none]
      omega
  · rw [ho, hq, show ((s.releaseReservation r).putRec q).rmat = s.rmat by simp]
    refine hP.entries (fun n x hx => ?_)
    rw [hsub] at hx
    split at hx
    · rename_i hn
      cases hx
      subst hn
      exact .inl ⟨e, he, rfl, .inl rfl⟩
    · exact .inl ⟨x, hx, rfl, .inl rfl⟩

theorem State.releaseReservation_none (s : State) (h : r.reservation = none) : s.releaseReservation r = s := by
  unfold State.releaseReservation
  rw [h]

/-- The posting of an airing: what the agreement reads stands but the reservation, released in both places. -/
theorem State.airPost_kept (s : State) (image : Image) (r : PageRec) (e : Entry) (hw : r.Whole) :
    ∃ u, s.Kept u ∧ (s.airPost image r e).1 = u.releaseReservation r ∧ (s.airPost image r e).2.id = r.id ∧
      (s.airPost image r e).2.sub = r.sub ∧ (s.airPost image r e).2.tag = r.tag ∧
      (s.airPost image r e).2.reservation = none ∧ (s.airPost image r e).2.chunks = r.chunks ∧
      ((s.airPost image r e).2.len = r.len ∧ (s.airPost image r e).2.kept = r.kept) ∧
      (s.airPost image r e).2.state = r.state := by
  unfold State.airPost
  simp only
  generalize hcls : attemptClass r.series e.kind (r.count + 1) = cls
  split
  · refine ⟨_, ?_, rfl, rfl, rfl, rfl, rfl, rfl, ⟨rfl, rfl⟩, rfl⟩
    exact (s.kept_releaseAir.trans (State.kept_postCharge _ _ _ _)).trans (State.kept_countPage _ _ cls)
  · rename_i hc
    have hres : r.reservation = none := by
      cases hr : r.reservation with
      | none => rfl
      | some a =>
        obtain ⟨w1, w2⟩ := hw.1 (by simp [hr])
        exact absurd (by rw [← hcls, w1, w2]; rfl) hc
    refine ⟨_, ?_, (State.releaseReservation_none _ hres).symm, rfl, rfl, rfl, hres, rfl, ⟨rfl, rfl⟩, rfl⟩
    exact (s.kept_releaseAir.trans (State.kept_postCharge _ _ _ _)).trans (State.kept_countPage _ _ cls)

/-- A record aired takes its next place, or is freed. -/
theorem State.airMove_sound {v : State} {q : PageRec} (hw : q.Whole) (hres : q.reservation = none)
    (hput : ∀ q' : PageRec, q'.id = q.id → q'.sub = q.sub → q'.tag = q.tag → q'.reservation = none →
      q'.chunks = q.chunks → q'.Whole → (v.putRec q').LooseIn q' im) (e : Entry)
    (hst : q.state = .placed ∨ q.state = .delivered) : (v.airMove q e).SoundIn im := by
  unfold State.airMove
  simp only
  rcases hst with hst | hst
  · have hw' : ∀ q' : PageRec, q'.reservation = none → q'.state = .awaiting ∨ q'.state = .retryWait ∨ q'.state = .placed →
        q'.chunks = q.chunks → q'.len = q.len ∧ q'.kept = q.kept → q'.Whole := fun q' h1 h2 h3 h4 => by
      refine hw.of (by simp [h1]) (fun _ => h1) ?_ h3 h4 ?_ <;> rcases h2 with h2 | h2 | h2 <;> simp [h2, hst]
    simp only [hst]
    split
    · exact (hput { q with
          placement := none, state := .awaiting
          replyWait := some { left := v.office.replyWait, due := false } } rfl rfl rfl hres rfl
        (hw' _ hres (by simp) rfl ⟨rfl, rfl⟩)).join (.inl rfl)
    · split
      · exact (hput { q with placement := none, state := .retryWait, skip := 0 } rfl rfl rfl hres rfl
          (hw' _ hres (by simp) rfl ⟨rfl, rfl⟩)).file (.inr rfl)
      · exact (hput { q with placement := none, state := .placed } rfl rfl rfl hres rfl
          (hw' _ hres (by simp) rfl ⟨rfl, rfl⟩)).freeRec _
  · have h2 := hput { q with placement := none, state := .delivered } rfl rfl rfl hres rfl
      (hw.of hw.1 (by simp) (by simp [hst]) rfl ⟨rfl, rfl⟩ (by simp))
    simp only [hst]
    split
    · exact h2.freeRec _
    · exact h2.join (.inr rfl)

/-- The airing of a record that stands in an image. -/
theorem State.SoundIn.airOne (h : s.SoundIn im) {m : MsgId} (hm : m ∈ im) (him : Without m im im') (image : Image) :
    (s.airOne image m).SoundIn im' := by
  obtain ⟨r, hr, rfl⟩ := h.rec_of_lists h.2.2.2.2.1 hm
  obtain ⟨e, he⟩ := h.entry hr
  have hw := h.whole hr
  have hst := (h.inPlace hr he).2.1.mp hm
  have hL := h.leaveImage hr hm him
  unfold State.airOne
  rw [hr]
  simp only [he]
  obtain ⟨u, k, a1, a2, a3, a4, a5, a6, a7, a8⟩ := s.airPost_kept image r e hw
  generalize (s.airPost image r e).2 = q at *
  rw [a1]
  have hLu := hL.kept k
  have hwq : q.Whole := hw.of (by simp [a5]) (fun _ => a5) (by rw [a8]) a6 a7 (by rw [a8, a4]; exact hw.2.2.2.2)
  refine State.airMove_sound hwq a5 (fun q' b1 b2 b3 b4 b5 b6 => ?_) e (by rw [a8]; exact hst.imp_right And.left)
  exact hLu.putReleased (b1.trans a2) (b2.trans a3) (b3.trans a4) b4 (b5.trans a6) b6

/-! ### The walk -/

theorem State.kept_setBuild (s : State) (b : Build) : s.Kept (s.setBuild b) := State.kept_of rfl rfl rfl rfl

theorem State.SoundIn.deferRec (h : s.SoundIn im) (hr : s.rec? r.id = some r) : (s.deferRec r).SoundIn im := by
  have hw := h.whole hr
  refine (h.putRec (r' := { r with deferral := riseTo 255 r.deferral }) hr (PageRec.sameLinks_of rfl rfl rfl rfl rfl)
    (hw.of hw.1 hw.2.1 Iff.rfl rfl ⟨rfl, rfl⟩ hw.2.2.2.2) (.inl rfl)).kept ?_
  exact State.kept_of rfl rfl rfl rfl

theorem State.SoundIn.deferOversize (h : s.SoundIn im) (hr : s.rec? r.id = some r) : (s.deferOversize r).SoundIn im := by
  unfold State.deferOversize
  simp only
  split
  · exact h.deferRec hr
  · exact (h.deferRec hr).kept (State.kept_of rfl rfl rfl rfl)

/-- The ids that the walk leaves in images. -/
def imagesOf (order : List MsgId) (o : Option OnAir) : List MsgId :=
  order ++ (match o with | some o => o.toAir | none => [])

theorem State.inImages_some {b : Build} (h : s.wsch.build = some b) :
    s.inImages = imagesOf b.image.order s.wsch.onAir := by
  unfold State.inImages imagesOf
  rw [h] <;> rfl

/-- The record the walk has reached is placed or stays in its queue. -/
theorem State.SoundIn.offer {b : Build} (h : s.SoundIn s.inImages) (hb : s.wsch.build = some b)
    (hr : s.rec? r.id = some r) {e : Entry} (he : s.sub? r.sub = some e)
    (hst : r.state = .queued ∨ r.state = .retryWait) : (s.offer b r e).SoundIn (s.offer b r e).inImages := by
  have hdef : (s.deferRec r).inImages = s.inImages := rfl
  have h1 := h.deferRec hr
  unfold State.offer
  split
  · rw [hdef]; exact h1
  · simp only
    split
    · rw [hdef]; exact h1
    · split
      · rw [hdef]; exact h1
      · split
        · have : ((s.deferRec r).setBuild { b with closed := true }).inImages = s.inImages := by
            rw [State.inImages_some hb]; rfl
          rw [this]
          exact h1.kept (State.kept_setBuild _ _)
        · split
          · have : (s.deferOversize r).inImages = s.inImages := by
              unfold State.deferOversize
              simp only
              split <;> rfl
            rw [this]
            exact h.deferOversize hr
          · split
            · rw [hdef]; exact h1
            · rename_i runs _
              refine h.placeRec hr he hst _ _ _ ?_
              have : (s.placeRec b r e (reducedZones s.office.zoneMemory r e b.image) runs).inImages =
                  imagesOf (b.image.order ++ [r.id]) s.wsch.onAir := by
                unfold State.inImages imagesOf
                have h1 : (s.placeRec b r e (reducedZones s.office.zoneMemory r e b.image) runs).wsch.build =
                    some { b with image := b.image.placed r.id r.blocks runs } := rfl
                have h2 : (s.placeRec b r e (reducedZones s.office.zoneMemory r e b.image) runs).wsch.onAir =
                    s.wsch.onAir := by
                  unfold State.placeRec State.setBuild
                  simp only
                  rw [(State.reserveAir_frame _).2.2.2.2.2.1]
                  split <;> simp
                rw [h1, h2]
                rfl
              rw [this, State.inImages_some hb]
              unfold imagesOf
              rw [List.append_assoc]
              exact List.perm_middle

theorem State.SoundIn.walk {b b' : Build} (h : s.SoundIn s.inImages) (hb : s.wsch.build = some b')
    (hbb : b.image.order = b'.image.order) (hr : s.rec? r.id = some r)
    (hst : r.state = .queued ∨ r.state = .retryWait) : (s.walk b r).SoundIn (s.walk b r).inImages := by
  obtain ⟨e, he⟩ := h.entry hr
  have hw := h.whole hr
  unfold State.walk
  simp only
  have him : (s.setBuild { b with reached := some r.queuePlace }).inImages = s.inImages := by
    rw [State.inImages_some hb, ← hbb]; rfl
  have h1 : (s.setBuild { b with reached := some r.queuePlace }).SoundIn
      (s.setBuild { b with reached := some r.queuePlace }).inImages := by
    rw [him]; exact h.kept (State.kept_setBuild _ _)
  have he' : (s.setBuild { b with reached := some r.queuePlace }).sub? r.sub = some e := he
  rw [he']
  simp only
  split
  · exact h1
  · split
    · exact h1.putRec hr (PageRec.sameLinks_of rfl rfl rfl rfl rfl)
        (hw.of hw.1 hw.2.1 Iff.rfl rfl ⟨rfl, rfl⟩ hw.2.2.2.2) (.inl rfl)
    · exact h1.offer rfl hr he' hst

/-! ### The window boundary -/

theorem Table.values_mapValues {α : Type} (t : Table α) (f : α → α) : (t.mapValues f).values = t.values.map f := by
  unfold Table.mapValues Table.values
  simp [Function.comp_def]

/-- Records change in what neither entries nor places read. -/
theorem State.SoundIn.mapRecs (h : s.SoundIn im) (f : PageRec → PageRec)
    (hf : ∀ r, (f r).id = r.id ∧ (f r).sub = r.sub ∧ (f r).state = r.state ∧ (f r).tag = r.tag ∧
      (f r).reservation = r.reservation ∧ (f r).chunks = r.chunks ∧ (f r).series = r.series ∧ (f r).count = r.count ∧
      ((f r).len = r.len ∧ (f r).kept = r.kept)) : (s.mapRecs f).SoundIn im := by
  obtain ⟨hK, hA, hP⟩ := h
  have hlive : (s.mapRecs f).live = s.live.map f := Table.values_mapValues _ _
  refine ⟨⟨Table.wf_mapValues hK.1 f, fun c hc => ?_⟩, ?_, ?_⟩
  · obtain ⟨c', hc', rfl⟩ := List.mem_map.mp hc
    show (f c'.2).id.slot = c'.1
    rw [(hf _).1]
    exact hK.2 c' hc'
  · rw [hlive]
    refine AgreesOn.map (sub := s.sub?) hA f fun r => ?_
    obtain ⟨f1, f2, f3, f4, f5, f6, f7, f8, f9⟩ := hf r
    exact ⟨f2, f4, f5, f6, fun hw =>
      hw.of (by rw [f5, f7, f8]; exact hw.1) (by rw [f3, f5]; exact hw.2.1) (by rw [f3]) f6 f9
        (by rw [f3, f4]; exact hw.2.2.2.2)⟩
  · rw [hlive]
    exact PlacedOn.map (sub := s.sub?) hP f fun r => ⟨(hf r).1, (hf r).2.1, (hf r).2.2.1⟩

theorem State.kept_rateRoundStart (s : State) : s.Kept s.rateRoundStart := by
  unfold State.rateRoundStart State.applyTariff
  simp only
  (repeat' split) <;> exact State.kept_of rfl rfl rfl rfl

theorem State.kept_aged (s : State) : s.Kept { s with subs := s.subs.mapValues Entry.aged } := by
  have hs : ∀ n, State.sub? { s with subs := s.subs.mapValues Entry.aged } n = (s.sub? n).map Entry.aged :=
    fun n => Table.get?_mapValues _ _ _
  refine ⟨fun n x hx => ?_, fun n hn => ?_, rfl, rfl, rfl⟩
  · rw [hs] at hx
    obtain ⟨e, he, rfl⟩ := Option.map_eq_some_iff.mp hx
    exact ⟨e, he, ⟨rfl, rfl, rfl, rfl, rfl⟩⟩
  · rw [hs]; simpa using hn

theorem State.SoundIn.roundStart (h : s.SoundIn im) : s.roundStart.SoundIn im := by
  unfold State.roundStart
  simp only
  refine State.SoundIn.mapRecs ((h.kept s.kept_rateRoundStart).kept (State.kept_aged _)) _ fun r => ?_
  unfold PageRec.roundLowered
  split
  · exact ⟨rfl, rfl, by simp [*], rfl, rfl, rfl, rfl, rfl, ⟨rfl, rfl⟩⟩
  · split <;> exact ⟨rfl, rfl, by simp [*], rfl, rfl, rfl, rfl, rfl, ⟨rfl, rfl⟩⟩
  all_goals exact ⟨rfl, rfl, rfl, rfl, rfl, rfl, rfl, rfl, ⟨rfl, rfl⟩⟩

/-- At a window start the image built takes the place of the one on air, whose records have aired. -/
theorem State.SoundIn.windowStart (h : s.SoundIn s.inImages) (hb : s.windowReady = true) :
    s.windowStart.SoundIn s.windowStart.inImages := by
  have hW : s.windowStart.SoundIn s.inImages := by
    unfold State.windowStart
    simp only
    refine State.SoundIn.kept (s := State.mapRecs (if s.aclk.window = 0 then
      ({ s with aclk := { s.aclk with holding := .none_ } } : State).roundStart
      else { s with aclk := { s.aclk with holding := .none_ } }) PageRec.windowLowered) ?_ (State.kept_of rfl rfl rfl rfl)
    refine State.SoundIn.mapRecs ?_ _ fun r => ?_
    · have h0 : ({ s with aclk := { s.aclk with holding := .none_ } } : State).SoundIn s.inImages :=
        h.kept (State.kept_of rfl rfl rfl rfl)
      split
      · exact h0.roundStart
      · exact h0
    · unfold PageRec.windowLowered
      split <;> exact ⟨rfl, rfl, by simp [*], rfl, rfl, rfl, rfl, rfl, ⟨rfl, rfl⟩⟩
  have hwsch : (if s.aclk.window = 0 then
      ({ s with aclk := { s.aclk with holding := .none_ } } : State).roundStart
      else { s with aclk := { s.aclk with holding := .none_ } }).wsch = s.wsch := by
    split
    · simp
    · rfl
  have hb1 : s.windowStart.wsch.build.map (fun b => b.image.order) = some [] := rfl
  have hb2 : s.windowStart.wsch.onAir = s.wsch.build.map (fun b => { image := b.image, toAir := b.image.order }) := by
    unfold State.windowStart
    show (State.mapRecs _ PageRec.windowLowered).wsch.putOnAir.onAir = _
    rw [show ∀ t : State, (t.mapRecs PageRec.windowLowered).wsch = t.wsch from fun _ => rfl, hwsch]
    rfl
  have him : s.windowStart.inImages = s.inImages := by
    unfold State.windowReady at hb
    unfold State.inImages
    rw [hb2]
    cases hbd : s.wsch.build with
    | none => simp [hbd] at hb
    | some b =>
      cases hbw : s.windowStart.wsch.build with
      | none => rw [hbw] at hb1; cases hb1
      | some b' =>
        rw [hbw] at hb1
        simp only [Option.map_some, Option.some.injEq] at hb1
        simp only [hb1, Option.map_some, List.nil_append]
        cases ho : s.wsch.onAir with
        | none => simp
        | some o =>
          rw [hbd, ho] at hb
          simp only [Bool.and_eq_true, List.isEmpty_iff] at hb
          simp [hb.2]
  rw [him]
  exact hW

/-- Freeing changes no image. -/
theorem State.freeRec_images (s : State) (r : PageRec) (o : PageOutcome) :
    (s.freeRec r o).wsch.build = s.wsch.build ∧ (s.freeRec r o).wsch.onAir = s.wsch.onAir := by
  have hl : ∀ t : State, (t.leavePlace r).wsch.build = t.wsch.build ∧ (t.leavePlace r).wsch.onAir = t.wsch.onAir := by
    intro t
    unfold State.leavePlace
    split <;> simp
  have h := hl (s.raise o.kind (o.fields r))
  unfold State.freeRec State.dropRec
  simpa using h

theorem State.withdrawRec_images (s : State) (m : MsgId) :
    (s.withdrawRec m).wsch.build = s.wsch.build ∧ (s.withdrawRec m).wsch.onAir = s.wsch.onAir := by
  unfold State.withdrawRec
  split
  · exact ⟨rfl, rfl⟩
  · split
    · split <;> simp
    · simp only; split
      · exact State.freeRec_images _ _ _
      · exact ⟨rfl, rfl⟩
    all_goals exact ⟨rfl, rfl⟩

theorem State.foldl_withdrawRec_images (l : List MsgId) (s : State) :
    (l.foldl State.withdrawRec s).wsch.build = s.wsch.build ∧ (l.foldl State.withdrawRec s).wsch.onAir = s.wsch.onAir := by
  induction l generalizing s with
  | nil => exact ⟨rfl, rfl⟩
  | cons m l ih =>
    have h := ih (s.withdrawRec m)
    rw [(s.withdrawRec_images m).1, (s.withdrawRec_images m).2] at h
    exact h

/-- An image is withdrawn. -/
theorem State.SoundIn.withdrawImage (h : s.SoundIn s.inImages) : s.withdrawImage.SoundIn s.withdrawImage.inImages := by
  unfold State.withdrawImage
  split
  · exact h
  · rename_i b hb
    rw [State.inImages_some hb] at h
    have h1 := State.SoundIn.withdrawFold b.image.order h
    have hon := (State.foldl_withdrawRec_images b.image.order s).2
    refine State.SoundIn.kept (s := b.image.order.foldl State.withdrawRec s) ?_ (State.kept_of rfl rfl rfl rfl)
    unfold State.inImages
    simp only [List.nil_append, hon]
    exact h1

/-! ### Entries -/

/-- An entry without live records has none on any list. -/
theorem AgreesOn.none_of {sub : Nat → Option Entry} {L : List PageRec} (h : AgreesOn sub L) {n : Nat}
    (h0 : ∀ e, sub n = some e → e.live = 0) : ∀ r ∈ L, r.sub ≠ n := by
  intro r hr hn
  obtain ⟨e, he⟩ := Option.isSome_iff_exists.mp (h.2.1 r hr).1
  rw [hn] at he
  have h1 := (h.1 n e he).1
  rw [h0 e he] at h1
  have hm : r ∈ L.filter (fun x => x.sub == n) := by simp [hr, hn]
  have := List.length_pos_of_mem hm
  omega

/-- Entries come without records, change beside what they say of theirs, move home and go where they have none. -/
theorem State.SoundIn.entries (h : s.SoundIn im) (hr : t.store.records = s.store.records)
    (hq : t.wsch.queues = s.wsch.queues) (ha : t.rmat.awaiting = s.rmat.awaiting)
    (hk : ∀ n x, t.sub? n = some x → (∃ e, s.sub? n = some e ∧ x.live = e.live ∧ x.tags = e.tags ∧
      x.money.reserved = e.money.reserved ∧ x.held = e.held ∧ (x.home = e.home ∨ e.live = 0)) ∨
      (s.sub? n = none ∧ x.live = 0 ∧ x.tags = [] ∧ x.money.reserved = 0 ∧ x.held = []))
    (hp : ∀ n e, s.sub? n = some e → e.live ≠ 0 → (t.sub? n).isSome = true) : t.SoundIn im := by
  obtain ⟨hK, hA, hP⟩ := h
  have h2 : t.live = s.live := by unfold State.live; rw [hr]
  have h3 : t.queue = s.queue := funext fun w => State.queue_congr hq w
  refine ⟨hK.congr hr, ?_, ?_⟩
  · rw [h2]
    refine hA.entries (fun n x hx => ?_) hp
    rcases hk n x hx with ⟨e, he, j1, j2, j3, _⟩ | ⟨hn, j1, j2, j3, _⟩
    · exact .inl ⟨e, he, j1, j2, j3⟩
    · exact .inr ⟨hn, j1, j2, j3⟩
  · rw [h2, h3, ha]
    refine hP.entries (fun n x hx => ?_)
    rcases hk n x hx with ⟨e, he, _, _, _, j4, j5⟩ | ⟨hn, _, _, _, j4⟩
    · refine .inl ⟨e, he, j4, j5.imp_right fun h0 => hA.none_of fun e' he' => ?_⟩
      rw [he] at he'; cases he'; exact h0
    · exact .inr ⟨j4, hA.none_of fun e' he' => by rw [hn] at he'; cases he'⟩

theorem State.SoundIn.setSub (h : s.SoundIn im) {n : Nat} {e x : Entry} (he : s.sub? n = some e)
    (hx : x.live = e.live ∧ x.tags = e.tags ∧ x.money.reserved = e.money.reserved ∧ x.held = e.held ∧
      (x.home = e.home ∨ e.live = 0)) : (s.setSub n x).SoundIn im := by
  refine h.entries rfl rfl rfl (fun m y hy => ?_) (fun m y hy _ => ?_)
  · rw [State.sub?_setSub] at hy
    split at hy
    · rename_i hm
      cases hy
      rw [hm]
      exact .inl ⟨e, he, hx⟩
    · exact .inl ⟨y, hy, rfl, rfl, rfl, rfl, .inl rfl⟩
  · rw [State.sub?_setSub]
    split
    · rfl
    · rw [hy]; rfl

/-- A new entry has no records. -/
theorem State.SoundIn.addSub (h : s.SoundIn im) {n : Nat} {x : Entry} (he : s.sub? n = none)
    (hx : x.live = 0 ∧ x.tags = [] ∧ x.money.reserved = 0 ∧ x.held = []) : (s.setSub n x).SoundIn im := by
  refine h.entries rfl rfl rfl (fun m y hy => ?_) (fun m y hy _ => ?_)
  · rw [State.sub?_setSub] at hy
    split at hy
    · rename_i hm
      cases hy
      rw [hm]
      exact .inr ⟨he, hx⟩
    · exact .inl ⟨y, hy, rfl, rfl, rfl, rfl, .inl rfl⟩
  · rw [State.sub?_setSub]
    split
    · rfl
    · rw [hy]; rfl

/-- An entry without records goes. -/
theorem State.SoundIn.removeSub (h : s.SoundIn im) {n : Nat} {e : Entry} (he : s.sub? n = some e) (h0 : e.live = 0) :
    State.SoundIn { s with subs := s.subs.erase n } im := by
  have hsub : ∀ m, State.sub? { s with subs := s.subs.erase n } m = if m = n then none else s.sub? m := by
    intro m
    show (s.subs.erase n).get? m = _
    split
    · rename_i hm; rw [hm, Table.get?_erase_self]
    · rename_i hm; exact Table.get?_erase_other _ hm
  refine h.entries rfl rfl rfl (fun m y hy => ?_) (fun m y hy hl => ?_)
  · rw [hsub] at hy
    split at hy
    · cases hy
    · exact .inl ⟨y, hy, rfl, rfl, rfl, rfl, .inl rfl⟩
  · rw [hsub]
    split
    · rename_i hm
      rw [hm, he] at hy; cases hy
      exact absurd h0 hl
    · rw [hy]; rfl

/-- Without records and lists the agreement asks only of the entries. -/
theorem State.soundIn_nil (hr : s.store.records = ⟨[]⟩) (hq : ∀ w, s.queue w = []) (ha : s.rmat.awaiting = [])
    (he : ∀ n e, s.sub? n = some e → e.live = 0 ∧ e.tags = [] ∧ e.money.reserved = 0 ∧ e.held = []) :
    s.SoundIn [] := by
  have hl : s.live = [] := by unfold State.live; rw [hr]; rfl
  refine ⟨⟨by rw [hr]; rfl, by rw [hr]; simp⟩, ?_, ?_⟩
  · rw [hl]
    refine ⟨fun n e h => ?_, by simp, by simp, by simp⟩
    obtain ⟨e1, e2, e3, _⟩ := he n e h
    unfold EntryAgreesOn
    simp [e1, e2, e3]
  · rw [hl, ha]
    refine ⟨by simp, fun w => by rw [hq]; exact ⟨List.nodup_nil, by simp⟩, ⟨List.nodup_nil, by simp⟩,
      ⟨List.nodup_nil, by simp⟩, fun n e h => ?_⟩
    rw [(he n e h).2.2.2]
    exact ⟨List.nodup_nil, by simp⟩

theorem Wsch.cold_queue (w : Window) : (Wsch.cold.queues)[w] = [] := by
  simp [Wsch.cold]

theorem State.SoundIn.restarted (s : State) : s.restarted.SoundIn [] := by
  refine State.soundIn_nil rfl (fun w => Wsch.cold_queue w) rfl (fun n e h => ?_)
  have : s.restarted.sub? n = (s.sub? n).map Entry.restarted := Table.get?_mapValues _ _ _
  rw [this] at h
  obtain ⟨x, _, rfl⟩ := Option.map_eq_some_iff.mp h
  exact ⟨rfl, rfl, rfl, rfl⟩

theorem State.SoundIn.reset (p : List Instr) : State.SoundIn { State.reset with pending := p } [] :=
  State.soundIn_nil rfl (fun w => Wsch.cold_queue w) rfl (fun _ _ h => nomatch h)

end Sys2Proof.Machine
end

