-- ==== Sys2Proof/Tests/Slice0.lean ====
section
/-! SUPPORT. The author's tests: ill-formed terms, the worked examples of the manual, and for every statement with
hypotheses a state and operands that meet them, clause by clause. -/

namespace Sys2Proof.Tests

set_option Elab.async false

open Sys2Proof.Machine

/-! ### Well-formedness -/

theorem test_terminator_in_line : (Instr.commandLine [0x23#8, 0x0A#8]).illFormed = some .terminatorInLine := by decide
theorem test_slot_out_of_range : (Instr.holdEnd { slot := 2048, gen := 1 }).illFormed = some .slotOutOfRange := by decide
theorem test_empty_frame : (Instr.replyReportFrame 0 []).illFormed = some .emptyFrame := by decide
theorem test_frame_too_long :
    (Instr.replyReportFrame 0 (List.replicate 15 0)).illFormed = some .frameTooLong := by decide
theorem test_well_formed :
    [Instr.commandLine [0x23#8], .holdEnd { slot := 2047, gen := 0 }, .replyReportFrame 5 (List.replicate 14 0),
      .status].all Instr.wellFormed = true := by decide

/-! ### The queue and the interface -/

theorem test_step_idles_on_empty_queue : step State.reset = .next State.reset := rfl
theorem test_no_row_has_bits : decodeTableWord 8 0 = none := rfl

/-! ### Small states -/

/-- A taken line. -/
def ln (t : String) : CmdLine := { tag := 7, rest := str t }

/-- The state with one line in the buffer. -/
def fed (s : State) (t : String) : State := { s with hlc := { s.hlc with buffer := [ln t] } }

theorem heads_fed {t : String} {c : HostCommand} (s : State) (h : (ln t).command = some c) :
    (fed s t).Heads c (ln t) [] := ⟨rfl, h⟩

/-- A TWO_WAY subscriber, ACTIVE, of home window 5 and zones 0 and 1. -/
def entry : Entry where
  state := .active
  addr := 300100
  kind := .twoWay
  home := 5
  zones := [0, 1]
  plan := 0
  heard := some { zone := 0, age := 0 }
  tags := [0]
  live := 1
  held := []
  money :=
    { balance := 1000, floor := 0, reserved := 0, credit := .clear, low := 0, lowArmed := true, usage := 2147483647
      usageArmed := true, periodPages := 0, periodCharges := 0 }

def oneWay : Entry := { entry with kind := .oneWay }

/-- A QUEUED record of subscriber 7 in slot 3. -/
def page : PageRec where
  id := { slot := 3, gen := 1 }
  sub := 7
  state := .queued
  enc := .tone
  pri := 1
  len := 0
  truncated := false
  blocks := 1
  chunks := none
  kept := []
  origin := 0
  seq := 0
  series := .first
  limit := 3
  count := 0
  terms := { backoff := #v[1, 1, 2, 2, 4, 4], retryPct := 50, refundPct := 50, readWait := 2, hold := 96 }
  tag := some 0
  reservation := none
  firstCharge := some 100
  posted := 100
  refunded := false
  cancelled := false
  late := false
  skip := 0
  deferral := 0
  replyWait := none
  readWait := none
  holdWait := none
  lastZones := some [0]
  placement := none
  freeAfterAiring := false

/-- Subscriber 7 is `e`; no record. -/
def served (e : Entry) : State := { State.reset with subs := ⟨[(7, e)]⟩ }

/-- Subscriber 7 is `e` and owns the one record `r`. -/
def holding (e : Entry) (r : PageRec) : State :=
  { served e with store := { records := ⟨[(3, r)]⟩, gens := ⟨[(3, 1)]⟩, nextSeq := 1, congested := false } }

/-- The journal at `k` open entries in HOLD mode. -/
def open_ (k : Nat) (s : State) : State := { s with acct := { s.acct with airReserved := 1024 - k } }

def onAirState (a : AirState) (s : State) : State := { s with aclk := { s.aclk with air := a } }

def inServiceZone : ZoneSettings := { state := .inService, color := .a, lead := 2, tail := 1, gap := 4 }

/-- An image of window 5 with every zone in service and no page. -/
def image (layout : Layout) : Image where
  round := 0
  window := 5
  layout := layout
  view := Vector.replicate 8 inServiceZone
  pages := Vector.replicate 8 []
  order := []

def newBuild (im : Image) : Build := { image := im, reached := none, closed := false, ended := false }

/-- A state in RUNNING with the build `b` and one queued record. -/
def building (b : Build) (e : Entry) (r : PageRec) : State :=
  { holding e r with
    aclk := { Aclk.cold with air := .running, window := 4 }
    wsch := { Wsch.cold with build := some b, queues := Wsch.cold.queues.set 5 [r.id] } }

/-! ### The worked examples of the manual -/

/-- The example of 11.6: the payload of an address block. -/
theorem test_address_payload : addressPayload 300100#22 true 0 .alpha 12 .retry = 0x125112231#36 := by decide +kernel

/-- The tariff of the example of 8.5. -/
def tariff85 : Tariff :=
  { Tariff.cold with
    alphaFee := 40, blockRate := 6, zoneInc := 25, priF := #v[100, 100, 150, 100], bandF := #v[100, 120, 100, 100]
    cap := 5000 }

/-- The charge of 8.5 over three zones, and over five. -/
theorem test_charge : charge tariff85 false .alpha 12 3 2 1 = 302 ∧ charge tariff85 false .alpha 12 5 2 1 = 403 := by
  decide +kernel

/-- A retry at 35 percent of 302 and a refund of 50 percent of 408 (8.5). -/
theorem test_percent : percentOf 302 35 = 106 ∧ percentOf 408 50 = 204 := by decide

/-- The check register of the host line on the nine digits gives the value known for that polynomial. -/
theorem test_crc16 : crc16 (str "123456789") = 0x29B1#16 := by decide +kernel

/-- A field as 11.1 writes it. -/
theorem test_zone_set : readZones (str "5,0,2") = some [0, 2, 5] ∧ readZones (str "0,0") = none ∧
    readMsg (str "117.4") = some { slot := 117, gen := 4 } ∧ readInt (str "-500") = some (-500) ∧
    readNat (str "007") = none := by decide +kernel

/-- The line `body` with its check. -/
def checked (body : Text) : Text := body ++ starChar :: showHex4 (crc16 body)

theorem test_line_taken :
    judgeLine (checked (str "#7 STATUS")) = some (ln " STATUS") ∧ (ln " STATUS").command = some .status ∧
      (ln " SUBMIT SUB=7 ENC=ALPHA TEXT=6:CALL 5").fields =
        [{ key := str "SUB", value := some (str "7") }, { key := str "ENC", value := some (str "ALPHA") },
         { key := str "TEXT", value := some (str "CALL 5") }] := by decide +kernel

/-! ### What meets the hypotheses of each statement

`witness_X` is for `Obligations.X`; a state that hypotheses name is written with the helpers above. -/

theorem witness_StepTakesFrontCommand :
    ({ State.reset with pending := [.status] } : State).pending = .status :: [] := rfl

/-- The hypotheses of `LineRead`: fields before and behind a TEXT of the greatest length. -/
theorem witness_LineRead :
    (HostCommand.submit, "SUBMIT") ∈ commandNames ∧
    Plain [(str "SUB", str "7"), (str "ENC", str "ALPHA")] ∧ Plain [(str "PRI", [])] ∧
    (∀ f ∈ [(str "SUB", str "7"), (str "ENC", str "ALPHA")] ++ [(str "PRI", ([] : Text))], f.1 ≠ str "TEXT") ∧
    (List.replicate 200 spaceChar).length ≤ 200 := by
  unfold Plain
  decide +kernel

theorem witness_LinesReadBack :
    (99999999999999999999 < 100000000000000000000) ∧
    ((-99999999999999999999 : Int).natAbs < 100000000000000000000 ∧ (0 : Nat) < 1 ∧
      ({ slot := 2047, gen := 65535 } : MsgId).slot < 2048 ∧
      ([0, 5, 7] : ZoneSet) ≠ [] ∧ ([0, 5, 7] : ZoneSet).Pairwise (· < ·)) ∧
    (1 ≤ 1 ∧ 1 ≤ 65535 ∧ ([] : Text) = []) ∧
    (1 ≤ 65535 ∧ 65535 ≤ 65535 ∧ (List.replicate 469 spaceChar).head? = some spaceChar ∧
      (∀ b ∈ List.replicate 469 spaceChar, 0x20#8 ≤ b ∧ b ≤ 0x7E#8) ∧
      (hashChar :: showNat 65535 ++ List.replicate 469 spaceChar).length + 5 ≤ 480) ∧
    ((OutLine.final 65535 .ok []).body.length + 5 ≤ 480 ∧
      ∀ b ∈ (OutLine.final 65535 .ok []).body, 0x20#8 ≤ b ∧ b ≤ 0x7E#8) := by decide +kernel

theorem decimalDigits_ne_nil (fuel n : Nat) (acc : Text) (h : acc ≠ []) : decimalDigits fuel n acc ≠ [] := by
  induction fuel generalizing n acc with
  | zero => exact h
  | succ k ih => unfold decimalDigits; dsimp only; split <;> [exact List.cons_ne_nil _ _; exact ih _ _ (List.cons_ne_nil _ _)]

theorem showNat_ne_nil (n : Nat) : showNat n ≠ [] := by
  unfold showNat decimalDigits
  dsimp only
  split <;> [exact List.cons_ne_nil _ _; exact decimalDigits_ne_nil _ _ _ (List.cons_ne_nil _ _)]

theorem witness_CommandLineJudged :
    judgeLine (checked (str "#65535 STATUS")) = some { tag := 65535, rest := str " STATUS" } ∧
    judgeLine (checked (str "#1") ++ [0x0D#8]) = some { tag := 1, rest := [] } ∧
    (State.reset.hlc.buffer ++ List.replicate 3 (ln " STATUS")).length < 4 ∧
    4 ≤ (State.reset.hlc.buffer ++ List.replicate 4 (ln " STATUS")).length ∧
    judgeLine (checked (str "#65536 STATUS")) = none ∧ judgeLine (str "#1 STATUS*0000") = none ∧
    -- a line that does not end in 0Dh: too long, too short, with a bad character, a wrong check, no asterisk, no "#"
    (∀ line ∈ [List.replicate 481 spaceChar, str "#1*0", 0x1F#8 :: str "#1*0000", str "#1*0000", str "#1 0000",
        str "1*0000"], line.getLast? ≠ some 0x0D#8) ∧
    480 < (List.replicate 481 spaceChar).length ∧ (str "#1*0").length < 5 ∧
    (0x1F#8 ∈ 0x1F#8 :: str "#1*0000" ∧ 0x1F#8 < 0x20#8) ∧
    (str "#1*0000" = str "#1" ++ starChar :: str "0000" ∧ (str "0000").length = 4 ∧
      readHex4 (str "0000") ≠ some (crc16 (str "#1"))) ∧
    (str "#1 0000" = str "#1" ++ str " 0000" ∧ (str " 0000").length = 5 ∧ (str " 0000").head? ≠ some starChar) ∧
    (str "1*0000").head? ≠ some hashChar ∧
    -- a bad tag
    spaceChar ∉ ([] : Text) ∧ (∀ n, 1 ≤ n → n ≤ 65535 → ([] : Text) ≠ showNat n) ∧
    readHex4 [0x46#8, 0x30#8, 0x61#8, 0x39#8] = some 0xF0A9#16 := by
  refine ⟨?_, ?_, ?_, ?_, ?_, ?_, ?_, ?_, ?_, ?_, ?_, ?_, ?_, ?_, fun n _ _ => (showNat_ne_nil n).symm, ?_⟩ <;>
    decide +kernel

/-- A host line that is sending, with what waits. -/
def sending (underWay : List OutLine) (busy : List Nat) (answers : List (List OutLine)) (notices : List Notice) : Hlc :=
  { Hlc.cold with
    sending := some (.final 1 .ok []), underWay := underWay, busy := busy, answers := answers, notices := notices }

def notice (k : NoticeKind) : Notice := { kind := k, fields := [], stamp := 0 }

theorem witness_LineSentChoosesNext :
    (sending [.final 2 .ok []] [3] [] []).sending = some (.final 1 .ok []) ∧
    (sending [.final 2 .ok []] [3] [] []).underWay = .final 2 .ok [] :: [] ∧
    (sending [] [3] [] []).busy = 3 :: [] ∧
    (sending [] [] [[.data 4 [], .final 4 .ok []]] []).answers = (.data 4 [] :: [.final 4 .ok []]) :: [] ∧
    (sending [] [] [] [notice .lock]).notices = notice .lock :: [] ∧
    (sending [] [] [] []).sending.isSome = true ∧ State.reset.hlc.sending = none :=
  ⟨rfl, rfl, rfl, rfl, rfl, rfl, rfl⟩

theorem witness_RefusalsOnlyAnswer :
    ((fed .reset " STATUS NOW").hlc.buffer = ln " STATUS NOW" :: [] ∧ (ln " STATUS NOW").command = none) ∧
    -- a bad field, one key missing, two keys missing, another refusal
    ((fed .reset " STATUS X=1").Heads .status (ln " STATUS X=1") [] ∧
      HostCommand.status.refusal ((fed .reset " STATUS X=1").lineOff []) (ln " STATUS X=1").fields =
        some (.badField (str "X"))) ∧
    ((fed .reset " BILL REWIND").Heads .billRewind (ln " BILL REWIND") [] ∧
      HostCommand.billRewind.refusal ((fed .reset " BILL REWIND").lineOff []) (ln " BILL REWIND").fields =
        some (.missing (str "SEQ") [])) ∧
    ((fed .reset " CREDIT").Heads .credit (ln " CREDIT") [] ∧
      HostCommand.credit.refusal ((fed .reset " CREDIT").lineOff []) (ln " CREDIT").fields =
        some (.missing (str "SUB") [str "AMOUNT"])) ∧
    ((fed .reset " SUB GET SUB=7").Heads .subGet (ln " SUB GET SUB=7") [] ∧
      HostCommand.subGet.refusal ((fed .reset " SUB GET SUB=7").lineOff []) (ln " SUB GET SUB=7").fields =
        some (.refusal .noSubscriber [])) ∧
    -- the first field at fault; no field at fault, with no key missing, one and two
    FirstFaulty [yesForm "CLEAR"] (ln " STATUS CLEAR=NO X=1").fields
      { key := str "CLEAR", value := some (str "NO") } ∧
    (∀ f, ¬ FirstFaulty [] [] f) ∧
    (∀ required ∈ [([] : List String), ["SEQ"], ["SUB", "AMOUNT"]],
      (required.map str).filter (fun k => ([] : List RawField).all (fun f => f.key != k)) = required.map str) ∧
    -- a key that stands on the line behind another, and one that does not
    (∀ x ∈ [({ key := str "CLEAR", value := none } : RawField)], x.key ≠ str "FORCE") ∧
    hasKey [] "FORCE" = false := by
  refine ⟨by decide +kernel, ⟨heads_fed _ ?_, ?_⟩, ⟨heads_fed _ ?_, ?_⟩, ⟨heads_fed _ ?_, ?_⟩, ⟨heads_fed _ ?_, ?_⟩,
    ⟨[], [{ key := str "X", value := some (str "1") }], by decide +kernel, .inl ?_, ?_⟩, ?_, by decide +kernel,
    by decide +kernel, by decide +kernel⟩
  all_goals try decide +kernel
  · rintro ⟨v, form, hv, hf, ht⟩
    obtain rfl := Option.some.inj hv
    obtain rfl : form = yesForm "CLEAR" := (Option.some.inj hf).symm
    exact absurd ht (by decide +kernel)
  · rintro b x a h
    exact absurd h (by simp)
  · rintro f ⟨b, a, h, -⟩
    exact absurd h (by simp)

/-- A host line with a full notice queue whose tail is of the kind `k`. -/
def fullQueue (k : NoticeKind) : Hlc := { Hlc.cold with notices := List.replicate 31 (notice .lock) ++ [notice k] }

/-- The state with the congestion setting `n`, one record live. -/
def congestedAt (on : Bool) (n : Nat) : State :=
  let s := holding entry page
  { s with office := { s.office with congestion := n }, store := { s.store with congested := on } }

/-- A notice queue of two levels. -/
def twoLevels : Hlc :=
  { Hlc.cold with notices := [notice .lock, { notice .oversize with stamp := 1 }], nextStamp := 2 }

/-- The hypothesis of the order clauses of ConditionRaised and NoticeLevelsTaken. -/
theorem twoLevels_inOrder : twoLevels.InOrder := by
  refine ⟨List.pairwise_pair.2 (.inl (by decide)), by decide, by decide⟩

theorem witness_ConditionRaised :
    Hlc.cold.level .pageDone = 0 ∧
    (0 < Hlc.cold.level .oversize ∧ (List.replicate 31 (notice .lock)).length < 32) ∧
    (0 < (fullQueue .oversize).level .lock ∧ 32 ≤ (fullQueue .oversize).notices.length ∧
      (fullQueue .oversize).notices = List.replicate 31 (notice .lock) ++ [notice .oversize] ∧
      (fullQueue .oversize).level .oversize < (fullQueue .oversize).level .lock) ∧
    ((fullQueue .lock).level .barred ≤ (fullQueue .lock).level .lock) ∧
    (0 < twoLevels.level .pageMissed ∧ twoLevels.notices = [notice .lock] ++ [{ notice .oversize with stamp := 1 }] ∧
      twoLevels.level .pageMissed ≤ twoLevels.level .lock ∧ twoLevels.level .oversize < twoLevels.level .pageMissed ∧
      ∀ n ∈ twoLevels.notices, n.stamp < twoLevels.nextStamp) ∧
    ((congestedAt false 2047).store.congested = false ∧
      (congestedAt false 2047).freeRecords ≤ (congestedAt false 2047).office.congestion) ∧
    (congestedAt false 2046).office.congestion < (congestedAt false 2046).freeRecords ∧
    ((congestedAt true 2030).store.congested = true ∧
      (congestedAt true 2030).office.congestion + 16 < (congestedAt true 2030).freeRecords) ∧
    (congestedAt true 2031).freeRecords ≤ (congestedAt true 2031).office.congestion + 16 := by decide +kernel

theorem witness_NoticeLevelsTaken :
    (fed .reset " NOTICE LEVELS").Heads .noticeLevels (ln " NOTICE LEVELS") [] ∧
    (ln " NOTICE LEVELS").fields = [] ∧
    (fed .reset " NOTICE LEVELS LOCK=0 PAGE_DONE=3").Heads .noticeLevels (ln " NOTICE LEVELS LOCK=0 PAGE_DONE=3") [] ∧
    (ln " NOTICE LEVELS LOCK=0 PAGE_DONE=3").fields ≠ [] ∧
    checkForm levelForms [] (ln " NOTICE LEVELS LOCK=0 PAGE_DONE=3").fields = .ok () ∧
    Hlc.cold.levels[NoticeKind.lock.index] = 3 ∧ Hlc.cold.levels[NoticeKind.lock.index] ≠ 0 ∧
    Hlc.cold.levels[NoticeKind.pageDone.index] = 0 ∧ Hlc.cold.flags[NoticeKind.pageDone.index] = false ∧
    (Hlc.cold.mark .pageDone).flags[NoticeKind.pageDone.index] = true := by
  refine ⟨heads_fed _ ?_, ?_, heads_fed _ ?_, ?_⟩ <;> decide +kernel

theorem witness_StatusReportsAndClears :
    (fed .reset " STATUS").Heads .status (ln " STATUS") [] ∧ (ln " STATUS").fields = [] ∧
    (fed .reset " STATUS CLEAR=YES").Heads .status (ln " STATUS CLEAR=YES") [] ∧
    (ln " STATUS CLEAR=YES").fields = [{ key := str "CLEAR", value := some (str "YES") }] := by
  refine ⟨heads_fed _ ?_, ?_, heads_fed _ ?_, ?_⟩ <;> decide +kernel

/-- A lock detector with `n` strobes of its group. -/
def detecting (d : Detector) (n : Nat) : State := { State.reset with aclk := { Aclk.cold with detector := d, strobes := n } }

/-- A sweep at the subscriber `n`. -/
def sweeping (n : Nat) (s : State) : State :=
  { s with acct := { s.acct with sweep := some { cursor := n, closed := 0, paused := false } } }

theorem witness_OfficeSetTaken :
    (fed .reset " OFFICE SET AIRRATE=3").Heads .officeSet (ln " OFFICE SET AIRRATE=3") [] ∧
    -- a changed AIR RATE, unlocked and LOCKED; a changed CONGESTION; nothing changed
    (∀ d ∈ [Detector.unlocked, .locked],
      checkOfficeSet ((fed (detecting d 5) " OFFICE SET AIRRATE=3").lineOff []) (ln " OFFICE SET AIRRATE=3").fields =
        .ok () ∧ (detecting d 5).aclk.detector = d) ∧
    (fieldOf (ln " OFFICE SET AIRRATE=3").fields "AIRRATE" (readFin 4)).getD State.reset.office.airRate ≠
      State.reset.office.airRate ∧
    checkOfficeSet ((fed .reset " OFFICE SET CONGESTION=2047").lineOff []) (ln " OFFICE SET CONGESTION=2047").fields =
      .ok () ∧
    (fieldOf (ln " OFFICE SET CONGESTION=2047").fields "CONGESTION" (readIn 0 2047)).getD
      State.reset.office.congestion ≠ State.reset.office.congestion ∧
    checkOfficeSet ((fed .reset " OFFICE SET LOCKEDGE=NONE").lineOff []) (ln " OFFICE SET LOCKEDGE=NONE").fields =
      .ok () ∧
    -- outside STOPPED
    checkForm officeForms [] (ln " OFFICE SET AIRRATE=3").fields = .ok () ∧
    hasKey (ln " OFFICE SET AIRRATE=3").fields "AIRRATE" = true ∧
    (fed (onAirState .running .reset) " OFFICE SET AIRRATE=3").aclk.air ≠ .stopped := by
  refine ⟨heads_fed _ ?_, ?_⟩ <;> decide +kernel

theorem witness_OfficeGetAnswers :
    (fed .reset " OFFICE GET").Heads .officeGet (ln " OFFICE GET") [] ∧ (ln " OFFICE GET").fields = [] ∧
    (fed .reset " OFFICE GET X=1").Heads .officeGet (ln " OFFICE GET X=1") [] ∧
    (ln " OFFICE GET X=1").fields = { key := str "X", value := some (str "1") } :: [] := by
  refine ⟨heads_fed _ ?_, ?_, heads_fed _ ?_, ?_⟩ <;> decide +kernel

theorem witness_RestartClearsTraffic :
    ((fed (holding entry page) " RESTART").Heads .restart (ln " RESTART") [] ∧
      checkRestart ((fed (holding entry page) " RESTART").lineOff []) (ln " RESTART").fields = .ok ()) ∧
    -- a sweep abandoned by FORCE, one without FORCE, the air not STOPPED
    ((fed (sweeping 7 .reset) " RESTART FORCE=YES").Heads .restart (ln " RESTART FORCE=YES") [] ∧
      checkRestart ((fed (sweeping 7 .reset) " RESTART FORCE=YES").lineOff []) (ln " RESTART FORCE=YES").fields = .ok () ∧
      (sweeping 7 .reset).acct.sweep.isSome = true) ∧
    checkRestart (sweeping 7 .reset) (ln " RESTART").fields = .error (.refusal .sweepActive []) ∧
    checkRestart (onAirState .running .reset) (ln " RESTART").fields = .error (.refusal .airRunning []) ∧
    -- a line being sent, and none
    (∀ h ∈ [sending [] [] [] [], Hlc.cold],
      checkRestart ((fed { State.reset with hlc := h } " RESTART").lineOff []) (ln " RESTART").fields = .ok ()) ∧
    (sending [] [] [] []).sending.isSome = true ∧ Hlc.cold.sending = none ∧ Hlc.cold.underWay = [] ∧
    Hlc.cold.busy = [] ∧ Hlc.cold.answers = [] := by
  refine ⟨⟨heads_fed _ ?_, ?_⟩, ⟨heads_fed _ ?_, ?_⟩, ?_⟩ <;> decide +kernel

/-- What SUB ADD reads from the line of its witness. -/
def added : SubAddArgs where
  sub := 4095
  addr := 4194303
  kind := .oneWay
  home := 31
  zones := [7]
  plan := 7
  floor := -16777215
  balance := -16777215
  low := -16777215
  usage := 2147483647

def addLine : String :=
  " SUB ADD SUB=4095 ADDR=4194303 KIND=ONE_WAY HOME=31 ZONES=7 PLAN=7 FLOOR=-16777215 BALANCE=-16777215"

/-- A SUB ADD of the required fields. -/
def shortLine : String := " SUB ADD SUB=1 ADDR=1 KIND=ONE_WAY HOME=0 ZONES=0 PLAN=0"

theorem witness_SubAddProvisions :
    ((fed (served entry) addLine).Heads .subAdd (ln addLine) [] ∧
      checkSubAdd ((fed (served entry) addLine).lineOff []) (ln addLine).fields = .ok added) ∧
    (hasKey (ln addLine).fields "FLOOR" = true ∧ hasKey (ln addLine).fields "BALANCE" = true ∧
      hasKey (ln addLine).fields "LOW" = false ∧ hasKey (ln addLine).fields "USAGE" = false) ∧
    (hasKey (ln shortLine).fields "FLOOR" = false ∧ hasKey (ln shortLine).fields "BALANCE" = false ∧
      hasKey (ln (shortLine ++ " LOW=5 USAGE=6")).fields "LOW" = true ∧
      hasKey (ln (shortLine ++ " LOW=5 USAGE=6")).fields "USAGE" = true ∧
      (checkSubAdd .reset (ln (shortLine ++ " LOW=5 USAGE=6")).fields).isOk = true) ∧
    -- the refusals in their order
    (hasKey (ln " SUB ADD").fields "SUB" = false ∧
      hasKey (ln " SUB ADD SUB=x").fields "SUB" = true ∧ fieldOf (ln " SUB ADD SUB=x").fields "SUB" readNat = none ∧
      fieldOf (ln " SUB ADD SUB=4096").fields "SUB" readNat = some 4096 ∧
      fieldOf (ln " SUB ADD SUB=1").fields "SUB" readNat = some 1 ∧
      (refusalOf (checkForm (subAddForms (ln " SUB ADD SUB=1").fields)
        ["SUB", "ADDR", "KIND", "HOME", "ZONES", "PLAN"] (ln " SUB ADD SUB=1").fields)).isSome = true) ∧
    (checkForm (subAddForms (ln shortLine).fields) ["SUB", "ADDR", "KIND", "HOME", "ZONES", "PLAN"]
        (ln shortLine).fields = .ok () ∧
      fieldOf (ln shortLine).fields "SUB" readNat = some 1 ∧ fieldOf (ln shortLine).fields "ADDR" readAddr = some 1 ∧
      ({ State.reset with subs := ⟨[(1, entry)]⟩ } : State).sub? 1 ≠ none ∧
      (served { entry with addr := 1 }).sub? 1 = none ∧
      (∃ c ∈ (served { entry with addr := 1 }).subs.cells, c.2.addr = 1) ∧
      (served entry).sub? 1 = none ∧ ∀ c ∈ (served entry).subs.cells, c.2.addr ≠ 1) := by
  refine ⟨⟨heads_fed _ ?_, ?_⟩, ?_⟩ <;> decide +kernel

/-- An entry whose floor and balance leave room for a raised floor. -/
def overdrawn : Entry := { entry with money := { entry.money with balance := -3, floor := -5 } }

theorem witness_SubSetChanges :
    -- a lowered and a raised floor
    ((fed (served entry) " SUB SET SUB=7 FLOOR=-5 LOW=2").Heads .subSet (ln " SUB SET SUB=7 FLOOR=-5 LOW=2") [] ∧
      checkSubSet ((fed (served entry) " SUB SET SUB=7 FLOOR=-5 LOW=2").lineOff [])
        (ln " SUB SET SUB=7 FLOOR=-5 LOW=2").fields =
        .ok ({ sub := 7, addr := none, kind := none, home := none, zones := none, plan := none, floor := some (-5),
               low := some 2, usage := none }, entry) ∧
      (-5 : Int) < entry.money.floor) ∧
    ((fed (served overdrawn) " SUB SET SUB=7 FLOOR=-3").Heads .subSet (ln " SUB SET SUB=7 FLOOR=-3") [] ∧
      checkSubSet ((fed (served overdrawn) " SUB SET SUB=7 FLOOR=-3").lineOff []) (ln " SUB SET SUB=7 FLOOR=-3").fields =
        .ok ({ sub := 7, addr := none, kind := none, home := none, zones := none, plan := none, floor := some (-3),
               low := none, usage := none }, overdrawn) ∧
      overdrawn.money.floor < -3) ∧
    -- the checks in their order
    hasKey (ln " SUB SET").fields "SUB" = false ∧
    (hasKey (ln " SUB SET SUB=x").fields "SUB" = true ∧ fieldOf (ln " SUB SET SUB=x").fields "SUB" readNat = none) ∧
    fieldOf (ln " SUB SET SUB=4096").fields "SUB" readNat = some 4096 ∧
    (∀ line ∈ [" SUB SET SUB=7 LOW=x", " SUB SET SUB=7", " SUB SET SUB=7 HOME=6", " SUB SET SUB=7 ADDR=5",
        " SUB SET SUB=7 FLOOR=-1"], fieldOf (ln line).fields "SUB" readNat = some 7) ∧
    checkForm (keyForm "SUB" readNat :: subSetForms) [] (ln " SUB SET SUB=7 LOW=x").fields =
      .error (.badField (str "LOW")) ∧
    (∀ line ∈ [" SUB SET SUB=7", " SUB SET SUB=7 HOME=6", " SUB SET SUB=7 ADDR=5", " SUB SET SUB=7 FLOOR=-1"],
      checkForm (keyForm "SUB" readNat :: subSetForms) [] (ln line).fields = .ok ()) ∧
    (∀ f ∈ (ln " SUB SET SUB=7").fields, f.key = str "SUB") ∧ State.reset.sub? 7 = none ∧
    ((served entry).sub? 7 = some entry ∧ 0 < entry.live ∧
      (fieldOf (ln " SUB SET SUB=7 HOME=6").fields "HOME" (readFin 32)).getD entry.home ≠ entry.home) ∧
    (fieldOf (ln " SUB SET SUB=7 ADDR=5").fields "ADDR" readAddr = some 5 ∧
      ({ State.reset with subs := ⟨[(1, { entry with addr := 5 }), (7, { entry with live := 0 })]⟩ } : State).holderOf 5 =
        some 1 ∧ 1 ≠ 7) ∧
    (fieldOf (ln " SUB SET SUB=7 FLOOR=-1").fields "FLOOR" (readIntIn (-16777215) 0) = some (-1) ∧
      overdrawn.money.balance < -1) ∧
    -- the two tests: an entry at its floor, CLEAR and BARRED, one above it, CLEAR and BARRED
    (∀ credit ∈ [CreditState.clear, .barred], ∀ balance ∈ [(0 : Int), 1000],
      let e := { entry with money := { entry.money with credit := credit, balance := balance } }
      (served e).sub? 7 = some e ∧ e.money.credit = credit ∧
        (e.money.balance = e.money.floor ∨ (State.reset.office.unbarMargin : Int) < e.money.balance - e.money.floor)) := by
  refine ⟨⟨heads_fed _ ?_, ?_⟩, ⟨heads_fed _ ?_, ?_⟩, ?_⟩ <;> decide +kernel

/-- The record MSG names (`State.NamesRecord`): found, of another generation, in a free slot, and out of range. -/
theorem witness_NamesRecord :
    (2047 < 100000000000000000000 ∧ 65535 < 100000000000000000000 ∧ ¬ (2048 ≤ 2047 ∨ 65536 ≤ 65535)) ∧
    ((holding entry page).store.records.get? 3 = some page ∧ page.id = { slot := 3, gen := 1 } ∧
      page.id ≠ { slot := 3, gen := 65535 } ∧ (holding entry page).store.records.get? 2047 = none) ∧
    (2048 ≤ 2048 ∨ 65536 ≤ 65535) ∧ (2048 ≤ 2047 ∨ 65536 ≤ 65536) ∧
    namedRecord (holding entry page) (ln " PAGE GET MSG=3.1").fields = .ok page := by decide +kernel

theorem witness_ReadingCommandsOnlyAnswer :
    ((fed (served entry) " SUB GET SUB=7").Heads .subGet (ln " SUB GET SUB=7") [] ∧
      namedEntry ((fed (served entry) " SUB GET SUB=7").lineOff []) (ln " SUB GET SUB=7").fields = .ok (7, entry)) ∧
    (fieldOf (ln " PLAN GET PLAN=7").fields "PLAN" (readFin 8) = some 7 ∧
      fieldOf (ln " PLAN GET").fields "PLAN" (readFin 8) = none) ∧
    ((fed .reset " PLAN GET PLAN=7").Heads .planGet (ln " PLAN GET PLAN=7") [] ∧
      checkForm [keyForm "PLAN" (readFin 8)] [] (ln " PLAN GET PLAN=7").fields = .ok ()) ∧
    ((fed (holding entry page) " PAGE GET MSG=3.1").Heads .pageGet (ln " PAGE GET MSG=3.1") [] ∧
      namedRecord ((fed (holding entry page) " PAGE GET MSG=3.1").lineOff []) (ln " PAGE GET MSG=3.1").fields =
        .ok page) ∧
    ((fed (served entry) " HELD LIST SUB=7").Heads .heldList (ln " HELD LIST SUB=7") [] ∧
      namedEntry ((fed (served entry) " HELD LIST SUB=7").lineOff []) (ln " HELD LIST SUB=7").fields =
        .ok (7, entry)) ∧
    ((fed .reset " TARIFF GET").Heads .tariffGet (ln " TARIFF GET") [] ∧ (ln " TARIFF GET").fields = []) := by
  refine ⟨⟨heads_fed _ ?_, ?_⟩, ?_, ⟨heads_fed _ ?_, ?_⟩, ⟨heads_fed _ ?_, ?_⟩, ⟨heads_fed _ ?_, ?_⟩, heads_fed _ ?_, ?_⟩ <;>
    decide +kernel

theorem witness_SuspendResumeRemove :
    (fed (served entry) " SUB SUSPEND SUB=7").Heads .subSuspend (ln " SUB SUSPEND SUB=7") [] ∧
    namedEntry ((fed (served entry) " SUB SUSPEND SUB=7").lineOff []) (ln " SUB SUSPEND SUB=7").fields =
      .ok (7, entry) ∧
    (fed (served entry) " SUB RESUME SUB=7").Heads .subResume (ln " SUB RESUME SUB=7") [] ∧
    (fed (served { entry with live := 0 }) " SUB REMOVE SUB=7").Heads .subRemove (ln " SUB REMOVE SUB=7") [] ∧
    checkSubRemove ((fed (served { entry with live := 0 }) " SUB REMOVE SUB=7").lineOff [])
      (ln " SUB REMOVE SUB=7").fields = .ok (7, { entry with live := 0 }) := by
  refine ⟨heads_fed _ ?_, ?_, heads_fed _ ?_, heads_fed _ ?_, ?_⟩ <;> decide +kernel

theorem witness_PlanSetChanges :
    (fed .reset " PLAN SET PLAN=7 BACKOFF=1,2,3,4,5,15").Heads .planSet (ln " PLAN SET PLAN=7 BACKOFF=1,2,3,4,5,15") [] ∧
    checkPlanSet (ln " PLAN SET PLAN=7 BACKOFF=1,2,3,4,5,15").fields = .ok 7 := by
  refine ⟨heads_fed _ ?_, ?_⟩ <;> decide +kernel

def submitLine : String := " SUBMIT SUB=7 ENC=ALPHA PRI=3 TEXT=2:HI"

theorem witness_SubmitChecksInOrder :
    checkForm submitForms ["SUB", "ENC"] (ln submitLine).fields = .ok () ∧
    fieldOf (ln submitLine).fields "ENC" (wordValue encodingWords) = some .alpha ∧
    fieldOf (ln submitLine).fields "SUB" readNat = some 7 := by decide +kernel

/-- What SUBMIT reads from that line: priority 3 is lowered to the plan's 1. -/
def submitted : SubmitArgs where
  sub := 7
  enc := .alpha
  pri := 1
  origin := 0
  text := str "HI"
  truncated := false
  lowered := true
  blocks := 2
  estimate := 0

/-- A record accepted after the record `page`, and a state with the two. -/
def later : PageRec := { page with id := { slot := 4, gen := 1 }, seq := 1, tag := none }
def twoPages : State :=
  { served { entry with live := 2 } with
    store := { records := ⟨[(3, page), (4, later)]⟩, gens := ⟨[(3, 1), (4, 1)]⟩, nextSeq := 2, congested := false } }

theorem witness_SubmitAccepted :
    ((fed (served entry) submitLine).Heads .submit (ln submitLine) [] ∧
      checkSubmit ((fed (served entry) submitLine).lineOff []) (ln submitLine).fields = .ok submitted ∧
      (fed (served entry) submitLine).sub? submitted.sub = some entry) ∧
    -- a text, with no chunk in use, and none
    (submitted.text ≠ [] ∧ (fed (served entry) submitLine).usedChunks = [] ∧
      checkSubmit ((fed (served entry) " SUBMIT SUB=7 ENC=TONE").lineOff []) (ln " SUBMIT SUB=7 ENC=TONE").fields =
        .ok { submitted with enc := .tone, text := [], lowered := false, blocks := 1 }) ∧
    -- a table with a gap, and sequences less and more than half the range apart
    ((⟨[(0, page), (2, later)]⟩ : Table PageRec).cells.map Prod.fst).Pairwise (· < ·) ∧
    ((0x7FFFFFFF#32 - 0#32).toNat < 2147483648 ∧ 2147483648 < (0x80000001#32 - 0#32).toNat) ∧
    -- two records of one queue
    ((holding entry page).sub? page.sub = some entry ∧ (holding entry page).rec? page.id = some page ∧
      twoPages.rec? page.id = some page ∧ twoPages.rec? later.id = some later ∧
      (page.seq - 0#32).toNat < 2147483648 ∧ (later.seq - 0#32).toNat < 2147483648 ∧ later.seq ≠ page.seq) ∧
    (twoPages.Stand PageRec.QueueAhead [later.id] ∧ twoPages.Stand PageRec.HeldAhead [later.id]) ∧
    (twoPages.PutIn PageRec.QueueAhead page [later.id] [page.id, later.id] ∧
      twoPages.PutIn PageRec.HeldAhead page [later.id] [page.id, later.id]) := by
  refine ⟨⟨heads_fed _ ?_, ?_⟩, ?_, ?_, ?_, ?_, ⟨List.pairwise_singleton _ _, List.pairwise_singleton _ _⟩,
    ⟨[], [later.id], rfl, rfl, nofun, ?_⟩, [], [later.id], rfl, rfl, nofun, ?_⟩
  any_goals decide +kernel
  · rintro m ⟨⟩
    exact ⟨later, by decide +kernel, .inr ⟨rfl, by decide⟩⟩
  · rintro m ⟨⟩
    exact ⟨later, by decide +kernel, (by decide : older page.seq later.seq = true)⟩

/-- The record of the small state in a given state. -/
def pageIn (st : RecState) : PageRec := { page with state := st }

theorem witness_CancelByState (st : RecState) :
    (fed (holding entry (pageIn st)) " CANCEL MSG=3.1").Heads .cancel (ln " CANCEL MSG=3.1") [] ∧
    namedRecord ((fed (holding entry (pageIn st)) " CANCEL MSG=3.1").lineOff []) (ln " CANCEL MSG=3.1").fields =
      .ok (pageIn st) ∧ (pageIn st).state = st := by
  refine ⟨heads_fed _ ?_, ?_⟩ <;> cases st <;> decide +kernel

theorem witness_RecordFreed (st : RecState) :
    (holding entry (pageIn st)).rec? (pageIn st).id = some (pageIn st) ∧
    (holding entry (pageIn st)).sub? (pageIn st).sub = some entry ∧ (pageIn st).state = st := by
  cases st <;> decide +kernel

/-- A HELD record on its subscriber's held list. -/
def heldState : State := holding { entry with held := [page.id] } (pageIn .held)

theorem witness_RecoverySeriesStarts :
    (fed heldState " HELD RELEASE SUB=7").Heads .heldRelease (ln " HELD RELEASE SUB=7") [] ∧
    namedEntry ((fed heldState " HELD RELEASE SUB=7").lineOff []) (ln " HELD RELEASE SUB=7").fields =
      .ok (7, { entry with held := [page.id] }) ∧
    heldState.rec? (pageIn .held).id = some (pageIn .held) ∧
    heldState.sub? (pageIn .held).sub = some { entry with held := [page.id] } := by
  refine ⟨heads_fed _ ?_, ?_⟩ <;> decide +kernel

/-- RUNNING with a window-start event held, an image on air and the records of it not yet aired. -/
def heldStart (toAir : List MsgId) : State :=
  { holding entry page with
    aclk := { Aclk.cold with air := .running, holding := .windowStart }
    wsch := { Wsch.cold with onAir := some { image := image .locked, toAir := toAir } } }

theorem witness_AirStartedAndStopped :
    (fed .reset " AIR START").Heads .airStart (ln " AIR START") [] ∧ (ln " AIR START").fields = [] ∧
    State.reset.aclk.air = .stopped ∧ (onAirState .running .reset).aclk.air ≠ .stopped ∧
    (ln " AIR START X=1").fields = { key := str "X", value := some (str "1") } :: [] ∧
    (fed .reset " AIR STOP").Heads .airStop (ln " AIR STOP") [] ∧ (ln " AIR STOP").fields = [] ∧
    (onAirState .starting .reset).aclk.air = .starting ∧ (onAirState .stopping .reset).aclk.air = .stopping ∧
    ((onAirState .running .reset).aclk.air = .running ∧ (onAirState .running .reset).aclk.holding ≠ .windowStart) ∧
    ((heldStart [page.id]).aclk.holding = .windowStart ∧ (heldStart [page.id]).airingUnderWay = true) ∧
    ((heldStart []).aclk.holding = .windowStart ∧ (heldStart []).airingUnderWay = false) ∧
    (fed .reset " AIR STOP X=1").Heads .airStop (ln " AIR STOP X=1") [] ∧
    (ln " AIR STOP X=1").fields = { key := str "X", value := some (str "1") } :: [] := by
  refine ⟨heads_fed _ ?_, ?_, ?_, ?_, ?_, heads_fed _ ?_, ?_, ?_, ?_, ?_, ?_, ?_, heads_fed _ ?_, ?_⟩ <;> decide +kernel

/-- The order of a zone for the window of the small image, and for another. -/
def order (w : Window) : OrderInfo := { round := 0, window := w, kind := .scheduled, keyOn := -2, keyOff := 4 }

/-- A state with an image under build, and with a next order in zone 0 for that image and in zone 1 for another. -/
def withdrawable (r : PageRec) : State :=
  let s := building (newBuild (image .locked)) entry r
  { s with txi := (s.txi.set 0 { s.txi[0] with next := some (order 5) }).set 1 { s.txi[1] with next := some (order 6) } }

theorem witness_ImageWithdrawn :
    (withdrawable page).wsch.build = some (newBuild (image .locked)) ∧
    ((withdrawable page).txi[0].next = some (order 5) ∧ (order 5).round = (image .locked).round ∧
      (order 5).window = (image .locked).window) ∧
    ((withdrawable page).txi[1].next = some (order 6) ∧ (order 6).window ≠ (image .locked).window) ∧
    (withdrawable page).txi[2].next = none ∧
    ∀ r ∈ [pageIn .placed, { pageIn .placed with count := 1 }, pageIn .delivered,
        { pageIn .delivered with freeAfterAiring := true }],
      (withdrawable r).rec? r.id = some r ∧ (withdrawable r).sub? r.sub = some entry := by decide +kernel

/-- A build that has ended. -/
def ended : Build := { newBuild (image .locked) with ended := true }

/-- STOPPING with an image on air and the records of it not yet aired. -/
def stoppingWith (toAir : List MsgId) : State :=
  { heldStart toAir with aclk := { Aclk.cold with air := .stopping } }

theorem witness_BoundariesTaken :
    (∀ b : Bool, (({ onAirState .starting .reset with wsch := { Wsch.cold with build := some { ended with ended := b } } }
        : State).windowReady = b)) ∧
    (∀ b : Bool, (({ onAirState .running .reset with wsch := { Wsch.cold with build := some { ended with ended := b } } }
        : State).windowReady = b)) ∧
    (onAirState .running .reset).aclk.holding = .none_ ∧
    ({ heldStart [] with wsch := { (heldStart []).wsch with build := some ended } } : State).wsch.build = some ended ∧
    ended.ended = true ∧
    (∀ o, (heldStart []).wsch.onAir = some o → o.toAir = []) ∧
    ((heldStart [page.id]).aclk.air = .running ∧ (heldStart [page.id]).aclk.holding = .windowStart ∧
      (heldStart [page.id]).windowReady = false) ∧
    -- the end of the window in STOPPING: with the airing under way, with it ended, with no image on air
    (∀ toAir : List MsgId, (stoppingWith toAir).aclk.air = .stopping ∧ (stoppingWith toAir).aclk.holding = .none_ ∧
      (stoppingWith toAir).wsch.onAir = some { image := image .locked, toAir := toAir }) ∧
    [page.id] ≠ [] ∧ (onAirState .stopping .reset).aclk.holding = .none_ ∧
    (onAirState .stopping .reset).wsch.onAir = none := by
  refine ⟨by decide +kernel, by decide +kernel, rfl, rfl, rfl, ?_, by decide +kernel, fun _ => ⟨rfl, rfl, rfl⟩, nofun, rfl,
    rfl⟩
  rintro o ⟨⟩
  rfl

/-- A state at the start of a round, with a tariff due at round `r` and a band. -/
def roundState (st : RecState) (c : Activation) : State :=
  let s := holding entry (pageIn st)
  { s with
    rate := { s.rate with pending := some (tariff85, c), nextBand := some 2 }
    rmat := { s.rmat with awaiting := [page.id] }
    wsch := { s.wsch with build := some ended } }

theorem witness_WindowStartEvent :
    (roundState .held .next).wsch.build = some ended ∧
    ((roundState .held .next).rec? page.id = some (pageIn .held) ∧ (pageIn .held).state = .held) ∧
    ((roundState .delivered .next).rec? page.id = some (pageIn .delivered) ∧
      (pageIn .delivered).id ∈ (roundState .delivered .next).rmat.awaiting) ∧
    ((roundState .awaiting .next).rec? page.id = some (pageIn .awaiting) ∧ (pageIn .awaiting).state ≠ .held ∧
      (pageIn .awaiting).state ≠ .delivered) ∧
    (roundState .held .next).rate.pending = some (tariff85, .next) ∧
    (roundState .held (.atRound 0)).rate.pending = some (tariff85, .atRound (roundState .held .next).aclk.round) ∧
    ((roundState .held (.atRound 4095)).rate.pending = some (tariff85, .atRound 4095) ∧
      (4095 : Round) ≠ (roundState .held .next).aclk.round) ∧
    State.reset.rate.pending = none := by decide +kernel

theorem witness_StrobesAreCounted :
    (detecting .unlocked 62).aclk.strobes + 1 < 64 ∧ 64 ≤ (detecting .unlocked 63).aclk.strobes + 1 ∧
    (detecting (.acquiring 7) 0).aclk.detector = .acquiring 7 ∧ (detecting .locked 0).aclk.detector = .locked ∧
    (detecting .unlocked 0).aclk.detector ≠ .locked := by decide

theorem witness_DetectorTable :
    (detecting .unlocked 0).aclk.detector = .unlocked ∧ (detecting .unlocked 0).aclk.strobes = 0 ∧
    (detecting .unlocked 0).aclk.badMark = false ∧
    (∀ k ∈ [1, 6, 7], (detecting (.acquiring k) 0).aclk.detector = .acquiring k) ∧
    (detecting .locked 0).aclk.detector = .locked := by decide

def locked : Build := newBuild (image .locked)
def degraded : Build := newBuild (image .degraded)

/-- A build whose image sees every zone in TEST. -/
def unserved : Build :=
  newBuild { image .locked with view := Vector.replicate 8 { inServiceZone with state := .test } }

/-- A subscriber that holds every tag, and a record without one. -/
def tagless : Entry := { entry with tags := allTags }
def untagged : PageRec := { page with tag := none }

/-- A record of 31 blocks. -/
def large : PageRec := { page with blocks := 31 }

/-- A record of more blocks than there are positions. -/
def endless : PageRec := { page with blocks := 63 }

theorem witness_WalkPassesSkipsDefers :
    -- passed over, and skipped
    (building locked { entry with state := .suspended } page).Reaches locked page { entry with state := .suspended } ∧
    (building locked entry { page with skip := 1 }).Reaches locked { page with skip := 1 } entry ∧
    -- a closed image
    (building { locked with closed := true } entry page).Reaches { locked with closed := true } page entry ∧
    -- an empty zone set
    ((building unserved entry page).Reaches unserved page entry ∧
      reducedZones 16 page entry unserved.image = []) ∧
    -- no free tag
    ((building locked tagless untagged).Reaches locked untagged tagless ∧ ∀ g : PageTag, g ∈ tagless.tags) ∧
    -- no journal room: with 960 reservations there is no room for one more, with 959 there is
    ((open_ 64 (building locked entry page)).Reaches locked page entry ∧
      reducedZones 16 page entry locked.image = [0] ∧
      (open_ 64 (building locked entry page)).office.journalMode = .hold ∧
      (open_ 64 (building locked entry page)).acct.freeEntries <
        64 + (open_ 64 (building locked entry page)).acct.airReserved + 1 ∧
      64 + (open_ 65 (building locked entry page)).acct.airReserved + 1 ≤
        (open_ 65 (building locked entry page)).acct.freeEntries) ∧
    -- oversize, raised or not yet
    ((building degraded entry large).Reaches degraded large entry ∧ degraded.image.layout = .degraded ∧
      30 < large.blocks ∧ large.id ∉ (building degraded entry large).wsch.oversize ∧
      64 + (building degraded entry large).acct.airReserved + 1 ≤ (building degraded entry large).acct.freeEntries) ∧
    -- no run
    ((building locked entry endless).Reaches locked endless entry ∧
      locked.image.runs (reducedZones 16 endless entry locked.image) endless.blocks = none) ∧
    -- the record that stands next, and none behind the place reached
    ((building locked entry page).nextOfWalk locked = some page ∧
      (building locked entry page).queue locked.image.window = [] ++ page.id :: [] ∧
      (building locked entry page).rec? page.id = some page ∧ locked.reached = none) ∧
    (building locked entry page).nextOfWalk { locked with reached := some { pri := 1, seq := 0 } } = none := by
  refine ⟨⟨rfl, rfl, ?_, ?_⟩, ⟨rfl, rfl, ?_, ?_⟩, ⟨rfl, rfl, ?_, ?_⟩, ⟨⟨rfl, rfl, ?_, ?_⟩, ?_⟩, ⟨⟨rfl, rfl, ?_, ?_⟩, ?_⟩,
    ⟨⟨rfl, rfl, ?_, ?_⟩, ?_⟩, ⟨⟨rfl, rfl, ?_, ?_⟩, ?_⟩, ⟨⟨rfl, rfl, ?_, ?_⟩, ?_⟩, ?_⟩ <;> decide +kernel

theorem witness_WalkPlaces :
    (building (newBuild (image .locked)) entry page).Reaches (newBuild (image .locked)) page entry ∧
    entry.state = .active ∧ page.skip = 0 ∧ (newBuild (image .locked)).closed = false ∧ page.id.slot < 2048 ∧
    reducedZones 16 page entry (image .locked) ≠ [] ∧
    ¬ (entry.kind = .twoWay ∧ page.tag = none ∧ entry.freeTag = none) ∧
    64 + (building (newBuild (image .locked)) entry page).acct.airReserved + 1 ≤
      (building (newBuild (image .locked)) entry page).acct.freeEntries ∧
    ¬ ((image .locked).layout = .degraded ∧ 30 < page.blocks) ∧
    (image .locked).runs (reducedZones 16 page entry (image .locked)) page.blocks = some [(0, 2)] ∧
    ([(0, 2)] : List (Zone × Nat)).map Prod.fst = [0] ∧ [(0 : Zone)].Nodup ∧
    (image .locked).pages[0].Pairwise (fun q q' => q.first ≤ q'.first) := by
  refine ⟨⟨rfl, rfl, ?_, ?_⟩, ?_⟩ <;> decide +kernel

theorem witness_ZonesAndRuns :
    (image .locked).layout = .locked ∧ 1 ≤ 62 ∧ (image .locked).runs [0, 7] 62 = some [(0, 2), (7, 2)] ∧
    (image .locked).runs [0] 63 = none ∧ (image .degraded).zoneRun 30 0 = some (0, 2) ∧
    (image .degraded).zoneRun 31 0 = none ∧ (image .degraded).layout = .degraded ∧
    (image .degraded).runs [0, 7] 30 = some [(0, 2), (7, 2)] ∧ (image .degraded).runs [0, 7] 31 = none ∧
    ({ image .degraded with view := Vector.replicate 8 { inServiceZone with color := .b } } : Image).zoneRun 30 0 =
      some (0, 34) := by decide +kernel

/-- A build whose image has one page of two blocks in zone 0, zone 6 in TEST and zone 7 out of service. -/
def orderedImage : Image :=
  { image .locked with
    view := ((image .locked).view.set 6 { inServiceZone with state := .test }).set 7
      { inServiceZone with state := .outOfService }
    pages := (image .locked).pages.set 0 [{ first := 62, id := page.id, blocks := 2 }] }

theorem witness_OrdersMade :
    (building (newBuild orderedImage) entry page).wsch.build = some (newBuild orderedImage) ∧
    (newBuild orderedImage).ended = false ∧
    (building { newBuild orderedImage with reached := some { pri := 1, seq := 0 } } entry page).nextOfWalk
      { newBuild orderedImage with reached := some { pri := 1, seq := 0 } } = none ∧
    (orderedImage.view[0].state = .inService ∧ orderedImage.pages[0] ≠ []) ∧ orderedImage.view[6].state = .test ∧
    orderedImage.view[7].state = .outOfService ∧
    (orderedImage.view[1].state = .inService ∧ orderedImage.pages[1] = []) := by decide +kernel

/-- A page of the text 12 that a report delivers before its orders are made: its chunks are back in the pool. -/
def heardEarly : PageRec := { pageIn .delivered with enc := .numeric, len := 2, blocks := 2, kept := str "12" }

theorem witness_OrderSlots :
    (∀ q ∈ orderedImage.pages[0], 0 + 2 ≤ q.first ∧ q.first + q.blocks ≤ 64 ∧
      ((holding entry { page with blocks := 2, enc := .alpha }).pageBlocks q.id).length = q.blocks) ∧
    orderedImage.pages[0].Pairwise (fun q q' => q.first + q.blocks ≤ q'.first) ∧
    (holding entry page).rec? page.id = some page ∧ (holding entry page).sub? page.sub = some entry ∧
    page.state ≠ .delivered ∧ (holding entry (pageIn .delivered)).rec? page.id = some (pageIn .delivered) ∧
    (pageIn .delivered).state = .delivered ∧
    (holding entry heardEarly).rec? heardEarly.id = some heardEarly ∧ heardEarly.Whole ∧ heardEarly.kept ≠ [] ∧
    (holding entry (pageIn .awaiting)).rec? page.id = some (pageIn .awaiting) ∧ (pageIn .awaiting).Whole ∧
    (List.replicate 64 idleBlock).length = 64 := by
  refine ⟨?_, ?_, ?_, ?_, ?_, ?_, ?_, ?_, ⟨by decide, by decide, by decide, ⟨by decide, fun _ h => nomatch h⟩, by decide⟩,
    ?_, ?_, ⟨by decide, by decide, by decide, ⟨by decide, fun _ h => nomatch h⟩, by decide⟩, ?_⟩ <;> decide +kernel

/-- Its text block carries 1, 2 and seven fill codes, as that of the same page not yet delivered. -/
theorem test_keptTextOnAir :
    ((holding entry heardEarly).pageBlocks page.id).tail = [withCheck 0x12FFFFFFF#36] ∧
    ((holding entry { heardEarly with state := .placed, chunks := some [{ index := 0, chars := str "12" }] }).pageBlocks
      page.id).tail = [withCheck 0x12FFFFFFF#36] := by decide +kernel

theorem witness_BlocksCarryTheirFields :
    (62 ≤ 62) ∧ (18 ≤ 9 * 2 ∧ 17 < 9 * 2 ∧ (textBlocks .numeric (List.replicate 18 0x30#8) 2)[17 / 9]?.isSome = true) ∧
    (7 * 10 ≤ 36 * 2 ∧ 71 < 36 * 2 ∧ (textBlocks .alpha (List.replicate 10 0x41#8) 2)[71 / 36]?.isSome = true) ∧
    (∃ blk, blk ∈ textBlocks .numeric (str "12") 1 ∧ crc12 (blk.extractLsb' 12 36) ≠ 0) ∧
    (∃ blk, blk ∈ textBlocks .alpha (str "HI") 1 ∧ crc12 (blk.extractLsb' 12 36) ≠ 0) := by
  refine ⟨?_, ?_, ?_, ⟨withCheck 0x12FFFFFFF#36, ?_⟩, ⟨withCheck 0x912400000#36, ?_⟩⟩ <;> decide +kernel

theorem witness_ChargeComputation :
    tariff85.Ranged ∧ 39 ≤ 39 ∧ 1 ≤ 1 ∧ 8 ≤ 8 ∧ page.late = false ∧
    (∃ t, exec .submit State.reset = .next t) := by
  refine ⟨?_, ?_, ?_, ?_, ?_, _, rfl⟩
  · unfold Tariff.Ranged; decide +kernel
  all_goals decide

theorem witness_AmountsOfAirings :
    ({ page with late := true } : PageRec).late = true ∧ page.late = false ∧ page.firstCharge = some 100 ∧
    page.terms.retryPct ≤ 100 ∧ page.series = .first ∧ page.refunded = false ∧ page.terms.refundPct ≤ 100 := by decide

theorem witness_TariffAndBandTaken :
    (fed .reset " TARIFF LOAD AT=NEXT CAP=1").Heads .tariffLoad (ln " TARIFF LOAD AT=NEXT CAP=1") [] ∧
    checkTariffLoad (ln " TARIFF LOAD AT=NEXT CAP=1").fields = .ok .next ∧ State.reset.aclk.air = .stopped ∧
    (fed .reset " TARIFF LOAD AT=4095").Heads .tariffLoad (ln " TARIFF LOAD AT=4095") [] ∧
    checkTariffLoad (ln " TARIFF LOAD AT=4095").fields = .ok (.atRound 4095) ∧
    (fed .reset " BAND SET BAND=3").Heads .bandSet (ln " BAND SET BAND=3") [] ∧
    checkBandSet (ln " BAND SET BAND=3").fields = .ok 3 ∧ (onAirState .running .reset).aclk.air ≠ .stopped := by
  refine ⟨heads_fed _ ?_, ?_, ?_, heads_fed _ ?_, ?_, heads_fed _ ?_, ?_⟩ <;> decide +kernel

theorem witness_ZoneSettingsTaken :
    (fed .reset " ZONE SET ZONE=7 LEAD=7").Heads .zoneSet (ln " ZONE SET ZONE=7 LEAD=7") [] ∧
    checkZoneSet (ln " ZONE SET ZONE=7 LEAD=7").fields = .ok 7 ∧
    checkZoneSet (ln " ZONE SET ZONE=8").fields = .error (.badField (str "ZONE")) ∧
    (fed .reset " ZONE GET ZONE=7 CLEAR=YES").Heads .zoneGet (ln " ZONE GET ZONE=7 CLEAR=YES") [] ∧
    fieldOf (ln " ZONE GET ZONE=7 CLEAR=YES").fields "ZONE" (readFin 8) = some 7 ∧
    checkForm (zoneGetForms (ln " ZONE GET ZONE=7 CLEAR=YES").fields) [] (ln " ZONE GET ZONE=7 CLEAR=YES").fields =
      .ok () ∧
    (fed .reset " ZONE GET").Heads .zoneGet (ln " ZONE GET") [] ∧ (ln " ZONE GET").fields = [] := by
  refine ⟨heads_fed _ ?_, ?_, ?_, heads_fed _ ?_, ?_, ?_, heads_fed _ ?_, ?_⟩ <;> decide +kernel

theorem witness_AiringPosts : (holding entry (pageIn .placed)).sub? (pageIn .placed).sub = some entry := by
  decide +kernel

/-- A state whose image on air has the records `toAir` still to air, with work held. -/
def airing (h : HeldWork) (e : Entry) (r : PageRec) (toAir : List MsgId) : State :=
  { holding e r with
    aclk := { Aclk.cold with air := .running, holding := h }
    wsch := { Wsch.cold with onAir := some { image := image .locked, toAir := toAir } } }

theorem witness_AiringMovesOn :
    (∀ h ∈ [HeldWork.none_, .windowStart, .windowEnd, .stop],
      (airing h entry (pageIn .placed) [page.id]).wsch.onAir = some { image := image .locked, toAir := page.id :: [] } ∧
      (airing h entry (pageIn .placed) [page.id]).aclk.holding = h) ∧
    (∀ e ∈ [entry, oneWay], ∀ r ∈ [pageIn .placed, { pageIn .placed with count := 2 }, pageIn .delivered,
        { pageIn .delivered with freeAfterAiring := true }],
      (airing .none_ e r [page.id]).rec? r.id = some r ∧ (airing .none_ e r [page.id]).sub? r.sub = some e) ∧
    oneWay.kind = .oneWay ∧ page.count + 1 < page.limit ∧
    ({ page with count := 2 } : PageRec).limit ≤ ({ page with count := 2 } : PageRec).count + 1 := by decide +kernel

/-- An AWAITING record whose reply wait has run out after `k` attempts. -/
def expiring (k : Nat) : PageRec := { pageIn .awaiting with count := k, replyWait := some { left := 1, due := true } }

/-- A state with the record on the awaiting list. -/
def waiting (r : PageRec) : State :=
  let s := holding entry r
  { s with rmat := { s.rmat with awaiting := [r.id] } }

theorem firstDue_waiting (due : PageRec → Bool) (r : PageRec) (h : (waiting r).rec? r.id = some r) (hd : due r = true) :
    (waiting r).FirstDue due r := ⟨h, hd, [], [], rfl, fun _ hm => nomatch hm⟩

theorem witness_WaitsEnd :
    (waiting { expiring 1 with cancelled := true }).FirstDue PageRec.replyDue { expiring 1 with cancelled := true } ∧
    (waiting (expiring 1)).FirstDue PageRec.replyDue (expiring 1) ∧
    (waiting (expiring 1)).sub? (expiring 1).sub = some entry ∧
    ((expiring 1).cancelled = false ∧ (expiring 1).count < (expiring 1).limit ∧ 1 ≤ (expiring 1).count ∧
      (expiring 1).count - 1 < 6) ∧
    (waiting (expiring 3)).FirstDue PageRec.replyDue (expiring 3) ∧ (expiring 3).limit ≤ (expiring 3).count ∧
    (waiting { expiring 3 with series := .recovery }).FirstDue PageRec.replyDue { expiring 3 with series := .recovery } ∧
    (waiting { pageIn .delivered with readWait := some { left := 1, due := true } }).FirstDue PageRec.readDue
      { pageIn .delivered with readWait := some { left := 1, due := true } } ∧
    ((holding entry { pageIn .held with holdWait := some { left := 1, due := true } }).rec? page.id =
      some { pageIn .held with holdWait := some { left := 1, due := true } } ∧
      ({ pageIn .held with holdWait := some { left := 1, due := true } } : PageRec).holdDue = true) := by
  refine ⟨firstDue_waiting _ _ ?_ ?_, firstDue_waiting _ _ ?_ ?_, ?_, ?_, firstDue_waiting _ _ ?_ ?_, ?_,
    firstDue_waiting _ _ ?_ ?_, firstDue_waiting _ _ ?_ ?_, ?_⟩ <;> decide +kernel

theorem witness_MissRefunds :
    (waiting (expiring 3)).FirstDue PageRec.replyDue (expiring 3) ∧ (waiting (expiring 3)).sub? 7 = some entry ∧
    (expiring 3).cancelled = false ∧ (expiring 3).limit ≤ (expiring 3).count ∧
    0 < ((expiring 3).posted * (expiring 3).terms.refundPct + 50) / 100 ∧ (waiting (expiring 3)).acct.openEntries ≠ 0 ∧
    ((open_ 0 (waiting (expiring 3))).office.journalMode = .hold ∧
      (open_ 0 (waiting (expiring 3))).acct.openEntries = 0) ∧
    (waiting { expiring 3 with refunded := true }).FirstDue PageRec.replyDue { expiring 3 with refunded := true } := by
  refine ⟨firstDue_waiting _ _ ?_ ?_, ?_, ?_, ?_, ?_, ?_, ?_, firstDue_waiting _ _ ?_ ?_⟩ <;> decide +kernel

/-- A report about subscriber 7 and tag 0. -/
def reportOf (k : ReportKind) : Report where
  site := 15
  zone := 7
  kind := k
  addr := 300100
  tag := 0
  burst := 255
  quality := 15
  round := 4095
  window := 31

/-- The state with receiver link 5 at a place of its stream. -/
def linkAt (x : RxLink) : State := State.reset.atLink 5 x

theorem witness_ReplyFrameReadsBack :
    (reportOf .heard).burst ≤ 255 ∧ State.reset.rxi.links[(5 : LinkNo)] = .hunting ∧
    (linkAt (.taking (((reportOf .heard).frame.take 1).drop 1))).rxi.links[(5 : LinkNo)] =
      .taking (((reportOf .heard).frame.take 1).drop 1) ∧
    (linkAt (.taking (((reportOf .heard).frame.take 13).drop 1))).rxi.links[(5 : LinkNo)] =
      .taking (((reportOf .heard).frame.take 13).drop 1) := by decide +kernel

/-- The bytes after the marker of a good frame, with one byte put in another's place. -/
def content (i : Nat) (b : Byte) : List Byte := (((reportOf .heard).frame.drop 1).take 11).set i b

theorem witness_FramesAndQueue :
    State.reset.rxi.links[(5 : LinkNo)] = .hunting ∧ (content 0 0).length = 11 ∧
    ((0#8 : Byte) ++ (0#8 : Byte) ≠ crc16 (content 0 0) ∧ (∀ b ∈ content 0 0 ++ [0#8, 0#8], b ≠ 0xC3#8)) ∧
    ((0#8 : Byte) ++ (0xC3#8 : Byte) ≠ crc16 (content 0 0) ∧
      content 0 0 ++ [0#8, 0xC3#8] = (content 0 0 ++ [0#8]) ++ 0xC3#8 :: [] ∧
      (∀ b ∈ content 0 0 ++ [0#8], b ≠ 0xC3#8)) ∧
    (∀ ib ∈ [((1, 0#8) : Nat × Byte), (1, 5#8), (0, 0xFF#8), (2, 0x44#8), (5, 8#8), (7, 0x1F#8), (8, 0x1F#8), (10, 0x3F#8)],
      (crc16 (content ib.1 ib.2)).extractLsb' 8 8 ++ (crc16 (content ib.1 ib.2)).extractLsb' 0 8 =
        crc16 (content ib.1 ib.2)) ∧
    ((List.replicate 63 (reportOf .heard)).length < 64 ∧ 64 ≤ (List.replicate 64 (reportOf .heard)).length ∧
      State.reset.office.replyPolicy = .discardNew) := by decide +kernel

theorem witness_ReportsFiltered :
    (reportOf .heard).burst < 256 ∧ State.reset.office.minBurst ≤ (reportOf .heard).burst ∧
    State.reset.office.minQuality ≤ (reportOf .heard).quality.val ∧
    ({ reportOf .heard with burst := 7 } : Report).burst < State.reset.office.minBurst ∧
    (∀ nq ∈ [((255, 15) : Nat × Nat), (256, 15), (255, 16)],
      (ln (" OFFICE SET MINBURST=" ++ toString nq.1 ++ " MINQUALITY=" ++ toString nq.2)).command = some .officeSet ∧
      (ln (" OFFICE SET MINBURST=" ++ toString nq.1 ++ " MINQUALITY=" ++ toString nq.2)).fields =
        [{ key := str "MINBURST", value := some (showNat nq.1) },
         { key := str "MINQUALITY", value := some (showNat nq.2) }]) ∧
    (∃ t, exec .officeSet State.reset = .next t) ∧ (∃ t, exec .restart State.reset = .next t) := by
  refine ⟨by decide, by decide, by decide, by decide, by decide +kernel, ⟨_, rfl⟩, _, rfl⟩

/-- The state with a report about subscriber 7 at the head of the reply queue. -/
def reported (k : ReportKind) (e : Entry) (r : PageRec) : State :=
  let s := holding e r
  { s with rxi := { s.rxi with replies := [reportOf k] }, rmat := { s.rmat with awaiting := [r.id] } }

theorem reported_meets (k : ReportKind) (st : RecState) :
    (reported k entry (pageIn st)).Reported (reportOf k) [] 7 entry := by
  refine ⟨rfl, ?_, ?_, rfl⟩ <;> cases k <;> cases st <;> decide +kernel

theorem witness_ReportsCounted :
    (∀ c ∈ (reported .heard { entry with addr := 1 } page).subs.cells, c.2.addr ≠ (reportOf .heard).addr) ∧
    ((reported .heard oneWay page).holderOf (reportOf .heard).addr = some 7 ∧
      (reported .heard oneWay page).sub? 7 = some oneWay ∧ oneWay.kind = .oneWay) ∧
    (reported .heard entry { page with tag := none }).tagHolder 7 (reportOf .heard).tag = none ∧
    (reported .heard entry (pageIn .delivered)).tagHolder 7 (reportOf .heard).tag = some (pageIn .delivered) ∧
    (pageIn .delivered).id ∉ ({ reported .read entry (pageIn .delivered) with rmat := Rmat.cold } : State).rmat.awaiting ∧
    (served entry).holderOf 5 = none := by
  decide +kernel

theorem witness_HeardDelivers :
    (∀ st ∈ [RecState.awaiting, .retryWait, .placed],
      (reported .heard entry (pageIn st)).tagHolder 7 (reportOf .heard).tag = some (pageIn st) ∧
      (reported .heard entry (pageIn st)).rec? (pageIn st).id = some (pageIn st)) ∧
    (pageIn .awaiting).cancelled = false ∧ (pageIn .awaiting).terms.readWait ≠ 0 ∧
    (∀ st ∈ [RecState.awaiting, .retryWait, .placed],
      let r := { pageIn st with terms := { page.terms with readWait := 0 } }
      (reported .heard entry r).tagHolder 7 (reportOf .heard).tag = some r ∧
        (reported .heard entry r).rec? r.id = some r) ∧
    ((reported .read entry { pageIn .awaiting with cancelled := true }).tagHolder 7 (reportOf .read).tag =
      some { pageIn .awaiting with cancelled := true }) := by decide +kernel

theorem witness_ReadTakesReceipt :
    (∀ st ∈ [RecState.awaiting, .retryWait, .delivered],
      (reported .read entry (pageIn st)).tagHolder 7 (reportOf .read).tag = some (pageIn st) ∧
      (reported .read entry (pageIn st)).rec? (pageIn st).id = some (pageIn st)) ∧
    (pageIn .awaiting).cancelled = false ∧
    (pageIn .delivered).id ∈ (reported .read entry (pageIn .delivered)).rmat.awaiting ∧
    (reported .read entry page).acct.openEntries ≠ 0 ∧ (open_ 0 (reported .read entry page)).acct.openEntries = 0 ∧
    (reported .read entry page).plans[entry.plan].receiptFee = 0 ∧
    (let s := reported .read entry (pageIn .awaiting)
     0 < ({ s with plans := s.plans.set 0 { Plan.cold with receiptFee := 1 } } : State).plans[entry.plan].receiptFee) := by
  decide +kernel

/-- A subscriber that holds the record of the small state, and a REGISTER of it under a plan with AUTO RECOVER. -/
def holder : Entry := { entry with held := [page.id] }
def recovering : State :=
  let s := reported .register holder (pageIn .held)
  { s with plans := s.plans.set 0 { Plan.cold with autoRecover := true } }

/-- A subscriber with the one record on its held list, without a tag, and a FETCH of it. -/
def linkedPage : PageRec := { pageIn .held with tag := none }
def linkedHolder : Entry := { holder with tags := [] }
def fetched : State :=
  let s := holding linkedHolder linkedPage
  { s with rxi := { s.rxi with replies := [reportOf .fetch] } }

theorem fetched_sub {n : Nat} {e : Entry} (h : fetched.sub? n = some e) : n = 7 ∧ e = linkedHolder := by
  change (([(7, linkedHolder)].find? (fun c : Nat × Entry => c.1 == n)).map Prod.snd) = some e at h
  rw [List.find?_singleton] at h
  split at h
  · next hn => exact ⟨(eq_of_beq hn).symm, (Option.some.inj h).symm⟩
  · exact nomatch h

theorem fetched_linked : fetched.Linked := by
  refine ⟨⟨?_, ?_, by decide +kernel, by decide +kernel⟩, ?_, ?_, by decide +kernel, by decide +kernel, ?_⟩
  · intro n e h
    obtain ⟨rfl, rfl⟩ := fetched_sub h
    unfold State.EntryAgrees
    refine ⟨by decide +kernel, by decide +kernel, ?_, by decide +kernel⟩
    decide +kernel
  · have key : ∀ r : PageRec, r = linkedPage → (fetched.sub? r.sub).isSome = true ∧ r.Whole := by
      rintro _ rfl
      exact ⟨by decide +kernel,
        by unfold PageRec.Whole; refine ⟨by decide, by decide, by decide, ⟨by decide, fun _ h => nomatch h⟩, by decide⟩⟩
    intro r hr
    exact key r (List.mem_singleton.1 hr)
  · intro r hr e he
    obtain rfl : r = linkedPage := List.mem_singleton.1 hr
    refine ⟨?_, by decide +kernel, by decide +kernel, ?_⟩
    · intro w
      fin_cases w <;> exact ⟨(nomatch ·), (fun h => by rcases h.1 with h | h <;> exact nomatch h)⟩
    · intro n x hx
      obtain ⟨rfl, rfl⟩ := fetched_sub hx
      exact ⟨fun _ => ⟨rfl, rfl⟩, fun _ => List.mem_cons_self ..⟩
  · intro w
    fin_cases w <;> exact ⟨List.nodup_nil, fun _ h => nomatch h⟩
  · intro n e h
    obtain ⟨-, rfl⟩ := fetched_sub h
    decide +kernel

theorem witness_FetchAndRegisterRecover :
    (reported .fetch entry (pageIn .held)).Reported (reportOf .fetch) [] 7 entry ∧ entry.held = [] ∧
    (∀ k ∈ [ReportKind.fetch, .register],
      (reported k holder (pageIn .held)).rxi.replies = reportOf k :: [] ∧
      (reported k holder (pageIn .held)).holderOf (reportOf k).addr = some 7 ∧
      (reported k holder (pageIn .held)).sub? 7 = some holder ∧ holder.kind = .twoWay) ∧
    (page.id ∈ holder.held ∧ (reported .fetch holder (pageIn .held)).rec? page.id = some (pageIn .held)) ∧
    (page.count = 0 ∧ (image .locked).view[(reportOf .fetch).zone].state = .inService ∧
      (((reported .fetch holder (pageIn .held)).heardFrom (reportOf .fetch) [] 7 holder).sub? 7).isSome = true) ∧
    (recovering.rxi.replies = reportOf .register :: [] ∧ recovering.holderOf (reportOf .register).addr = some 7 ∧
      recovering.sub? 7 = some holder ∧ recovering.plans[holder.plan].autoRecover = true) ∧
    (reported .register holder (pageIn .held)).plans[holder.plan].autoRecover = false ∧
    -- entries, records and places in agreement
    fetched.Linked ∧ (fetched.rxi.replies = reportOf .fetch :: [] ∧ fetched.holderOf (reportOf .fetch).addr = some 7 ∧
      fetched.sub? 7 = some linkedHolder ∧ linkedHolder.kind = .twoWay ∧ page.id ∈ linkedHolder.held ∧
      fetched.rec? page.id = some linkedPage ∧ linkedPage.sub = 7) := by
  refine ⟨reported_meets _ _, ?_, ?_, ?_, ?_, ?_, ?_, fetched_linked, ?_⟩
  all_goals decide +kernel

/-- An entry with its two alarms set, and one that is BARRED at its floor. -/
def alarmed (low : Int) (usage : Nat) : Entry := { entry with money := { entry.money with low := low, usage := usage } }
def barred : Entry := { entry with money := { entry.money with balance := 0, credit := .barred } }

theorem witness_PostingsApplied :
    (served entry).sub? 7 = some entry ∧ 0 < 1 ∧
    -- a charge that bars and is clamped, one that finds the balance low, one that finds the usage high, and none of these
    (entry.money.credit = .clear ∧ min 1001 (entry.money.balance - entry.money.floor).toNat = 1000 ∧
      entry.money.balance - 1000 = entry.money.floor) ∧
    (entry.money.lowArmed = true ∧ entry.money.balance - 1000 < 1 ∧ (served (alarmed 1 2147483647)).sub? 7 =
      some (alarmed 1 2147483647)) ∧
    (entry.money.usageArmed = true ∧ (0 : Nat) < min (entry.money.periodCharges + 1) 2147483647 ∧
      (served (alarmed 0 0)).sub? 7 = some (alarmed 0 0)) ∧
    (entry.money.balance - 1 ≠ entry.money.floor ∧ ¬ entry.money.balance - 1 < entry.money.low ∧
      ¬ entry.money.usage < min (entry.money.periodCharges + 1) 2147483647) ∧
    -- a credit that unbars, one that leaves the bar, and one that is clamped
    ((served barred).sub? 7 = some barred ∧ barred.money.credit = .barred ∧
      (State.reset.office.unbarMargin : Int) < barred.money.balance + 1 - barred.money.floor ∧
      ¬ ((1 : Nat) : Int) < barred.money.balance + 1 - barred.money.floor) ∧
    min 16777215 (16777215 - entry.money.balance).toNat = 16776215 := by decide +kernel

/-- The journal with a full ring of unread records. -/
def fullRing (mode : JournalMode) : State :=
  let j := blankRec .reset .credit 7
  { State.reset with
    acct := { Acct.cold with ring := List.replicate 1024 j, nextSeq := 1025 }
    office := { Office.cold with journalMode := mode } }

theorem witness_JournalWritten :
    ((blankRec .reset .credit 7).kind ≠ .air ∧ (fullRing .hold).office.journalMode = .hold ∧
      (fullRing .hold).acct.openEntries = 0) ∧
    (fullRing .overwrite).office.journalMode = .overwrite ∧
    (1024 ≤ (fullRing .overwrite).acct.ring.length ∧ 1024 ≤ (fullRing .overwrite).acct.unread) ∧
    (fullRing .overwrite).office.journalHigh ≤ (fullRing .overwrite).acct.unread ∧
    (fullRing .overwrite).office.highType = .once ∧ State.reset.acct.openEntries ≠ 0 := by decide +kernel

theorem witness_CreditAndAdjustPosted :
    checkForm [keyForm "SUB" readNat, keyForm "AMOUNT" readCredit, keyForm "REF" (readIn 0 65535)] ["SUB", "AMOUNT"]
      (ln " CREDIT SUB=7 AMOUNT=16777215").fields = .ok () ∧
    fieldOf (ln " CREDIT SUB=7 AMOUNT=16777215").fields "SUB" readNat = some 7 ∧
    fieldOf (ln " CREDIT SUB=7 AMOUNT=16777215").fields "AMOUNT" readCredit = some 16777215 ∧
    (fed (served entry) " CREDIT SUB=7 AMOUNT=16777215").Heads .credit (ln " CREDIT SUB=7 AMOUNT=16777215") [] ∧
    checkMoney readCredit ((fed (served entry) " CREDIT SUB=7 AMOUNT=16777215").lineOff [])
      (ln " CREDIT SUB=7 AMOUNT=16777215").fields = .ok { sub := 7, amount := 16777215, ref := 0 } ∧
    (fed (served entry) " ADJUST SUB=7 AMOUNT=-16777215").Heads .adjust (ln " ADJUST SUB=7 AMOUNT=-16777215") [] ∧
    checkMoney readAdjust ((fed (served entry) " ADJUST SUB=7 AMOUNT=-16777215").lineOff [])
      (ln " ADJUST SUB=7 AMOUNT=-16777215").fields = .ok { sub := 7, amount := -16777215, ref := 0 } ∧
    checkMoney readAdjust ((fed (served entry) " ADJUST SUB=7 AMOUNT=1").lineOff [])
      (ln " ADJUST SUB=7 AMOUNT=1").fields = .ok { sub := 7, amount := 1, ref := 0 } := by
  refine ⟨?_, ?_, ?_, heads_fed _ ?_, ?_, heads_fed _ ?_, ?_⟩ <;> decide +kernel

/-- A ring of three records, the last one unread. -/
def threeRecs : State :=
  let j := blankRec .reset .credit 7
  { State.reset with
    acct := { Acct.cold with ring := [{ j with seq := 1 }, { j with seq := 2 }, { j with seq := 3 }], nextSeq := 4, cursor := 3 } }

/-- An AIR record. -/
def airRecord : JournalRec :=
  { blankRec .reset .air 7 with
    msg := some page.id, air := some { cls := .first, zones := 1, blocks := 1, version := 0, origin := 0 } }

theorem witness_JournalReadAndRewound :
    (fed threeRecs " BILL READ COUNT=8").Heads .billRead (ln " BILL READ COUNT=8") [] ∧
    checkForm [keyForm "COUNT" (readIn 1 8)] [] (ln " BILL READ COUNT=8").fields = .ok () ∧
    checkForm [keyForm "SEQ" readSeq] ["SEQ"] (ln " BILL REWIND SEQ=2").fields = .ok () ∧
    fieldOf (ln " BILL REWIND SEQ=2").fields "SEQ" readSeq = some 2 ∧
    (fed threeRecs " BILL REWIND SEQ=2").Heads .billRewind (ln " BILL REWIND SEQ=2") [] ∧
    checkBillRewind ((fed threeRecs " BILL REWIND SEQ=2").lineOff []) (ln " BILL REWIND SEQ=2").fields = .ok (.back 2) ∧
    (fed threeRecs " BILL REWIND SEQ=3").Heads .billRewind (ln " BILL REWIND SEQ=3") [] ∧
    checkBillRewind ((fed threeRecs " BILL REWIND SEQ=3").lineOff []) (ln " BILL REWIND SEQ=3").fields = .ok .stay ∧
    (∀ j ∈ threeRecs.acct.ring, j.seq ≠ 4) ∧
    -- a record of each shape
    (airRecord.kind = .air ∧ airRecord.msg = some page.id ∧ airRecord.air.isSome = true ∧ airRecord.ref = none ∧
      airRecord.period = none) ∧
    (∀ k ∈ [JournalKind.refund, .receipt],
      let j := { blankRec .reset k 7 with msg := some page.id }
      j.kind = k ∧ j.msg = some page.id ∧ j.air = none ∧ j.ref = none ∧ j.period = none) ∧
    (∀ k ∈ [JournalKind.credit, .adjust],
      let j := { blankRec .reset k 7 with ref := some 0 }
      j.kind = k ∧ j.msg = none ∧ j.air = none ∧ j.ref = some 0 ∧ j.period = none) ∧
    (∀ k ∈ [JournalKind.period, .close],
      let j := { blankRec .reset k 7 with period := some (1, 2) }
      j.kind = k ∧ j.msg = none ∧ j.air = none ∧ j.ref = none ∧ j.period = some (1, 2)) := by
  refine ⟨heads_fed _ ?_, ?_, ?_, ?_, heads_fed _ ?_, ?_, heads_fed _ ?_, ?_⟩ <;> decide +kernel

theorem witness_PeriodsClosed :
    checkForm [keyForm "SUB" readNat] ["SUB"] (ln " PERIOD CLOSE SUB=7").fields = .ok () ∧
    fieldOf (ln " PERIOD CLOSE SUB=7").fields "SUB" readNat = some 7 ∧
    (fed (served entry) " PERIOD CLOSE SUB=7").Heads .periodClose (ln " PERIOD CLOSE SUB=7") [] ∧
    checkPeriodClose ((fed (served entry) " PERIOD CLOSE SUB=7").lineOff []) (ln " PERIOD CLOSE SUB=7").fields =
      .ok (7, entry) ∧
    (fed .reset " PERIOD CLOSE ALL").Heads .periodCloseAll (ln " PERIOD CLOSE ALL") [] ∧
    (ln " PERIOD CLOSE ALL").fields = [] ∧ State.reset.acct.sweep = none ∧
    (sweeping 7 .reset).acct.sweep ≠ none ∧
    (ln " PERIOD CLOSE ALL X=1").fields = { key := str "X", value := some (str "1") } :: [] ∧
    (sweeping 4095 (served entry)).sub? 4095 = none ∧ (sweeping 7 (served entry)).sub? 7 = some entry ∧
    (sweeping 7 (served entry)).acct.openEntries ≠ 0 ∧ (open_ 0 (sweeping 7 (served entry))).acct.openEntries = 0 ∧
    (open_ 0 (sweeping 7 (served entry))).office.journalMode = .hold := by
  refine ⟨?_, ?_, heads_fed _ ?_, ?_, heads_fed _ ?_, ?_⟩ <;> decide +kernel

/-- A state that idles in RUNNING with one subscriber, one record on the awaiting list and one journal record written. -/
def running : State :=
  { waiting (pageIn .awaiting) with
    aclk := { Aclk.cold with air := .running }
    wsch := { Wsch.cold with build := some ended, onAir := some { image := image .locked, toAir := [] } }
    acct := { Acct.cold with ring := [{ blankRec .reset .credit 7 with seq := 1 }], nextSeq := 2 } }

theorem running_sized : running.Sized := by
  refine ⟨by unfold Hlc.Sized; decide, ⟨by decide, by decide, by decide, ?_⟩, by unfold Rmat.Sized; decide, ?_, ?_,
    by unfold Acct.Sized; decide, by decide, ?_, by unfold Store.Sized; decide +kernel⟩
  · intro l; fin_cases l <;> trivial
  · unfold ZoneCell.Sized; decide +kernel
  · exact ⟨by decide, fun k h => nomatch h⟩
  · intro c hc
    obtain rfl : c = (7, entry) := List.mem_singleton.1 hc
    exact ⟨by decide, by decide, by rintro h ⟨⟩; decide⟩

theorem running_ranged : running.Ranged := by
  refine ⟨by unfold ZoneSettings.Ranged; decide +kernel, by unfold Plan.Ranged; decide +kernel, ?_, ?_, ?_⟩
  · unfold Tariff.Ranged; decide +kernel
  · intro t a h; exact nomatch h
  · unfold Office.Ranged; decide

theorem running_sub {n : Nat} {e : Entry} (h : running.sub? n = some e) : n = 7 ∧ e = entry := by
  change (([(7, entry)].find? (fun c : Nat × Entry => c.1 == n)).map Prod.snd) = some e at h
  rw [List.find?_singleton] at h
  split at h
  · next hn => exact ⟨(eq_of_beq hn).symm, (Option.some.inj h).symm⟩
  · exact nomatch h

theorem running_linked : running.Linked := by
  refine ⟨⟨?_, ?_, by decide +kernel, by decide +kernel⟩, ?_, ?_, by decide +kernel, by decide +kernel, ?_⟩
  · intro n e h
    obtain ⟨rfl, rfl⟩ := running_sub h
    unfold State.EntryAgrees
    decide +kernel
  · have key : ∀ r : PageRec, r = pageIn .awaiting → (running.sub? r.sub).isSome = true ∧ r.Whole := by
      rintro _ rfl
      exact ⟨by decide +kernel, by unfold PageRec.Whole; refine ⟨by decide, by decide, by decide, ⟨by decide, fun _ h => nomatch h⟩, by decide⟩⟩
    intro r hr
    exact key r (List.mem_singleton.1 hr)
  · intro r hr e he
    obtain rfl : r = pageIn .awaiting := List.mem_singleton.1 hr
    refine ⟨?_, by decide +kernel, by decide +kernel, ?_⟩
    · intro w
      fin_cases w <;> exact ⟨(nomatch ·), (fun h => by rcases h.1 with h | h <;> exact nomatch h)⟩
    · intro n x hx
      obtain ⟨-, rfl⟩ := running_sub hx
      exact ⟨(nomatch ·), fun h => nomatch h.1⟩
  · intro w
    fin_cases w <;> exact ⟨List.nodup_nil, fun _ h => nomatch h⟩
  · intro n e h
    obtain ⟨-, rfl⟩ := running_sub h
    exact ⟨List.nodup_nil, fun _ h => nomatch h⟩

theorem witness_CapacitiesKept :
    step running = .next running ∧ running.Sized ∧ running.Canonical ∧ running.Ranged ∧ running.hlc.InOrder ∧
      running.AddressesDiffer ∧ running.AirShape ∧ running.Linked ∧ running.Roomy :=
  ⟨rfl, running_sized, by unfold State.Canonical; decide +kernel, running_ranged,
    ⟨List.Pairwise.nil, List.nodup_nil, fun _ h => nomatch h⟩, by unfold State.AddressesDiffer; decide +kernel,
    ⟨rfl, .inl ⟨rfl, rfl⟩⟩, running_linked, by decide +kernel, by decide +kernel⟩

theorem witness_BalancesStayInBounds : running.Solvent := by unfold State.Solvent Money.Bounded; decide +kernel

theorem witness_JournalStaysOrdered : running.acct.Ordered := by
  refine ⟨by decide, by decide, ?_⟩
  intro i h
  have : i = 0 := by
    have : i < 1 := h
    omega
  subst this
  rfl

theorem witness_ImagesFollowAirState : running.AirShape := ⟨rfl, .inl ⟨rfl, rfl⟩⟩

end Sys2Proof.Tests
end

section
/-! The lock detector under judged groups (R65, R66): what a group does to the air clock, how good groups and good
strobes add up, and the detector table built from them (O29). -/

namespace Sys2Proof.Machine

/-! ### What one judged group does -/

/-- The detector behind a good group: the "Good group" column of R66. -/
def Detector.afterGood : Detector → Detector
  | .unlocked => .acquiring 1
  | .acquiring k => if k < 7 then .acquiring (k + 1) else .locked
  | .locked => .locked

theorem State.unlock_aclk (s : State) : s.unlock.aclk = { s.aclk with detector := .unlocked } := by
  unfold State.unlock
  split
  · simp only [State.raiseLock_frame]
  · rfl

theorem State.goodGroup_aclk (s : State) :
    s.goodGroup.aclk = { s.aclk with detector := s.aclk.detector.afterGood } := by
  unfold State.goodGroup
  split
  case h_1 h => rw [h]; rfl
  case h_2 k h =>
    rw [h, Detector.afterGood]
    split
    · rfl
    · simp only [State.raiseLock_frame]
  case h_3 h => rw [h, Detector.afterGood, ← h]

theorem State.goodGroup_of_locked {s : State} (h : s.aclk.detector = .locked) : s.goodGroup = s := by
  simp only [State.goodGroup, h]

/-! ### Good groups in a row -/

theorem State.goodGroup_iterate_detector (s : State) (n : Nat) :
    (State.goodGroup^[n] s).aclk.detector = Detector.afterGood^[n] s.aclk.detector := by
  induction n with
  | zero => rfl
  | succ n ih => simp only [Function.iterate_succ_apply', State.goodGroup_aclk, ih]

theorem Detector.afterGood_eight : Detector.afterGood^[8] .unlocked = .locked := by decide

theorem Detector.afterGood_ne_locked_of_lt_eight : ∀ n < 8, Detector.afterGood^[n] .unlocked ≠ .locked := by decide

/-! ### Good strobes in a row -/

/-- The air clock `a` with `n` good strobes taken since a new group began in UNLOCKED: the strobes of the group under
way, and a good group for each 64 before it. -/
def Aclk.afterGoodStrobes (a : Aclk) (n : Nat) : Aclk :=
  { a with detector := Detector.afterGood^[n / 64] .unlocked, strobes := n % 64, badMark := false }

/-- A good strobe that is not the 64th of its group only counts. -/
theorem State.countStrobe_good_aclk_of_lt {s : State} (hm : s.aclk.badMark = false) (h : s.aclk.strobes + 1 < 64) :
    (s.countStrobe true).aclk = { s.aclk with strobes := s.aclk.strobes + 1 } := by
  simp [State.countStrobe, hm, h]

/-- The 64th good strobe of an unmarked group is a good group, and a new group begins. -/
theorem State.countStrobe_good_aclk_of_last {s : State} (hm : s.aclk.badMark = false) (h : s.aclk.strobes = 63) :
    (s.countStrobe true).aclk =
      { s.aclk with detector := s.aclk.detector.afterGood, strobes := 0, badMark := false } := by
  simp [State.countStrobe, hm, h, State.goodGroup_aclk]

theorem State.countStrobe_good_afterGoodStrobes {s : State} {a : Aclk} {n : Nat} (h : s.aclk = a.afterGoodStrobes n) :
    (s.countStrobe true).aclk = a.afterGoodStrobes (n + 1) := by
  have hm : s.aclk.badMark = false := by rw [h]; rfl
  have hs : s.aclk.strobes = n % 64 := by rw [h]; rfl
  by_cases hlast : n % 64 = 63
  · have hdiv : (n + 1) / 64 = n / 64 + 1 := by omega
    have hmod : (n + 1) % 64 = 0 := by omega
    rw [State.countStrobe_good_aclk_of_last hm (hs.trans hlast), h]
    simp only [Aclk.afterGoodStrobes, hdiv, hmod, Function.iterate_succ_apply']
  · have hdiv : (n + 1) / 64 = n / 64 := by omega
    have hmod : (n + 1) % 64 = n % 64 + 1 := by omega
    rw [State.countStrobe_good_aclk_of_lt hm (by omega), h]
    simp only [Aclk.afterGoodStrobes, hdiv, hmod]

theorem State.countStrobe_good_iterate_aclk {s : State} (hd : s.aclk.detector = .unlocked) (hs : s.aclk.strobes = 0)
    (hm : s.aclk.badMark = false) (n : Nat) :
    ((fun x : State => x.countStrobe true)^[n] s).aclk = s.aclk.afterGoodStrobes n := by
  induction n with
  | zero =>
    change s.aclk = { s.aclk with detector := .unlocked, strobes := 0, badMark := false }
    rw [← hd, ← hs, ← hm]
  | succ n ih =>
    rw [Function.iterate_succ_apply']
    exact State.countStrobe_good_afterGoodStrobes ih

/-! ### Lock is gained at the 8th good group, the 512th good strobe, and no earlier -/

theorem State.goodGroup_iterate_gains_lock {s : State} (hd : s.aclk.detector = .unlocked) :
    (State.goodGroup^[8] s).aclk.detector = .locked ∧
      ∀ i, i < 8 → (State.goodGroup^[i] s).aclk.detector ≠ .locked := by
  simp only [State.goodGroup_iterate_detector, hd]
  exact ⟨Detector.afterGood_eight, Detector.afterGood_ne_locked_of_lt_eight⟩

theorem State.countStrobe_good_iterate_gains_lock {s : State} (hd : s.aclk.detector = .unlocked)
    (hs : s.aclk.strobes = 0) (hm : s.aclk.badMark = false) :
    ((fun x : State => x.countStrobe true)^[512] s).aclk.detector = .locked ∧
      ∀ i, i < 512 → ((fun x : State => x.countStrobe true)^[i] s).aclk.detector ≠ .locked := by
  simp only [State.countStrobe_good_iterate_aclk hd hs hm, Aclk.afterGoodStrobes]
  exact ⟨Detector.afterGood_eight, fun i hi => Detector.afterGood_ne_locked_of_lt_eight (i / 64) (by omega)⟩

/-! ### The warm restart and the report -/

/-- A warm restart leaves UNLOCKED with a new group and no LOCK condition (R66). -/
theorem State.restarted_detector (s : State) :
    s.restarted.aclk.detector = .unlocked ∧ s.restarted.aclk.strobes = 0 ∧ s.restarted.aclk.badMark = false ∧
      s.restarted.hlc.flags[NoticeKind.lock.index] = false ∧ s.restarted.hlc.notices = [] :=
  ⟨rfl, rfl, rfl, Vector.getElem_replicate _, rfl⟩

/-- The first line of STATUS carries LOCK (R66, R176). -/
theorem statusLines_reports_lock (s : State) :
    ∃ line lines, statusLines s = line :: lines ∧ (str "LOCK", s.aclk.detector.value) ∈ line :=
  ⟨_, _, rfl, .tail _ (.tail _ (.head _))⟩

/-- Settles O29, from what one group does to the clock and the counts of good groups and good strobes. -/
theorem detectorTable : Obligations.DetectorTable := by
  unfold Obligations.DetectorTable
  refine ⟨fun s => ?badGroup, fun s h => ?first, fun s k h _ hk => ?acquiring, fun s h => ?eighth,
    fun s => State.goodGroup_of_locked, fun s => State.goodGroup_iterate_gains_lock,
    fun s => State.countStrobe_good_iterate_gains_lock, rfl, State.restarted_detector, statusLines_reports_lock,
    rfl, rfl, fun _ => rfl⟩
  case badGroup => rw [State.unlock_aclk]
  case first => rw [State.goodGroup_aclk, h]; rfl
  case acquiring => rw [State.goodGroup_aclk, h]; exact if_pos (by omega)
  case eighth => rw [State.goodGroup_aclk, h]; rfl

end Sys2Proof.Machine
end

section
/-! The filter of reply reports and its settings (R106, R178): what each function of the filter gives, the reading of a
number as it is sent, and an OFFICE SET of the two settings (O46). -/

namespace Sys2Proof.Machine

/-! ### Numbers read as they are sent (11.1) -/

/-- What the character of a decimal digit is read as (11.1). -/
theorem ofNat_digit_char : ∀ d < 10, isDigit (BitVec.ofNat 8 (0x30 + d)) = true ∧
    digitValue (BitVec.ofNat 8 (0x30 + d)) = d ∧ (d ≠ 0 → BitVec.ofNat 8 (0x30 + d) ≠ 0x30#8) := by decide

/-- The value of a number's digits, read from the first on behind the value `v`. -/
def digitsValue (v : Nat) (t : Text) : Nat := t.foldl (fun n d => 10 * n + digitValue d) v

theorem digitsValue_decimalDigits (fuel : Nat) {n : Nat} (h : n < 10 ^ fuel) (acc : Text) :
    digitsValue 0 (decimalDigits fuel n acc) = digitsValue n acc := by
  induction fuel generalizing n acc with
  | zero =>
    obtain rfl : n = 0 := by omega
    rfl
  | succ fuel ih =>
    have hd := (ofNat_digit_char (n % 10) (Nat.mod_lt _ (by decide))).2.1
    unfold decimalDigits
    dsimp only
    split
    · next hn => simp only [digitsValue, List.foldl_cons, hd]; rw [Nat.mul_zero, Nat.zero_add, Nat.mod_eq_of_lt hn]
    · rw [ih (by omega)]
      simp only [digitsValue, List.foldl_cons, hd, Nat.div_add_mod]

theorem all_isDigit_decimalDigits (fuel n : Nat) {acc : Text} (h : acc.all isDigit = true) :
    (decimalDigits fuel n acc).all isDigit = true := by
  induction fuel generalizing n acc with
  | zero => exact h
  | succ fuel ih =>
    have hacc : (BitVec.ofNat 8 (0x30 + n % 10) :: acc).all isDigit = true := by
      rw [List.all_cons, (ofNat_digit_char (n % 10) (Nat.mod_lt _ (by decide))).1, h]
      rfl
    unfold decimalDigits
    dsimp only
    split
    · exact hacc
    · exact ih _ hacc

/-- A number above 0 is sent without a leading zero. -/
theorem decimalDigits_no_leading_zero (fuel : Nat) {n : Nat} (h0 : 0 < n) (h : n < 10 ^ fuel) (acc : Text) :
    ∃ b rest, decimalDigits fuel n acc = b :: rest ∧ b ≠ 0x30#8 := by
  induction fuel generalizing n acc with
  | zero => omega
  | succ fuel ih =>
    unfold decimalDigits
    dsimp only
    split
    · next hn => exact ⟨_, _, rfl, (ofNat_digit_char (n % 10) (Nat.mod_lt _ (by decide))).2.2 (by omega)⟩
    · exact ih (by omega) (by omega) _

/-- A number of at most 20 digits is read as it was sent. -/
theorem readNat_showNat {n : Nat} (h : n < 100000000000000000000) : readNat (showNat n) = some n := by
  rcases Nat.eq_zero_or_pos n with rfl | h0
  · decide
  · obtain ⟨b, rest, hb, hne⟩ := decimalDigits_no_leading_zero 20 h0 h []
    have hall : (b :: rest).all isDigit = true := hb ▸ all_isDigit_decimalDigits 20 n rfl
    have hval : digitsValue 0 (b :: rest) = n := hb ▸ digitsValue_decimalDigits 20 h []
    rw [showNat, hb, readNat, hall, bne_iff_ne.mpr hne, Bool.true_or, Bool.and_self, if_pos rfl]
    exact congrArg some hval

theorem readIn_showNat (lo hi : Nat) {n : Nat} (h : n < 100000000000000000000) :
    readIn lo hi (showNat n) = if lo ≤ n ∧ n ≤ hi then some n else none := by
  rw [readIn, readNat_showNat h]

/-! ### The filter (R106) -/

theorem State.filterReport_of_below {s : State} {p : Report}
    (h : p.burst < s.office.minBurst ∨ p.quality.val < s.office.minQuality) : s.filterReport p = s.noisier :=
  if_pos h

theorem State.filterReport_of_reached {s : State} {p : Report} (hb : s.office.minBurst ≤ p.burst)
    (hq : s.office.minQuality ≤ p.quality.val) : s.filterReport p = s.joinReplies p :=
  if_neg fun h => h.elim (Nat.not_lt.mpr hb) (Nat.not_lt.mpr hq)

/-! ### An OFFICE SET of MIN BURST and MIN QUALITY (R178) -/

/-- The fields MINBURST=n MINQUALITY=q of a line. -/
def filterFields (n q : Nat) : List RawField :=
  [{ key := str "MINBURST", value := some (showNat n) }, { key := str "MINQUALITY", value := some (showNat q) }]

/-- A number given for a key is at fault when it is outside the key's range. -/
theorem fieldAtFault_showNat {forms : List KeyForm} {key : String} {lo hi n : Nat}
    (hform : forms.find? (fun k => k.1 == str key) = some (keyForm key (readIn lo hi)))
    (h : n < 100000000000000000000) :
    fieldAtFault forms { key := str key, value := some (showNat n) } = decide (n < lo ∨ hi < n) := by
  simp only [fieldAtFault, hform, keyForm, readIn_showNat lo hi h]
  split
  · exact (decide_eq_false (by omega)).symm
  · exact (decide_eq_true (by omega)).symm

theorem fieldAtFault_minBurst {n : Nat} (h : n < 100000000000000000000) :
    fieldAtFault officeForms { key := str "MINBURST", value := some (showNat n) } = decide (255 < n) :=
  (fieldAtFault_showNat rfl h).trans (by simp)

theorem fieldAtFault_minQuality {q : Nat} (h : q < 100000000000000000000) :
    fieldAtFault officeForms { key := str "MINQUALITY", value := some (showNat q) } = decide (15 < q) :=
  (fieldAtFault_showNat rfl h).trans (by simp)

/-- The first field at fault: MINBURST above 255, else MINQUALITY above 15. -/
theorem firstFault_filterFields {n q : Nat} (hn : n < 100000000000000000000) (hq : q < 100000000000000000000) :
    firstFault officeForms [] (filterFields n q) =
      if 255 < n then some (str "MINBURST") else if 15 < q then some (str "MINQUALITY") else none := by
  have hkey : [str "MINBURST"].contains (str "MINQUALITY") = false := by decide
  simp only [filterFields, firstFault, fieldAtFault_minBurst hn, fieldAtFault_minQuality hq, hkey, List.contains_nil,
    Bool.or_false, decide_eq_true_eq]

/-- The checks of R178 on the two fields: the air state does not enter into them. -/
theorem checkOfficeSet_filterFields (s : State) {n q : Nat} (hn : n < 100000000000000000000)
    (hq : q < 100000000000000000000) :
    checkOfficeSet s (filterFields n q) =
      if 255 < n then .error (.badField (str "MINBURST"))
      else if 15 < q then .error (.badField (str "MINQUALITY")) else .ok () := by
  unfold checkOfficeSet checkForm
  rw [firstFault_filterFields hn hq]
  by_cases hburst : 255 < n
  · rw [if_pos hburst, if_pos hburst]
    rfl
  · rw [if_neg hburst, if_neg hburst]
    by_cases hquality : 15 < q
    · rw [if_pos hquality, if_pos hquality]
      rfl
    · rw [if_neg hquality, if_neg hquality]
      rfl

theorem Office.updated_filterFields (o : Office) {n q : Nat} (hn : n ≤ 255) (hq : q ≤ 15) :
    o.updated (filterFields n q) = { o with minBurst := n, minQuality := q } := by
  have hburst : fieldOf (filterFields n q) "MINBURST" (readIn 0 255) = some n := by
    show readIn 0 255 (showNat n) = some n
    rw [readIn_showNat 0 255 (by omega), if_pos ⟨Nat.zero_le n, hn⟩]
  have hquality : fieldOf (filterFields n q) "MINQUALITY" (readIn 0 15) = some q := by
    show readIn 0 15 (showNat q) = some q
    rw [readIn_showNat 0 15 (by omega), if_pos ⟨Nat.zero_le q, hq⟩]
  unfold Office.updated
  rw [hburst, hquality]
  rfl

/-- Neither the detector nor congestion is judged when neither of their settings is given. -/
theorem applyOfficeSet_filterFields (tag : Nat) (s : State) {n q : Nat} (hn : n ≤ 255) (hq : q ≤ 15) :
    applyOfficeSet tag (filterFields n q) s =
      { s with office := { s.office with minBurst := n, minQuality := q } }.answer [.final tag .ok []] := by
  simp only [applyOfficeSet, Office.updated_filterFields s.office hn hq, if_true]
  rfl

theorem State.lineOff_office (s : State) (rest : List CmdLine) : (s.lineOff rest).office = s.office := rfl

theorem exec_officeSet (s : State) : exec .officeSet s = takeLine .officeSet
    (fun tag fs u => carry tag (checkOfficeSet u fs) (fun _ v => applyOfficeSet tag fs v) u) s := rfl

theorem exec_restart (s : State) : exec .restart s = takeLine .restart
    (fun tag fs u => carry tag (checkRestart u fs) (fun _ v => applyRestart tag v) u) s := rfl

/-- OFFICE SET takes its line (R169, R178). -/
theorem exec_officeSet_of_heads {s : State} {l : CmdLine} {rest : List CmdLine} (h : s.Heads .officeSet l rest) :
    exec .officeSet s = .next (carry l.tag (checkOfficeSet (s.lineOff rest) l.fields)
      (fun _ u => applyOfficeSet l.tag l.fields u) (s.lineOff rest)).settle := by
  obtain ⟨hbuf, hcmd⟩ := h
  rw [exec_officeSet, takeLine_head s _ hbuf hcmd]
  rfl

/-! ### What OFFICE SET and RESTART leave -/

theorem State.lineOff_rxi (s : State) (rest : List CmdLine) : (s.lineOff rest).rxi = s.rxi := rfl

/-- A command's row leaves the state as it stands, or takes the line at the head of the buffer. -/
theorem takeLine_next {c : HostCommand} {body : Nat → List RawField → State → State} {s t : State}
    (h : takeLine c body s = .next t) :
    t = s ∨ ∃ l rest, s.Heads c l rest ∧ t = (body l.tag l.fields (s.lineOff rest)).settle := by
  unfold takeLine at h
  split at h
  · next l rest hbuf =>
    split at h
    · next hcmd => cases h; exact .inr ⟨l, rest, ⟨hbuf, hcmd⟩, rfl⟩
    · cases h; exact .inl rfl
  · cases h; exact .inl rfl

theorem applyOfficeSet_rxi (tag : Nat) (fs : List RawField) (s : State) : (applyOfficeSet tag fs s).rxi = s.rxi := by
  unfold applyOfficeSet
  dsimp only
  split <;> split <;> simp

theorem exec_officeSet_rxi {s t : State} (h : exec .officeSet s = .next t) : t.rxi = s.rxi := by
  rw [exec_officeSet] at h
  obtain rfl | ⟨l, rest, -, rfl⟩ := takeLine_next h
  · rfl
  · unfold carry
    split
    · exact applyOfficeSet_rxi l.tag l.fields (s.lineOff rest)
    · simp [State.lineOff_rxi]

theorem exec_restart_office {s t : State} (h : exec .restart s = .next t) : t.office = s.office := by
  rw [exec_restart] at h
  obtain rfl | ⟨l, rest, -, rfl⟩ := takeLine_next h
  · rfl
  · unfold carry
    split
    · rfl
    · simp [State.lineOff_office]

/-- Settles O46: the filter's two branches, the OFFICE SET of its two settings, and what the two commands leave. -/
theorem reportsFiltered : Obligations.ReportsFiltered := by
  unfold Obligations.ReportsFiltered
  refine ⟨fun s p => ⟨State.filterReport_of_below, State.filterReport_of_reached, ?noFilter⟩, rfl, rfl, ?officeSet,
    fun _ _ => exec_officeSet_rxi, fun _ _ => exec_restart_office⟩
  case noFilter =>
    intro hb hq
    exact State.filterReport_of_reached (hb ▸ Nat.zero_le _) (hq ▸ Nat.zero_le _)
  case officeSet =>
    intro s l rest n q hl hfields hn hq
    have hcheck := checkOfficeSet_filterFields (s.lineOff rest) hn hq
    rw [exec_officeSet_of_heads hl, show l.fields = filterFields n q from hfields, hcheck]
    refine ⟨?taken, ?badBurst, ?badQuality⟩
    case taken =>
      rintro ⟨hn, hq⟩
      rw [if_neg (by omega), if_neg (by omega)]
      simp only [carry, applyOfficeSet_filterFields l.tag (s.lineOff rest) hn hq, State.lineOff_office]
    case badBurst =>
      intro hn
      rw [if_pos hn]
      rfl
    case badQuality =>
      intro hn hq
      rw [if_neg (by omega), if_pos hq]
      rfl

end Sys2Proof.Machine
end

section
/-! The recovery of held pages by a report (R31, R114, R115): what the recovery of one record does to the records, the
entries and the queues, the same over a held list, and a FETCH or REGISTER taken (O50). -/

namespace Sys2Proof.Machine

/-! ### The recovery of one record (R31) -/

theorem PageRec.recovered_recovered (r : PageRec) : r.recovered.recovered = r.recovered := rfl

/-- A slot holds one live record. -/
theorem State.rec?_slot_inj {s : State} {m x : MsgId} {r q : PageRec} (hr : s.rec? m = some r) (hq : s.rec? x = some q)
    (h : x.slot = m.slot) : x = m := by
  have hget := get?_of_rec? hq
  rw [h, get?_of_rec? hr] at hget
  rw [← State.rec?_id hr, ← State.rec?_id hq, Option.some.inj hget]

theorem State.recoverRec_of_none {s : State} {m : MsgId} (h : s.rec? m = none) : s.recoverRec m = s := by
  simp only [State.recoverRec, h]

theorem State.recoverRec_of_some {s : State} {m : MsgId} {r : PageRec} (h : s.rec? m = some r) :
    s.recoverRec m = ((s.unholdRec r).putRec r.recovered).fileRec r.recovered := by
  simp only [State.recoverRec, h]

/-- The record recovered is HELD no longer, the other records stand. -/
theorem State.rec?_recoverRec_of_some {s : State} (m : MsgId) {x : MsgId} {q : PageRec} (hq : s.rec? x = some q) :
    (s.recoverRec m).rec? x = some (if x = m then q.recovered else q) := by
  cases hr : s.rec? m with
  | none =>
    rw [State.recoverRec_of_none hr, hq, if_neg]
    rintro rfl
    rw [hr] at hq
    cases hq
  | some r =>
    have hid : r.recovered.id = m := State.rec?_id (r := r) hr
    rw [State.recoverRec_of_some hr, State.rec?_congr (s := (s.unholdRec r).putRec r.recovered) (by simp),
      State.rec?_putRec, hid]
    by_cases hx : x = m
    · subst hx
      rw [if_pos rfl, if_pos rfl, if_pos rfl, Option.some.inj (hr.symm.trans hq)]
    · rw [if_neg fun h => hx (State.rec?_slot_inj hr hq h), if_neg hx, State.rec?_congr (s := s) (by simp), hq]

/-- The record recovered leaves its subscriber's held list; nothing else of an entry changes. -/
theorem State.sub?_recoverRec {s : State} {m : MsgId} {r : PageRec} (h : s.rec? m = some r) (n : Nat) :
    (s.recoverRec m).sub? n = if n = r.sub then
      (s.sub? r.sub).map (fun e => { e with held := e.held.filter (fun x => x != m) }) else s.sub? n := by
  have hid := State.rec?_id h
  subst hid
  rw [State.recoverRec_of_some h, State.sub?_congr (s := s.unholdRec r) (by simp)]
  exact s.sub?_modSub _ _ _

/-- Whatever is recovered, an entry keeps its home window. -/
theorem State.home_recoverRec {s : State} {n : Nat} {e : Entry} (he : s.sub? n = some e) (m : MsgId) :
    ∃ e', (s.recoverRec m).sub? n = some e' ∧ e'.home = e.home := by
  cases hr : s.rec? m with
  | none => exact ⟨e, by rwa [State.recoverRec_of_none hr], rfl⟩
  | some r =>
    rw [State.sub?_recoverRec hr]
    split
    · next hn => exact ⟨{ e with held := e.held.filter (fun x => x != m) }, by rw [← hn, he]; rfl, rfl⟩
    · exact ⟨e, he, rfl⟩

/-- The queues of a state in which the record stands recovered, before it is filed. -/
theorem State.queue_unholdRec_putRec (s : State) (r q : PageRec) (w : Window) :
    ((s.unholdRec r).putRec q).queue w = s.queue w := State.queue_congr (by simp) w

/-- Filing takes no id out of a queue. -/
theorem State.mem_queue_fileRec {s : State} {x : MsgId} {w : Window} (hx : x ∈ s.queue w) (r : PageRec) :
    x ∈ (s.fileRec r).queue w := by
  cases he : s.sub? r.sub with
  | none => simpa only [State.fileRec, he] using hx
  | some e =>
    obtain ⟨hhome, hother⟩ := s.queue_fileRec he
    by_cases hw : w = e.home
    · subst hw
      exact hhome.mem_iff.mpr (List.mem_cons_of_mem _ hx)
    · rwa [hother w hw]

theorem State.mem_queue_recoverRec {s : State} {x : MsgId} {w : Window} (hx : x ∈ s.queue w) (m : MsgId) :
    x ∈ (s.recoverRec m).queue w := by
  cases hr : s.rec? m with
  | none => rwa [State.recoverRec_of_none hr]
  | some r =>
    rw [State.recoverRec_of_some hr]
    exact State.mem_queue_fileRec (by rwa [State.queue_unholdRec_putRec]) _

/-- The record recovered joins the queue of its subscriber's home window. -/
theorem State.mem_queue_recoverRec_self {s : State} {m : MsgId} {r : PageRec} {e : Entry} (hr : s.rec? m = some r)
    (he : s.sub? r.sub = some e) : m ∈ (s.recoverRec m).queue e.home := by
  have hid : r.recovered.id = m := State.rec?_id (r := r) hr
  have hsub : ((s.unholdRec r).putRec r.recovered).sub? r.sub =
      some { e with held := e.held.filter (fun x => x != r.id) } :=
    (s.sub?_modSub _ _ _).trans (by rw [if_pos rfl, he]; rfl)
  obtain ⟨hhome, -⟩ := State.queue_fileRec _ (r := r.recovered) hsub
  rw [State.recoverRec_of_some hr]
  exact hhome.mem_iff.mpr (hid ▸ List.mem_cons_self ..)

/-! ### The recovery of a list of records -/

theorem State.hlc_foldl_recoverRec (l : List MsgId) (s : State) : (l.foldl State.recoverRec s).hlc = s.hlc := by
  induction l generalizing s with
  | nil => rfl
  | cons m l ih => rw [List.foldl_cons, ih, (s.recoverRec_frame m).1]

theorem State.rec?_foldl_recoverRec (l : List MsgId) {s : State} {x : MsgId} {q : PageRec} (hq : s.rec? x = some q) :
    (l.foldl State.recoverRec s).rec? x = some (if x ∈ l then q.recovered else q) := by
  induction l generalizing s q with
  | nil => exact hq
  | cons m l ih =>
    rw [List.foldl_cons, ih (State.rec?_recoverRec_of_some m hq)]
    by_cases hm : x = m <;> by_cases hl : x ∈ l <;> simp [hm, hl, PageRec.recovered_recovered]

theorem State.mem_queue_foldl_recoverRec (l : List MsgId) {s : State} {x : MsgId} {w : Window} (hx : x ∈ s.queue w) :
    x ∈ (l.foldl State.recoverRec s).queue w := by
  induction l generalizing s with
  | nil => exact hx
  | cons m l ih => exact ih (State.mem_queue_recoverRec hx m)

/-- Every record of the list that is the subscriber's joins the subscriber's window queue. -/
theorem State.mem_queue_foldl_recoverRec_of_mem (l : List MsgId) {s : State} {x : MsgId} {q : PageRec} {e : Entry}
    (hx : x ∈ l) (hq : s.rec? x = some q) (he : s.sub? q.sub = some e) :
    x ∈ (l.foldl State.recoverRec s).queue e.home := by
  induction l generalizing s q e with
  | nil => cases hx
  | cons m l ih =>
    rcases List.mem_cons.mp hx with rfl | hx
    · exact State.mem_queue_foldl_recoverRec l (State.mem_queue_recoverRec_self hq he)
    · obtain ⟨e', he', hhome⟩ := State.home_recoverRec he m
      rw [← hhome]
      refine ih hx (State.rec?_recoverRec_of_some m hq) ?_
      split <;> exact he'

/-- Records of one subscriber, recovered, leave that subscriber's held list. -/
theorem State.sub?_foldl_recoverRec (l : List MsgId) {s : State} {n : Nat} {e : Entry} (he : s.sub? n = some e)
    (hl : ∀ m ∈ l, ∃ r, s.rec? m = some r ∧ r.sub = n) :
    (l.foldl State.recoverRec s).sub? n = some { e with held := e.held.filter (fun x => x ∉ l) } := by
  induction l generalizing s e with
  | nil => simpa using he
  | cons m l ih =>
    obtain ⟨r, hr, hn⟩ := hl m (List.mem_cons_self ..)
    have hstep : (s.recoverRec m).sub? n = some { e with held := e.held.filter (fun x => x != m) } := by
      rw [State.sub?_recoverRec hr, if_pos hn.symm, hn, he]
      rfl
    have hrest : ∀ x ∈ l, ∃ q, (s.recoverRec m).rec? x = some q ∧ q.sub = n := by
      intro x hx
      obtain ⟨q, hq, hqn⟩ := hl x (List.mem_cons_of_mem _ hx)
      refine ⟨_, State.rec?_recoverRec_of_some m hq, ?_⟩
      split <;> exact hqn
    rw [List.foldl_cons, ih hstep hrest, List.filter_filter]
    refine congrArg (fun held => some { e with held := held }) (List.filter_congr fun x _ => ?_)
    by_cases hx : x = m <;> simp [hx]

/-! ### A report of a two-way subscriber taken (R108) -/

/-- An entry with the zone of a report last heard (R6). -/
def Entry.heardIn (e : Entry) (z : Zone) : Entry := { e with heard := some { zone := z, age := 0 } }

theorem State.sub?_heardFrom (s : State) (p : Report) (rest : List Report) (n : Nat) (e : Entry) (m : Nat) :
    (s.heardFrom p rest n e).sub? m = if m = n then some (e.heardIn p.zone) else s.sub? m :=
  State.sub?_setSub _ _ _ _

/-- The last-heard zone is set, and the report handled by its kind. -/
theorem exec_reportTake_of_reported {s : State} {p : Report} {rest : List Report} {n : Nat} {e : Entry}
    (h : s.Reported p rest n e) :
    exec .reportTake s = .next ((s.heardFrom p rest n e).byKind n (e.heardIn p.zone) p).settle := by
  obtain ⟨hreplies, hholder, hsub, hkind⟩ := h
  have htake : { s with rxi := { s.rxi with replies := rest } }.takeReport p =
      (s.heardFrom p rest n e).byKind n (e.heardIn p.zone) p := by
    unfold State.takeReport
    rw [show State.holderOf { s with rxi := { s.rxi with replies := rest } } p.addr = some n from hholder]
    dsimp only
    rw [show State.sub? { s with rxi := { s.rxi with replies := rest } } n = some e from hsub]
    show (match e.kind with
      | .oneWay => _
      | .twoWay => (s.heardFrom p rest n e).byKind n (e.heardIn p.zone) p) = _
    rw [hkind]
  show execReportTake s = _
  unfold execReportTake
  rw [hreplies]
  dsimp only
  rw [htake]
  rfl

/-- A FETCH, and a REGISTER under AUTO RECOVER, recover the held list. -/
theorem State.recoverAll_heardFrom (s : State) (p : Report) (rest : List Report) (n : Nat) (e : Entry) :
    (s.heardFrom p rest n e).recoverAll n = e.held.foldl State.recoverRec (s.heardFrom p rest n e) := by
  have hsub : (s.heardFrom p rest n e).sub? n = some (e.heardIn p.zone) := by rw [State.sub?_heardFrom, if_pos rfl]
  unfold State.recoverAll
  rw [hsub]
  rfl

theorem exec_reportTake_fetch {s : State} {p : Report} {rest : List Report} {n : Nat} {e : Entry}
    (h : s.Reported p rest n e) (hk : p.kind = .fetch) :
    exec .reportTake s = .next (e.held.foldl State.recoverRec (s.heardFrom p rest n e)).settle := by
  rw [exec_reportTake_of_reported h, ← State.recoverAll_heardFrom]
  simp only [State.byKind, hk]

theorem exec_reportTake_register {s : State} {p : Report} {rest : List Report} {n : Nat} {e : Entry}
    (h : s.Reported p rest n e) (hk : p.kind = .register) :
    exec .reportTake s = .next (if s.plans[e.plan].autoRecover = true then
      e.held.foldl State.recoverRec (s.heardFrom p rest n e) else s.heardFrom p rest n e).settle := by
  rw [exec_reportTake_of_reported h, ← State.recoverAll_heardFrom]
  simp only [State.byKind, hk]
  rfl

/-- The same report as a FETCH. -/
def Report.asFetch (p : Report) : Report := { p with kind := .fetch }

/-- A REGISTER under AUTO RECOVER does what a FETCH in its place does. -/
theorem exec_reportTake_register_eq_fetch {s : State} {p : Report} {rest : List Report} {n : Nat} {e : Entry}
    (h : s.Reported p rest n e) (hk : p.kind = .register) (ha : s.plans[e.plan].autoRecover = true) :
    exec .reportTake s = exec .reportTake { s with rxi := { s.rxi with replies := p.asFetch :: rest } } := by
  have ⟨_, hholder, hsub, hkind⟩ := h
  have hfetch : State.Reported { s with rxi := { s.rxi with replies := p.asFetch :: rest } } p.asFetch rest n e :=
    ⟨rfl, hholder, hsub, hkind⟩
  rw [exec_reportTake_register h hk, if_pos ha, exec_reportTake_fetch hfetch rfl]
  rfl

/-! ### Entries and records that agree, and the zone just heard -/

/-- A held list names HELD records of its subscriber, which have no tag (R7, R8, R29). -/
theorem State.Linked.held {s : State} (h : s.Linked) {n : Nat} {e : Entry} (he : s.sub? n = some e) {m : MsgId}
    (hm : m ∈ e.held) : ∃ r, s.rec? m = some r ∧ r.sub = n ∧ r.tag = none := by
  obtain ⟨⟨-, hwhole, -, -⟩, hplace, -, -, -, hlists⟩ := h
  obtain ⟨r, hr⟩ := Option.isSome_iff_exists.mp ((hlists n e he).2 m hm)
  have hlive := State.mem_live_of_rec? hr
  obtain ⟨hentry, -, -, -, -, htag⟩ := hwhole r hlive
  obtain ⟨e', he'⟩ := Option.isSome_iff_exists.mp hentry
  obtain ⟨-, -, -, hheld⟩ := hplace r hlive e' he'
  obtain ⟨hstate, hn⟩ := (hheld n e he).mp (State.rec?_id hr ▸ hm)
  exact ⟨r, hr, hn.symm, htag (.inr hstate)⟩

/-- The first attempt of a subscriber just heard goes to the zone heard, if that is in service (R76). -/
theorem reducedZones_heardIn (zoneMemory : Nat) {r : PageRec} (e : Entry) {z : Zone} {im : Image} (hc : r.count = 0)
    (hz : im.view[z].state = .inService) : reducedZones zoneMemory r (e.heardIn z) im = [z] := by
  have hserv : im.inService z = true := beq_iff_eq.mpr hz
  simp [reducedZones, attemptZones, Entry.heardIn, hc, hserv]

/-- Settles O50, from the report taken and from what recovery does to the records, the queues and the held list. -/
theorem fetchAndRegisterRecover : Obligations.FetchAndRegisterRecover := by
  unfold Obligations.FetchAndRegisterRecover
  intro s p rest n e h u
  have he : s.sub? n = some e := h.2.2.1
  have hu : u.sub? n = some (e.heardIn p.zone) := (s.sub?_heardFrom p rest n e n).trans (if_pos rfl)
  have hrec : ∀ m ∈ e.held, ∀ r, s.rec? m = some r →
      (e.held.foldl State.recoverRec u).rec? m = some r.recovered := fun m hm r hr =>
    (State.rec?_foldl_recoverRec e.held (s := u) hr).trans (by rw [if_pos hm])
  refine ⟨exec_reportTake_fetch h, ?nothingHeld, State.hlc_foldl_recoverRec _ _, hrec, ?queued, ?linked, ?zone,
    ?autoRecover, ?noRecover⟩
  case nothingHeld =>
    intro hk hnone
    rw [exec_reportTake_fetch h hk, hnone]
    rfl
  case queued =>
    intro m hm r hr hn
    exact State.mem_queue_foldl_recoverRec_of_mem e.held (s := u) (e := e.heardIn p.zone) hm hr (hn ▸ hu)
  case linked =>
    intro hlinked
    have hheld := fun m hm => hlinked.held he (m := m) hm
    constructor
    · intro m hm
      obtain ⟨r, hr, hn, htag⟩ := hheld m hm
      exact ⟨r, r.recovered, hr, hn, hrec m hm r hr, htag⟩
    · refine ⟨_, State.sub?_foldl_recoverRec e.held hu fun m hm => ?_, ?_⟩
      · obtain ⟨r, hr, hn, -⟩ := hheld m hm
        exact ⟨r, hr, hn⟩
      · exact List.filter_eq_nil_iff.mpr fun x (hx : x ∈ e.held) => by simp [hx]
  case zone =>
    intro r im hc hz x hx
    obtain rfl := Option.some.inj (hu.symm.trans hx)
    exact reducedZones_heardIn _ e hc hz
  case autoRecover =>
    intro hk ha
    exact ⟨exec_reportTake_register_eq_fetch h hk ha, by rw [exec_reportTake_register h hk, if_pos ha]⟩
  case noRecover =>
    intro hk ha
    refine ⟨?_, _, hu, rfl⟩
    rw [exec_reportTake_register h hk, if_neg (by rw [ha]; decide)]

end Sys2Proof.Machine
end

section
/-! The charge computation of RATE (R134): its steps and the bound each lies in, its two callers, and that
neither changes anything of RATE (O36). -/

namespace Sys2Proof.Machine

/-! ### The steps and their bounds (R134) -/

/-- The raw amount of a page (R134 step 1). -/
def Tariff.rawAmount (t : Tariff) (waived : Bool) (enc : Encoding) (b : Nat) : Nat :=
  (if waived then 0 else t.fee enc) + b * t.blockRate

/-- The factor of `z` zones, in hundredths (R134 step 2). -/
def Tariff.zoneFactor (t : Tariff) (z : Nat) : Nat := 100 + (z - 1) * t.zoneInc

/-- The raw amount times its three factors, before the one rounding (R134 step 3, R135). -/
def Tariff.product (t : Tariff) (waived : Bool) (enc : Encoding) (b z : Nat) (p : Priority) (c : Band) : Nat :=
  t.rawAmount waived enc b * t.zoneFactor z * t.priF[p] * t.bandF[c]

section
variable {t : Tariff} (waived : Bool) (enc : Encoding) {b z : Nat} (p : Priority) (c : Band)

theorem charge_eq_min (t : Tariff) (b z : Nat) :
    charge t waived enc b z p c = min ((t.product waived enc b z p c + 500000) / 1000000) t.cap := rfl

theorem Tariff.fee_le (h : t.Ranged) : t.fee enc ≤ 65535 := by
  obtain ⟨htone, hnum, halpha, -⟩ := h
  cases enc with
  | tone => exact htone
  | numeric => exact hnum
  | alpha => exact halpha

/-- The dearest page has the highest fee and 39 payload blocks at the highest rate. -/
theorem Tariff.rawAmount_le (h : t.Ranged) (hb : b ≤ 39) : t.rawAmount waived enc b ≤ 2621400 := by
  have hfee : (if waived then 0 else t.fee enc) ≤ 65535 := by
    split
    · exact Nat.zero_le _
    · exact t.fee_le enc h
  obtain ⟨-, -, -, hrate, -⟩ := h
  calc (if waived then 0 else t.fee enc) + b * t.blockRate
    _ ≤ 65535 + 39 * 65535 := Nat.add_le_add hfee (Nat.mul_le_mul hb hrate)

theorem Tariff.le_zoneFactor (t : Tariff) (z : Nat) : 100 ≤ t.zoneFactor z := Nat.le_add_right _ _

theorem Tariff.zoneFactor_le (h : t.Ranged) (hz : z ≤ 8) : t.zoneFactor z ≤ 800 := by
  obtain ⟨-, -, -, -, hinc, -⟩ := h
  calc 100 + (z - 1) * t.zoneInc
    _ ≤ 100 + 7 * 100 := Nat.add_le_add_left (Nat.mul_le_mul (by omega) hinc) 100

/-- The largest product of R135. -/
theorem Tariff.product_le (h : t.Ranged) (hb : b ≤ 39) (hz : z ≤ 8) :
    t.product waived enc b z p c ≤ 335539200000000 := by
  have hraw := t.rawAmount_le waived enc h hb
  have hzone := t.zoneFactor_le h hz
  obtain ⟨-, -, -, -, -, hpri, hband, -⟩ := h
  calc t.rawAmount waived enc b * t.zoneFactor z * t.priF[p] * t.bandF[c]
    _ ≤ 2621400 * 800 * 400 * 400 :=
      Nat.mul_le_mul (Nat.mul_le_mul (Nat.mul_le_mul hraw hzone) (hpri p).2) (hband c).2

/-- Rounding half up: the products that give `k` (R135). -/
theorem rounded_eq {product k : Nat} (hhi : product < 1000000 * k + 500000) (hlo : 1000000 * k ≤ product + 500000) :
    (product + 500000) / 1000000 = k := by omega

/-- A waived page without payload blocks has the raw amount 0, which rounds to 0 under every cap. -/
theorem charge_waived_no_blocks (t : Tariff) (z : Nat) : charge t true enc 0 z p c = 0 := by
  have hproduct : t.product true enc 0 z p c = 0 := by simp [Tariff.product, Tariff.rawAmount]
  rw [charge_eq_min, hproduct]
  exact Nat.zero_min _

end

/-! ### The callers (R136, R137) -/

theorem payloadBlocks_numeric (n : Nat) : payloadBlocks .numeric n = (n + 8) / 9 := rfl

theorem payloadBlocks_alpha (n : Nat) : payloadBlocks .alpha n = (7 * n + 35) / 36 := rfl

/-- The price of a first airing that is not late (R137). -/
theorem State.airingPrice_first (s : State) {r : PageRec} (e : Entry) (z : Nat) (h : r.late = false) :
    s.airingPrice r e .first z =
      let waived := decide (e.money.periodPages < (s.plan e.plan).included)
      { amount := charge s.rate.active waived r.enc (r.blocks - 1) z r.pri s.rate.band, waived := waived } :=
  if_neg (h ▸ Bool.false_ne_true)

/-! ### A SUBMIT leaves RATE (R136) -/

theorem State.allocate_rate (s : State) (r : PageRec) : (s.allocate r).rate = s.rate := rfl

theorem State.lineOff_rate (s : State) (rest : List CmdLine) : (s.lineOff rest).rate = s.rate := rfl

theorem exec_submit (s : State) : exec .submit s = takeLine .submit
    (fun tag fs u => carry tag (checkSubmit u fs) (applySubmit tag) u) s := rfl

theorem applySubmit_rate (tag : Nat) (a : SubmitArgs) (s : State) : (applySubmit tag a s).rate = s.rate := by
  unfold applySubmit
  split
  · rfl
  · simp [State.allocate_rate]

theorem exec_submit_rate {s t : State} (h : exec .submit s = .next t) : t.rate = s.rate := by
  rw [exec_submit] at h
  obtain rfl | ⟨l, rest, -, rfl⟩ := takeLine_next h
  · rfl
  · unfold carry
    split
    · exact applySubmit_rate _ _ (s.lineOff rest)
    · simp [State.lineOff_rate]

/-- Settles O36: the steps of R134 with their bounds, the two callers, and the frame of RATE. -/
theorem chargeComputation : Obligations.ChargeComputation := by
  unfold Obligations.ChargeComputation
  refine ⟨fun t waived enc b z p c ht hb _ hz => ?steps,
    fun n => ⟨rfl, payloadBlocks_numeric n, payloadBlocks_alpha n⟩, fun _ _ _ _ _ => rfl,
    fun s r e z hlate => ?firstAiring, fun s im r e => by simp, fun _ _ => exec_submit_rate⟩
  case steps =>
    intro fee raw factor product rounded
    have hraw : raw = t.rawAmount waived enc b := by cases enc <;> rfl
    have hproduct : product = t.product waived enc b z p c := by simp only [product, hraw]; rfl
    refine ⟨?capped, hraw ▸ t.rawAmount_le waived enc ht hb, t.le_zoneFactor z, t.zoneFactor_le ht hz,
      hproduct ▸ t.product_le waived enc p c ht hb hz, fun k => rounded_eq, ?waived⟩
    case capped =>
      rw [charge_eq_min, ← hproduct]
      exact Nat.min_def
    case waived =>
      rintro rfl rfl
      exact charge_waived_no_blocks enc p c t z
  case firstAiring => rw [State.airingPrice_first s e z hlate]

end Sys2Proof.Machine
end

section
/-! A command without fields taken (R169, R170), and OFFICE GET (R179): its data line of every setting, and its refusal
when a field is given (O12). -/

namespace Sys2Proof.Machine

/-! ### A command without fields (R169, R170) -/

/-- A command whose line is at the head is carried out on the state without that line. -/
theorem takeLine_of_heads {c : HostCommand} {s : State} {l : CmdLine} {rest : List CmdLine}
    (body : Nat → List RawField → State → State) (h : s.Heads c l rest) :
    takeLine c body s = .next (body l.tag l.fields (s.lineOff rest)).settle := by
  obtain ⟨hbuf, hcmd⟩ := h
  rw [takeLine_head s body hbuf hcmd]
  rfl

theorem carry_checkNoFields_nil (tag : Nat) (effect : Unit → State → State) (s : State) :
    carry tag (checkNoFields []) effect s = effect () s := rfl

/-- The first field given is the one at fault. -/
theorem carry_checkNoFields_cons (tag : Nat) (f : RawField) (fs : List RawField) (effect : Unit → State → State)
    (s : State) :
    carry tag (checkNoFields (f :: fs)) effect s =
      s.answer [.final tag (.refused .badField) [(str "FIELD", .word f.key)]] := rfl

theorem State.report_single (s : State) (tag : Nat) (line fields : List Field) :
    s.report tag [line] fields = s.answer [.data tag line, .final tag .ok fields] := rfl

/-! ### OFFICE GET (R179) -/

theorem exec_officeGet (s : State) : exec .officeGet s = takeLine .officeGet
    (fun tag fs u => carry tag (checkNoFields fs) (fun _ v => v.report tag [officeFields v.office] []) u) s := rfl

theorem exec_officeGet_of_no_fields {s : State} {l : CmdLine} {rest : List CmdLine} (h : s.Heads .officeGet l rest)
    (hf : l.fields = []) :
    exec .officeGet s =
      .next ((s.lineOff rest).answer [.data l.tag (officeFields s.office), .final l.tag .ok []]).settle := by
  rw [exec_officeGet, takeLine_of_heads _ h, hf, carry_checkNoFields_nil, State.report_single, State.lineOff_office]

theorem exec_officeGet_of_field {s : State} {l : CmdLine} {rest : List CmdLine} (h : s.Heads .officeGet l rest)
    {f : RawField} {fs : List RawField} (hf : l.fields = f :: fs) :
    exec .officeGet s = .next ((s.lineOff rest).answer
      [.final l.tag (.refused .badField) [(str "FIELD", .word f.key)]]).settle := by
  rw [exec_officeGet, takeLine_of_heads _ h, hf, carry_checkNoFields_cons]

/-- Settles O12: the line without fields and the line with one, where the data line is `officeFields` written out. -/
theorem officeGetAnswers : Obligations.OfficeGetAnswers := by
  unfold Obligations.OfficeGetAnswers
  intro s l rest h
  constructor
  case left =>
    intro hf
    rw [exec_officeGet_of_no_fields h hf, officeFields]
  case right =>
    intro f fs hf
    exact exec_officeGet_of_field h hf

end Sys2Proof.Machine
end

section
/-! What one step can do, said once: every row either changes nothing, is a cold start, carries out a command on the
state its line has left, or is an event of the controller; the step then ends with an idle line taking what waits. An
invariant follows from what each of these keeps (`step_keeps`). -/

namespace Sys2Proof.Machine

/-! ### Checks that come to a value -/

theorem Except.bind_eq_ok_iff {ε α β : Type} {x : Except ε α} {f : α → Except ε β} {b : β} :
    (x >>= f) = .ok b ↔ ∃ a, x = .ok a ∧ f a = .ok b := by
  cases x with
  | error e =>
    constructor
    · exact fun h => nomatch h
    · exact fun ⟨_, h, _⟩ => nomatch h
  | ok a =>
    constructor
    · exact fun h => ⟨a, rfl, h⟩
    · rintro ⟨_, h, h'⟩
      cases h
      exact h'

theorem refuseIf_eq_ok_iff {c : Bool} {code : Code} {u : Unit} : refuseIf c code = .ok u ↔ c = false := by
  cases c <;> simp [refuseIf]

theorem need_eq_ok_iff {α : Type} {v : Option α} {key : String} {a : α} : need v key = .ok a ↔ v = some a := by
  cases v <;> simp [need]

theorem presentEntry_eq_ok_iff {s : State} {n : Nat} {e : Entry} : presentEntry s n = .ok e ↔ s.sub? n = some e := by
  unfold presentEntry
  cases s.sub? n <;> simp

/-! ### What a command does -/

/-- What a taken command can do to the state its line has left. -/
inductive State.Effect (s : State) : State → Prop
  | denied (tag : Nat) (d : Denial) : s.Effect (s.deny tag d)
  | answered (lines : List OutLine) : s.Effect (s.answer lines)
  | subAdd (tag : Nat) {fs : List RawField} {a : SubAddArgs} (h : checkSubAdd s fs = .ok a) :
    s.Effect (applySubAdd tag a s)
  | subSet (tag : Nat) {fs : List RawField} {ae : SubSetArgs × Entry} (h : checkSubSet s fs = .ok ae) :
    s.Effect (applySubSet tag ae s)
  | subState (tag : Nat) (st : SubState) {fs : List RawField} {ne : Nat × Entry} (h : namedEntry s fs = .ok ne) :
    s.Effect (applyState tag st ne s)
  | subRemove (tag : Nat) {fs : List RawField} {ne : Nat × Entry} (h : checkSubRemove s fs = .ok ne) :
    s.Effect (applySubRemove tag ne s)
  | planSet (tag : Nat) {fs : List RawField} {p : PlanNo} (h : checkPlanSet fs = .ok p) :
    s.Effect (applyPlanSet tag fs p s)
  | submit (tag : Nat) {fs : List RawField} {a : SubmitArgs} (h : checkSubmit s fs = .ok a) :
    s.Effect (applySubmit tag a s)
  | cancel (tag : Nat) {fs : List RawField} {r : PageRec} (h : namedRecord s fs = .ok r) :
    s.Effect (applyCancel tag r s)
  | heldRelease (tag : Nat) {fs : List RawField} {ne : Nat × Entry} (h : namedEntry s fs = .ok ne) :
    s.Effect (applyHeldRelease tag ne s)
  | airStart (tag : Nat) {fs : List RawField} (h : checkAirStart s fs = .ok ()) : s.Effect (applyAirStart tag s)
  | airStop (tag : Nat) {fs : List RawField} (h : checkAirStop s fs = .ok ()) : s.Effect (applyAirStop tag s)
  | zoneSet (tag : Nat) {fs : List RawField} {z : Zone} (h : checkZoneSet fs = .ok z) :
    s.Effect (applyZoneSet tag fs z s)
  | zoneGet (tag : Nat) (fs : List RawField) : s.Effect (applyZoneGet tag fs s)
  | tariffLoad (tag : Nat) {fs : List RawField} {a : Activation} (h : checkTariffLoad fs = .ok a) :
    s.Effect (applyTariffLoad tag fs a s)
  | bandSet (tag : Nat) (b : Band) : s.Effect (applyBandSet tag b s)
  | money (tag : Nat) {read : Text → Option Int} {k : JournalKind} {fs : List RawField} {a : MoneyArgs}
    (hk : k = .credit ∨ k = .adjust) (h : checkMoney read s fs = .ok a) : s.Effect (applyMoney k tag a s)
  | billRead (tag count : Nat) : s.Effect (applyBillRead tag count s)
  | billRewind (tag : Nat) {fs : List RawField} {r : Rewind} (h : checkBillRewind s fs = .ok r) :
    s.Effect (applyBillRewind tag r s)
  | periodClose (tag : Nat) {fs : List RawField} {ne : Nat × Entry} (h : checkPeriodClose s fs = .ok ne) :
    s.Effect (applyPeriodClose tag ne s)
  | periodCloseAll (tag : Nat) : s.Effect (applyPeriodCloseAll tag s)
  | noticeLevels (tag : Nat) (fs : List RawField) : s.Effect (applyLevels tag fs s)
  | status (tag : Nat) (fs : List RawField) : s.Effect (applyStatus tag fs s)
  | officeSet (tag : Nat) {fs : List RawField} (h : checkOfficeSet s fs = .ok ()) : s.Effect (applyOfficeSet tag fs s)
  | restart (tag : Nat) {fs : List RawField} (h : checkRestart s fs = .ok ()) : s.Effect (applyRestart tag s)

/-- Checks are followed by the effect of what they come to, or by the refusal. -/
theorem carry_effect {α : Type} {s : State} {tag : Nat} {checks : Except Denial α} {effect : α → State → State}
    (h : ∀ a, checks = .ok a → s.Effect (effect a s)) : s.Effect (carry tag checks effect s) := by
  cases hc : checks with
  | ok a => exact h a hc
  | error d => exact .denied tag d

/-! ### What an event does -/

/-- What a row that is no host command can do. -/
inductive State.Event (s : State) : State → Prop
  | offered (l : CmdLine) : s.Event { s with hlc := s.hlc.offer l }
  | badLine : s.Event { s with hlc := { s.hlc with badLine := riseTo Config.counterTop s.hlc.badLine } }
  | lineSent : s.Event { s with hlc := { s.hlc with sending := none } }
  | received (link : LinkNo) (bytes : List Byte) : s.Event (bytes.foldl (State.rxByte link) s)
  | reportTaken {p : Report} {rest : List Report} (h : s.rxi.replies = p :: rest) :
    s.Event ({ s with rxi := { s.rxi with replies := rest } }.takeReport p)
  | strobe (good : Bool) : s.Event (s.countStrobe good)
  | leadInEnd (h : s.aclk.air = .starting) : s.Event { s with aclk := { s.aclk with air := .running } }.startOrHold
  | windowBoundary (h : s.aclk.air = .running) (hh : s.aclk.holding = .none_) :
    s.Event { s with aclk := s.aclk.advance }.startOrHold
  | heldWindowStart (h : s.aclk.air = .running) (hh : s.aclk.holding = .windowStart) (hr : s.windowReady = true) :
    s.Event s.windowStart
  | windowEndHeld (h : s.aclk.air = .stopping) (hh : s.aclk.holding = .none_) (ha : s.airingUnderWay = true) :
    s.Event { s with aclk := { s.aclk with holding := .windowEnd } }
  | windowEnd (h : s.aclk.air = .stopping) (hh : s.aclk.holding = .none_) (ha : s.airingUnderWay = false) :
    s.Event { s with aclk := s.aclk.advance }.arriveStopped
  | walked {b : Build} {r : PageRec} (hb : s.wsch.build = some b) (he : b.ended = false)
    (hr : s.nextOfWalk b = some r) : s.Event (s.walk b r)
  | buildEnded {b : Build} (hb : s.wsch.build = some b) (he : b.ended = false) (hr : s.nextOfWalk b = none) :
    s.Event (s.endBuild b)
  | aired {im : Image} {m : MsgId} {rest : List MsgId} (h : s.wsch.onAir = some { image := im, toAir := m :: rest }) :
    s.Event ({ s with wsch := { s.wsch with onAir := some { image := im, toAir := rest } } }.airOne im m).afterAiring
  | waitExpired {r : PageRec}
    (h : (s.rmat.awaiting.filterMap s.rec?).find? (fun r => r.state == .awaiting && ranOut r.replyWait) = some r) :
    s.Event (s.expire r)
  | holdEnded {m : MsgId} {r : PageRec} (h : s.rec? m = some r) (hs : r.state = .held) (hw : ranOut r.holdWait = true) :
    s.Event (s.freeRec r .expired)
  | readWaitEnded {r : PageRec}
    (h : (s.rmat.awaiting.filterMap s.rec?).find? (fun r => r.state == .delivered && ranOut r.readWait) = some r) :
    s.Event (s.freeRec r .deliveredDone)
  | visited {w : Sweep} (h : s.acct.sweep = some w) : s.Event (s.visit w)

/-! ### What a row does -/

/-- Where a row leaves the state. -/
def State.Moved (s t : State) : Prop :=
  t = s ∨ t = { State.reset with pending := s.pending } ∨
    (∃ l rest u, s.hlc.buffer = l :: rest ∧ (s.lineOff rest).Effect u ∧ t = u.settle) ∨ ∃ u, s.Event u ∧ t = u.settle

theorem State.moved_self (s : State) : s.Moved s := .inl rfl

theorem State.Event.moved {s u : State} (h : s.Event u) : s.Moved u.settle := .inr (.inr (.inr ⟨u, h, rfl⟩))

/-- Whatever a row comes to, the property holds of it: no row ends otherwise than in a next state. -/
def EndsIn (p : State → Prop) : Host.Outcome State Fault Refusal → Prop
  | .next t => p t
  | _ => False

theorem takeLine_moved {c : HostCommand} {body : Nat → List RawField → State → State} {s : State}
    (h : ∀ tag fs (v : State), v.Effect (body tag fs v)) : EndsIn s.Moved (takeLine c body s) := by
  unfold takeLine
  split
  · next l rest hb =>
    split
    · exact .inr (.inr (.inl ⟨l, rest, _, hb, h _ _ _, rfl⟩))
    · exact s.moved_self
  · exact s.moved_self

/-- The row of a command whose checks are followed by an effect. -/
theorem takeLine_carry_moved {α : Type} {c : HostCommand} {checks : State → List RawField → Except Denial α}
    {effect : Nat → List RawField → α → State → State} {s : State}
    (h : ∀ tag fs (v : State) a, checks v fs = .ok a → v.Effect (effect tag fs a v)) :
    EndsIn s.Moved (takeLine c (fun tag fs v => carry tag (checks v fs) (effect tag fs) v) s) :=
  takeLine_moved fun tag fs v => carry_effect (h tag fs v)

theorem State.effect_report (s : State) (tag : Nat) (lines : List (List Field)) (fields : List Field) :
    s.Effect (s.report tag lines fields) := .answered _

theorem exec_badCommand_moved (s : State) : EndsIn s.Moved (execBadCommand s) := by
  unfold execBadCommand
  split
  · next l rest hb =>
    split
    · exact .inr (.inr (.inl ⟨l, rest, _, hb, .answered _, rfl⟩))
    · exact s.moved_self
  · exact s.moved_self

/-- The rows of the host line and of the receiver links. -/
theorem exec_lines_moved (s : State) :
    (∀ chars, EndsIn s.Moved (execCommandLine chars s)) ∧ EndsIn s.Moved (execLineSent s) ∧
      (∀ link bytes, EndsIn s.Moved (execReplyReportFrame link bytes s)) ∧
      (∀ link byte, EndsIn s.Moved (execStartMarker link byte s)) ∧ EndsIn s.Moved (execReportTake s) := by
  refine ⟨fun chars => ?line, ?sent, fun link bytes => (State.Event.received link bytes).moved,
    fun link byte => ?marker, ?taken⟩
  case line =>
    unfold execCommandLine
    split
    · exact (State.Event.offered _).moved
    · exact State.Event.badLine.moved
  case sent =>
    unfold execLineSent
    split
    · exact State.Event.lineSent.moved
    · exact s.moved_self
  case marker =>
    unfold execStartMarker
    split
    · exact (State.Event.received link [byte]).moved
    · exact s.moved_self
  case taken =>
    unfold execReportTake
    split
    · next h => exact (State.Event.reportTaken h).moved
    · exact s.moved_self

/-- The rows of the air clock. -/
theorem exec_clock_moved (s : State) :
    EndsIn s.Moved (execLeadInEnd s) ∧ EndsIn s.Moved (execWindowBoundary s) ∧
      EndsIn s.Moved (execHeldWindowStart s) ∧ EndsIn s.Moved (execStoppingWindowEnd s) := by
  refine ⟨?leadIn, ?boundary, ?held, ?stopping⟩
  case leadIn =>
    unfold execLeadInEnd
    split
    · next h => exact (State.Event.leadInEnd h).moved
    all_goals exact s.moved_self
  case boundary =>
    unfold execWindowBoundary
    split
    · next h => exact (State.Event.windowBoundary h.1 h.2).moved
    · exact s.moved_self
  case held =>
    unfold execHeldWindowStart
    split
    · next h => exact (State.Event.heldWindowStart h.1 h.2.1 h.2.2).moved
    · exact s.moved_self
  case stopping =>
    unfold execStoppingWindowEnd
    split
    · next h =>
      split
      · next ha => exact (State.Event.windowEndHeld h.1 h.2 ha).moved
      · next ha => exact (State.Event.windowEnd h.1 h.2 (Bool.eq_false_iff.mpr ha)).moved
    · exact s.moved_self

/-- The rows of a build. -/
theorem exec_build_moved (s : State) : EndsIn s.Moved (execWalkRecord s) ∧ EndsIn s.Moved (execBuildEnd s) := by
  constructor
  case left =>
    unfold execWalkRecord
    split
    · exact s.moved_self
    · next b hb =>
      split
      · exact s.moved_self
      · next he =>
        split
        · next r hr => exact (State.Event.walked hb (Bool.eq_false_iff.mpr he) hr).moved
        · exact s.moved_self
  case right =>
    unfold execBuildEnd
    split
    · exact s.moved_self
    · next b hb =>
      split
      · exact s.moved_self
      · next he =>
        split
        · exact s.moved_self
        · next hr => exact (State.Event.buildEnded hb (Bool.eq_false_iff.mpr he) hr).moved

/-- The rows that move aired records on, and the visits of the sweep. -/
theorem exec_records_moved (s : State) :
    EndsIn s.Moved (execAiringRecord s) ∧ EndsIn s.Moved (execReplyWaitExpiry s) ∧
      (∀ msg, EndsIn s.Moved (execHoldEnd msg s)) ∧ EndsIn s.Moved (execReadWaitEnd s) ∧
      EndsIn s.Moved (execSweepVisit s) := by
  refine ⟨?airing, ?expiry, fun msg => ?hold, ?readWait, ?sweep⟩
  case airing =>
    unfold execAiringRecord
    split
    · next h => exact (State.Event.aired h).moved
    all_goals exact s.moved_self
  case expiry =>
    unfold execReplyWaitExpiry
    split
    · next h => exact (State.Event.waitExpired h).moved
    · exact s.moved_self
  case hold =>
    unfold execHoldEnd
    split
    · next h =>
      split
      · next hw => exact (State.Event.holdEnded h hw.1 hw.2).moved
      · exact s.moved_self
    · exact s.moved_self
  case readWait =>
    unfold execReadWaitEnd
    split
    · next h => exact (State.Event.readWaitEnded h).moved
    · exact s.moved_self
  case sweep =>
    unfold execSweepVisit
    split
    · next h => exact (State.Event.visited h).moved
    · exact s.moved_self

/-- Every row moves the state in one of the ways listed. -/
theorem exec_moved (i : Instr) (s : State) : EndsIn s.Moved (exec i s) := by
  cases i with
  | coldStart => exact .inr (.inl rfl)
  | commandLine chars => exact (exec_lines_moved s).1 chars
  | lineSent => exact (exec_lines_moved s).2.1
  | badCommand => exact exec_badCommand_moved s
  | subAdd =>
    change EndsIn s.Moved (execSubAdd s)
    exact takeLine_carry_moved fun tag _ _ _ h => .subAdd tag h
  | subSet =>
    change EndsIn s.Moved (execSubSet s)
    exact takeLine_carry_moved fun tag _ _ _ h => .subSet tag h
  | subGet =>
    change EndsIn s.Moved (execSubGet s)
    exact takeLine_carry_moved fun _ _ v _ _ => v.effect_report _ _ _
  | subSuspend =>
    change EndsIn s.Moved (execSubSuspend s)
    exact takeLine_carry_moved fun tag _ _ _ h => .subState tag _ h
  | subResume =>
    change EndsIn s.Moved (execSubResume s)
    exact takeLine_carry_moved fun tag _ _ _ h => .subState tag _ h
  | subRemove =>
    change EndsIn s.Moved (execSubRemove s)
    exact takeLine_carry_moved fun tag _ _ _ h => .subRemove tag h
  | planSet =>
    change EndsIn s.Moved (execPlanSet s)
    exact takeLine_carry_moved fun tag _ _ _ h => .planSet tag h
  | planGet =>
    change EndsIn s.Moved (execPlanGet s)
    exact takeLine_carry_moved fun _ _ v _ _ => v.effect_report _ _ _
  | submit =>
    change EndsIn s.Moved (execSubmit s)
    exact takeLine_carry_moved fun tag _ _ _ h => .submit tag h
  | cancel =>
    change EndsIn s.Moved (execCancel s)
    exact takeLine_carry_moved fun tag _ _ _ h => .cancel tag h
  | pageGet =>
    change EndsIn s.Moved (execPageGet s)
    exact takeLine_carry_moved fun _ _ v _ _ => v.effect_report _ _ _
  | heldList =>
    change EndsIn s.Moved (execHeldList s)
    exact takeLine_carry_moved fun _ _ v _ _ => v.effect_report _ _ _
  | heldRelease =>
    change EndsIn s.Moved (execHeldRelease s)
    exact takeLine_carry_moved fun tag _ _ _ h => .heldRelease tag h
  | airStart =>
    change EndsIn s.Moved (execAirStart s)
    exact takeLine_carry_moved fun tag _ _ _ h => .airStart tag h
  | airStop =>
    change EndsIn s.Moved (execAirStop s)
    exact takeLine_carry_moved fun tag _ _ _ h => .airStop tag h
  | zoneSet =>
    change EndsIn s.Moved (execZoneSet s)
    exact takeLine_carry_moved fun tag _ _ _ h => .zoneSet tag h
  | zoneGet =>
    change EndsIn s.Moved (execZoneGet s)
    exact takeLine_carry_moved fun tag fs _ _ _ => .zoneGet tag fs
  | tariffLoad =>
    change EndsIn s.Moved (execTariffLoad s)
    exact takeLine_carry_moved fun tag _ _ _ h => .tariffLoad tag h
  | bandSet =>
    change EndsIn s.Moved (execBandSet s)
    exact takeLine_carry_moved fun tag _ _ b _ => .bandSet tag b
  | tariffGet =>
    change EndsIn s.Moved (execTariffGet s)
    exact takeLine_carry_moved fun _ _ v _ _ => v.effect_report _ _ _
  | credit =>
    change EndsIn s.Moved (execCredit s)
    exact takeLine_carry_moved fun tag _ _ _ h => .money tag (.inl rfl) h
  | adjust =>
    change EndsIn s.Moved (execAdjust s)
    exact takeLine_carry_moved fun tag _ _ _ h => .money tag (.inr rfl) h
  | billRead =>
    change EndsIn s.Moved (execBillRead s)
    exact takeLine_carry_moved fun tag _ _ _ _ => .billRead tag _
  | billRewind =>
    change EndsIn s.Moved (execBillRewind s)
    exact takeLine_carry_moved fun tag _ _ _ h => .billRewind tag h
  | periodClose =>
    change EndsIn s.Moved (execPeriodClose s)
    exact takeLine_carry_moved fun tag _ _ _ h => .periodClose tag h
  | periodCloseAll =>
    change EndsIn s.Moved (execPeriodCloseAll s)
    exact takeLine_carry_moved fun tag _ _ _ _ => .periodCloseAll tag
  | noticeLevels =>
    change EndsIn s.Moved (execNoticeLevels s)
    exact takeLine_carry_moved fun tag fs _ _ _ => .noticeLevels tag fs
  | status =>
    change EndsIn s.Moved (execStatus s)
    exact takeLine_carry_moved fun tag fs _ _ _ => .status tag fs
  | officeSet =>
    change EndsIn s.Moved (execOfficeSet s)
    exact takeLine_carry_moved fun tag _ _ _ h => .officeSet tag h
  | officeGet =>
    change EndsIn s.Moved (execOfficeGet s)
    exact takeLine_carry_moved fun _ _ v _ _ => v.effect_report _ _ _
  | restart =>
    change EndsIn s.Moved (execRestart s)
    exact takeLine_carry_moved fun tag _ _ _ h => .restart tag h
  | replyReportFrame link bytes => exact (exec_lines_moved s).2.2.1 link bytes
  | reportTake => exact (exec_lines_moved s).2.2.2.2
  | strobe good => exact (State.Event.strobe good).moved
  | missingStrobe => exact (State.Event.strobe false).moved
  | leadInEnd => exact (exec_clock_moved s).1
  | windowBoundary => exact (exec_clock_moved s).2.1
  | heldWindowStart => exact (exec_clock_moved s).2.2.1
  | stoppingWindowEnd => exact (exec_clock_moved s).2.2.2
  | walkRecord => exact (exec_build_moved s).1
  | buildEnd => exact (exec_build_moved s).2
  | airingRecord => exact (exec_records_moved s).1
  | replyWaitExpiry => exact (exec_records_moved s).2.1
  | holdEnd msg => exact (exec_records_moved s).2.2.1 msg
  | readWaitEnd => exact (exec_records_moved s).2.2.2.1
  | sweepVisit => exact (exec_records_moved s).2.2.2.2
  | startMarker link byte => exact (exec_lines_moved s).2.2.2.1 link byte

/-- What holds before a step gives what holds after it, when each thing a step can do takes the one to the other. -/
theorem step_keeps {P Q : State → Prop} {s t : State} (h : step s = .next t) (hs : P s)
    (hpending : ∀ (v : State) (p : List Instr), P v → P { v with pending := p }) (hself : ∀ v : State, P v → Q v)
    (hcold : ∀ p : List Instr, Q { State.reset with pending := p })
    (hline : ∀ (v : State) (l : CmdLine) (rest : List CmdLine), v.hlc.buffer = l :: rest → P v → P (v.lineOff rest))
    (heffect : ∀ v u : State, P v → v.Effect u → Q u) (hevent : ∀ v u : State, P v → v.Event u → Q u)
    (hsettle : ∀ v : State, Q v → Q v.settle) : Q t := by
  unfold step at h
  split at h
  · next c rest _ =>
    have hv := hpending s rest hs
    have hm := exec_moved c { s with pending := rest }
    rw [h] at hm
    rcases hm with rfl | rfl | ⟨l, lines, u, hb, he, rfl⟩ | ⟨u, he, rfl⟩
    · exact hself _ hv
    · exact hcold _
    · exact hsettle _ (heffect _ _ (hline _ l lines hb hv) he)
    · exact hsettle _ (hevent _ _ hv he)
  · cases h
    exact hself _ hs

end Sys2Proof.Machine
end

section
/-! The images each air state has (R58, R71, R95): what leaves the images alone, what the events of the air clock make of
them, and that every step keeps them as the air state has them (O60). -/

namespace Sys2Proof.Machine

variable (s : State)

/-! ### What leaves the image under build and the image on air alone -/

@[simp] theorem State.recoverRec_images (m : MsgId) :
    (s.recoverRec m).wsch.build = s.wsch.build ∧ (s.recoverRec m).wsch.onAir = s.wsch.onAir := by
  unfold State.recoverRec
  split <;> simp

@[simp] theorem State.recoverAll_images (n : Nat) :
    (s.recoverAll n).wsch.build = s.wsch.build ∧ (s.recoverAll n).wsch.onAir = s.wsch.onAir := by
  unfold State.recoverAll
  split
  · next e he =>
    clear he
    induction e.held generalizing s with
    | nil => simp
    | cons m l ih => simpa using ih (s.recoverRec m)
  · simp

@[simp] theorem State.deliverOut_images (r : PageRec) (p : Report) :
    (s.deliverOut r p).wsch.build = s.wsch.build ∧ (s.deliverOut r p).wsch.onAir = s.wsch.onAir := by
  unfold State.deliverOut
  by_cases hs : r.state = .retryWait <;> by_cases hw : r.terms.readWait = 0 <;> simp [hs, hw, State.freeRec_images]

@[simp] theorem State.readRec_images (r : PageRec) :
    (s.readRec r).wsch.build = s.wsch.build ∧ (s.readRec r).wsch.onAir = s.wsch.onAir := by
  unfold State.readRec
  split
  · simp
  · next e _ => by_cases hf : (s.plan e.plan).receiptFee = 0 <;> simp [hf, State.freeRec_images]

@[simp] theorem State.deliverRead_images (r : PageRec) (p : Report) :
    (s.deliverRead r p).wsch.build = s.wsch.build ∧ (s.deliverRead r p).wsch.onAir = s.wsch.onAir := by
  unfold State.deliverRead
  by_cases hs : r.state = .retryWait <;> simp [hs]

@[simp] theorem State.heard_images (n : Nat) (p : Report) :
    (s.heard n p).wsch.build = s.wsch.build ∧ (s.heard n p).wsch.onAir = s.wsch.onAir := by
  unfold State.heard
  split
  · simp
  · next r _ =>
    cases r.state with
    | awaiting => by_cases hc : r.cancelled = true <;> simp [hc, State.freeRec_images]
    | _ => simp

@[simp] theorem State.readReport_images (n : Nat) (p : Report) :
    (s.readReport n p).wsch.build = s.wsch.build ∧ (s.readReport n p).wsch.onAir = s.wsch.onAir := by
  unfold State.readReport
  split
  · simp
  · next r _ =>
    cases r.state with
    | awaiting => by_cases hc : r.cancelled = true <;> simp [hc, State.freeRec_images]
    | delivered => by_cases ha : r.id ∈ s.rmat.awaiting <;> simp [ha]
    | _ => simp

@[simp] theorem State.byKind_images (n : Nat) (e : Entry) (p : Report) :
    (s.byKind n e p).wsch.build = s.wsch.build ∧ (s.byKind n e p).wsch.onAir = s.wsch.onAir := by
  unfold State.byKind
  cases p.kind with
  | register => by_cases ha : (s.plan e.plan).autoRecover = true <;> simp [ha]
  | _ => simp

@[simp] theorem State.takeReport_images (p : Report) :
    (s.takeReport p).wsch.build = s.wsch.build ∧ (s.takeReport p).wsch.onAir = s.wsch.onAir := by
  unfold State.takeReport
  (repeat' split) <;> simp

@[simp] theorem State.expire_images (r : PageRec) :
    (s.expire r).wsch.build = s.wsch.build ∧ (s.expire r).wsch.onAir = s.wsch.onAir := by
  unfold State.expire State.retry
  (repeat' split) <;> simp [State.freeRec_images]

@[simp] theorem State.airMove_images (r : PageRec) (e : Entry) :
    (s.airMove r e).wsch.build = s.wsch.build ∧ (s.airMove r e).wsch.onAir = s.wsch.onAir := by
  unfold State.airMove
  simp only
  (repeat' split) <;> simp [State.freeRec_images]

@[simp] theorem State.airOne_images (im : Image) (m : MsgId) :
    (s.airOne im m).wsch.build = s.wsch.build ∧ (s.airOne im m).wsch.onAir = s.wsch.onAir := by
  unfold State.airOne
  (repeat' split) <;> simp

@[simp] theorem State.unlock_images :
    s.unlock.wsch.build = s.wsch.build ∧ s.unlock.wsch.onAir = s.wsch.onAir := by
  unfold State.unlock State.raiseLock
  simp only
  split <;> exact ⟨rfl, rfl⟩

@[simp] theorem State.goodGroup_wsch : s.goodGroup.wsch = s.wsch := by
  unfold State.goodGroup State.raiseLock
  (repeat' split) <;> rfl

@[simp] theorem State.countStrobe_images (good : Bool) :
    (s.countStrobe good).wsch.build = s.wsch.build ∧ (s.countStrobe good).wsch.onAir = s.wsch.onAir := by
  unfold State.countStrobe
  simp only
  (repeat' split) <;> simp

@[simp] theorem State.restartDetector_images :
    s.restartDetector.wsch.build = s.wsch.build ∧ s.restartDetector.wsch.onAir = s.wsch.onAir := by
  unfold State.restartDetector
  simp

/-- The strobes change nothing of the clock but the detector and its group. -/
theorem State.unlock_air : s.unlock.aclk.air = s.aclk.air ∧ s.unlock.aclk.holding = s.aclk.holding := by
  unfold State.unlock State.raiseLock
  simp only
  split <;> exact ⟨rfl, rfl⟩

theorem State.goodGroup_air : s.goodGroup.aclk.air = s.aclk.air ∧ s.goodGroup.aclk.holding = s.aclk.holding := by
  unfold State.goodGroup State.raiseLock
  (repeat' split) <;> exact ⟨rfl, rfl⟩

theorem State.countStrobe_air (good : Bool) :
    (s.countStrobe good).aclk.air = s.aclk.air ∧ (s.countStrobe good).aclk.holding = s.aclk.holding := by
  unfold State.countStrobe
  simp only
  (repeat' split) <;> simp [State.unlock_air, State.goodGroup_air]

theorem State.rxByte_frame (l : LinkNo) (b : Byte) :
    (State.rxByte l s b).subs = s.subs ∧ (State.rxByte l s b).plans = s.plans ∧ (State.rxByte l s b).store = s.store ∧
    (State.rxByte l s b).aclk = s.aclk ∧ (State.rxByte l s b).wsch = s.wsch ∧ (State.rxByte l s b).txi = s.txi ∧
    (State.rxByte l s b).rmat = s.rmat ∧ (State.rxByte l s b).rate = s.rate ∧ (State.rxByte l s b).acct = s.acct ∧
    (State.rxByte l s b).office = s.office ∧ (State.rxByte l s b).fresh = s.fresh ∧
    (State.rxByte l s b).pending = s.pending := by
  unfold State.rxByte
  (repeat' split) <;> simp

/-- It changes at most: rxi, hlc. -/
theorem State.received_frame (l : LinkNo) (bytes : List Byte) :
    (bytes.foldl (State.rxByte l) s).subs = s.subs ∧ (bytes.foldl (State.rxByte l) s).plans = s.plans ∧
    (bytes.foldl (State.rxByte l) s).store = s.store ∧ (bytes.foldl (State.rxByte l) s).aclk = s.aclk ∧
    (bytes.foldl (State.rxByte l) s).wsch = s.wsch ∧ (bytes.foldl (State.rxByte l) s).txi = s.txi ∧
    (bytes.foldl (State.rxByte l) s).rmat = s.rmat ∧ (bytes.foldl (State.rxByte l) s).rate = s.rate ∧
    (bytes.foldl (State.rxByte l) s).acct = s.acct ∧ (bytes.foldl (State.rxByte l) s).office = s.office ∧
    (bytes.foldl (State.rxByte l) s).fresh = s.fresh ∧ (bytes.foldl (State.rxByte l) s).pending = s.pending := by
  induction bytes generalizing s with
  | nil => simp
  | cons b bs ih => simpa [State.rxByte_frame] using ih (State.rxByte l s b)

/-! ### The part the images of an air state are judged on -/

variable {s} {t : State}

/-- The parts of a state that `State.AirShape` reads, as the orders of STOPPED are none. -/
def State.SameAir (s t : State) : Prop :=
  t.aclk.air = s.aclk.air ∧ t.aclk.holding = s.aclk.holding ∧ t.wsch.build = s.wsch.build ∧
    t.wsch.onAir = s.wsch.onAir ∧ ∀ z : Zone, t.txi[z].next = s.txi[z].next ∧ t.txi[z].current = s.txi[z].current

theorem State.AirShape.congr (h : s.AirShape) (hst : s.SameAir t) : t.AirShape := by
  obtain ⟨hair, hhold, hbuild, honAir, horders⟩ := hst
  unfold State.AirShape at h ⊢
  rw [hair, hhold, hbuild, honAir]
  cases hs : s.aclk.air with
  | stopped =>
    rw [hs] at h
    obtain ⟨hb, ho, hh, hz⟩ := h
    exact ⟨hb, ho, hh, fun z => by rw [(horders z).1, (horders z).2]; exact hz z⟩
  | starting | running | stopping => rwa [hs] at h

/-- The clock and the zones stand, and so do the two images. -/
theorem State.sameAir_of (ha : t.aclk = s.aclk) (hb : t.wsch.build = s.wsch.build) (ho : t.wsch.onAir = s.wsch.onAir)
    (hx : t.txi = s.txi) : s.SameAir t := by
  unfold State.SameAir
  rw [ha, hb, ho, hx]
  exact ⟨rfl, rfl, rfl, rfl, fun z => ⟨rfl, rfl⟩⟩

theorem State.SameAir.trans {u : State} (h : s.SameAir t) (g : t.SameAir u) : s.SameAir u := by
  obtain ⟨h1, h2, h3, h4, h5⟩ := h
  obtain ⟨g1, g2, g3, g4, g5⟩ := g
  exact ⟨g1.trans h1, g2.trans h2, g3.trans h3, g4.trans h4,
    fun z => ⟨(g5 z).1.trans (h5 z).1, (g5 z).2.trans (h5 z).2⟩⟩

/-- A change of a zone's settings or counts. -/
theorem State.sameAir_modZone (s : State) (z : Zone) {f : ZoneCell → ZoneCell}
    (hf : ∀ c, (f c).next = c.next ∧ (f c).current = c.current) : s.SameAir (s.modZone z f) := by
  refine ⟨rfl, rfl, rfl, rfl, fun x => ?_⟩
  show (s.txi.set z (f s.txi[z]))[x].next = _ ∧ (s.txi.set z (f s.txi[z]))[x].current = _
  rw [Fin.getElem_fin, Vector.getElem_set]
  split
  · next h => obtain rfl := Fin.ext h; exact hf _
  · exact ⟨rfl, rfl⟩

/-! ### What the clock makes of them -/

theorem State.arriveStopped_airShape (h : s.wsch.build = none) : s.arriveStopped.AirShape := by
  refine ⟨h, rfl, rfl, fun z => ?_⟩
  simp [State.arriveStopped]

theorem State.withdrawImage_images :
    s.withdrawImage.wsch.build = none ∧ s.withdrawImage.wsch.onAir = s.wsch.onAir := by
  unfold State.withdrawImage
  split
  · next h => exact ⟨h, rfl⟩
  · exact ⟨rfl, (State.foldl_withdrawRec_images _ _).2⟩

/-- A build is on: the air is not STOPPED, nor STOPPING. -/
theorem State.AirShape.building (h : s.AirShape) {b : Build} (hb : s.wsch.build = some b) :
    s.aclk.air = .starting ∨ s.aclk.air = .running := by
  unfold State.AirShape at h
  cases hs : s.aclk.air with
  | stopped => simp [hs, hb] at h
  | starting => exact .inl rfl
  | running => exact .inr rfl
  | stopping => simp [hs, hb] at h

/-- The build goes on: the orders may change as well. -/
theorem State.AirShape.built (h : s.AirShape) {b b' : Build} (hb : s.wsch.build = some b) (ha : t.aclk = s.aclk)
    (hb' : t.wsch.build = some b') (ho : t.wsch.onAir = s.wsch.onAir) : t.AirShape := by
  rcases h.building hb with hs | hs <;>
  · unfold State.AirShape at h ⊢
    rw [hs] at h
    rw [ha, hs, hb', ho]
    rw [hb] at h
    exact h

/-- Where a window-start event leaves the images: the build that had ended is on air, and the next one begins. -/
theorem State.windowStart_shape (hs : s.aclk.air = .running) (hb : s.wsch.build.isSome = true) : s.windowStart.AirShape := by
  obtain ⟨b, hb⟩ := Option.isSome_iff_exists.mp hb
  have key : s.windowStart.aclk.air = .running ∧ s.windowStart.aclk.holding = .none_ ∧
      s.windowStart.wsch.build.isSome = true ∧ s.windowStart.wsch.onAir.isSome = true := by
    unfold State.windowStart
    by_cases hw : s.aclk.window = 0 <;> simp [hw, hs, hb, State.beginBuild, Wsch.putOnAir]
  obtain ⟨h1, h2, h3, h4⟩ := key
  unfold State.AirShape
  rw [h1]
  exact ⟨h3, .inl ⟨h2, h4⟩⟩

theorem State.startOrHold_shape (hs : s.aclk.air = .running) (hb : s.wsch.build.isSome = true) : s.startOrHold.AirShape := by
  unfold State.startOrHold
  split
  · exact State.windowStart_shape hs hb
  · unfold State.AirShape
    rw [show ({ s with aclk := { s.aclk with holding := .windowStart } } : State).aclk.air = .running from hs]
    exact ⟨hb, .inr rfl⟩

/-- AIR STOP in RUNNING: the build is withdrawn, and the air stops when what is on air has been sent (R62). -/
theorem State.stopRunning_shape (h : s.AirShape) (hs : s.aclk.air = .running) : (stopRunning s).AirShape := by
  obtain ⟨hb, ho⟩ := s.withdrawImage_images
  unfold State.AirShape at h
  rw [hs] at h
  unfold stopRunning
  simp only
  split
  · next hh =>
    split
    · next hair =>
      refine ⟨hb, ?_, by simp⟩
      show s.withdrawImage.wsch.onAir.isSome = true
      rw [ho]
      unfold State.airingUnderWay at hair
      split at hair
      · next hu => rw [hu]; rfl
      · cases hair
    · exact State.arriveStopped_airShape hb
  · next hh =>
    refine ⟨hb, ?_, by simp⟩
    show s.withdrawImage.wsch.onAir.isSome = true
    rw [ho]
    exact (h.2.resolve_right hh).2

/-- What was held for an airing happens when it has ended. -/
theorem State.afterAiring_shape (h : s.AirShape) : s.afterAiring.AirShape := by
  have stopping : s.aclk.holding = .windowEnd ∨ s.aclk.holding = .stop → s.wsch.build = none := by
    intro hh
    unfold State.AirShape at h
    cases hs : s.aclk.air with
    | stopping => rw [hs] at h; exact h.1
    | stopped | starting => rw [hs] at h; rcases hh with hh | hh <;> simp [hh] at h
    | running => rw [hs] at h; rcases hh with hh | hh <;> simp [hh] at h
  unfold State.afterAiring
  split
  · exact h
  · split
    · next hh => exact State.arriveStopped_airShape (stopping (.inl hh))
    · next hh => exact State.arriveStopped_airShape (stopping (.inr hh))
    · exact h
    · exact h

/-! ### What a command makes of them -/

theorem applyAirStart_shape (tag : Nat) {fs : List RawField} (h : s.AirShape) (hc : checkAirStart s fs = .ok ()) :
    (applyAirStart tag s).AirShape := by
  unfold checkAirStart at hc
  obtain ⟨_, _, hc⟩ := Except.bind_eq_ok_iff.mp hc
  have hs : s.aclk.air = .stopped := by simpa using refuseIf_eq_ok_iff.mp hc
  unfold State.AirShape at h
  rw [hs] at h
  exact ⟨rfl, h.2.1, h.2.2.1⟩

theorem applyAirStop_shape (tag : Nat) (h : s.AirShape) : (applyAirStop tag s).AirShape := by
  unfold applyAirStop
  simp only
  split
  · exact h
  · exact State.AirShape.congr (State.arriveStopped_airShape s.withdrawImage_images.1)
      (State.sameAir_of rfl rfl rfl rfl)
  · next hs => exact (State.stopRunning_shape h hs).congr (State.sameAir_of rfl rfl rfl rfl)
  · exact h.congr (State.sameAir_of rfl rfl rfl rfl)

theorem applyRestart_shape (tag : Nat) {fs : List RawField} (hc : checkRestart s fs = .ok ()) :
    (applyRestart tag s).AirShape := by
  unfold checkRestart at hc
  obtain ⟨_, _, hc⟩ := Except.bind_eq_ok_iff.mp hc
  obtain ⟨_, hc, _⟩ := Except.bind_eq_ok_iff.mp hc
  have hs : s.aclk.air = .stopped := by simpa using refuseIf_eq_ok_iff.mp hc
  unfold State.AirShape
  rw [show (applyRestart tag s).aclk.air = .stopped from hs]
  refine ⟨rfl, rfl, rfl, fun z => ?_⟩
  show (s.txi.map ZoneCell.restarted)[z].next = none ∧ (s.txi.map ZoneCell.restarted)[z].current = none
  simp [ZoneCell.restarted]

/-- A command other than AIR START, AIR STOP and RESTART leaves the images and the orders alone. -/
theorem State.Effect.airShape {u : State} (h : s.AirShape) (he : s.Effect u) : u.AirShape := by
  cases he with
  | airStart tag hc => exact applyAirStart_shape tag h hc
  | airStop tag hc => exact applyAirStop_shape tag h
  | restart tag hc => exact applyRestart_shape tag hc
  | @zoneSet tag fs z hc =>
    have hz := State.sameAir_modZone s z (f := fun c => { c with settings := c.settings.updated fs }) fun _ => ⟨rfl, rfl⟩
    exact h.congr (hz.trans (State.sameAir_of rfl rfl rfl rfl))
  | zoneGet tag fs =>
    unfold applyZoneGet
    split
    · simp only
      split
      · exact h.congr (State.sameAir_modZone s _ fun _ => ⟨rfl, rfl⟩)
      · exact h.congr (State.sameAir_of rfl rfl rfl rfl)
    · exact h.congr (State.sameAir_of rfl rfl rfl rfl)
  | denied tag d => exact h.congr (State.sameAir_of (by simp) (by simp) (by simp) (by simp))
  | subSet tag hc =>
    refine h.congr ?_
    unfold applySubSet State.floorTests
    simp only
    (repeat' split) <;> exact State.sameAir_of (by simp) (by simp) (by simp) (by simp)
  | subRemove tag hc =>
    refine h.congr ?_
    unfold applySubRemove
    exact State.sameAir_of (by simp) (by simp) (by simp) (by simp)
  | submit tag hc =>
    refine h.congr ?_
    unfold applySubmit State.allocate
    split
    · exact State.sameAir_of rfl rfl rfl rfl
    · exact State.sameAir_of (by simp) (by simp) (by simp) (by simp)
  | cancel tag hc =>
    refine h.congr ?_
    unfold applyCancel
    split <;> exact State.sameAir_of (by simp) (by simp [State.freeRec_images]) (by simp [State.freeRec_images]) (by simp)
  | heldRelease tag hc =>
    refine h.congr ?_
    unfold applyHeldRelease
    exact State.sameAir_of (by simp) (by simp) (by simp) (by simp)
  | tariffLoad tag hc =>
    refine h.congr ?_
    unfold applyTariffLoad
    simp only
    split <;> exact State.sameAir_of (by simp) (by simp) (by simp) (by simp)
  | bandSet tag b =>
    refine h.congr ?_
    unfold applyBandSet
    split <;> exact State.sameAir_of rfl rfl rfl rfl
  | money tag hk hc =>
    refine h.congr ?_
    unfold applyMoney
    simp only
    (repeat' split) <;> exact State.sameAir_of (by simp) (by simp) (by simp) (by simp)
  | billRead tag count =>
    refine h.congr ?_
    unfold applyBillRead
    simp only
    (repeat' split) <;> exact State.sameAir_of rfl rfl rfl rfl
  | billRewind tag hc =>
    refine h.congr ?_
    unfold applyBillRewind
    split <;> exact State.sameAir_of (by simp) (by simp) (by simp) (by simp)
  | periodClose tag hc =>
    refine h.congr ?_
    unfold applyPeriodClose
    exact State.sameAir_of (by simp) (by simp) (by simp) (by simp)
  | noticeLevels tag fs =>
    refine h.congr ?_
    unfold applyLevels
    split <;> exact State.sameAir_of rfl rfl rfl rfl
  | status tag fs =>
    refine h.congr ?_
    unfold applyStatus
    simp only
    split <;> exact State.sameAir_of rfl rfl rfl rfl
  | @officeSet tag fs hc =>
    refine h.congr ?_
    have unlocked : ∀ v : State, v.SameAir v.restartDetector := fun v => by
      have h1 := State.unlock_air { v with aclk := { v.aclk with strobes := 0, badMark := false } }
      refine ⟨h1.1, h1.2, by simp, by simp, ?_⟩
      simp
    have judged : ∀ v : State, v.SameAir v.judgeCongestion := fun v =>
      State.sameAir_of (by simp) (by simp) (by simp) (by simp)
    have answered : ∀ (v : State) (lines : List OutLine), v.SameAir (v.answer lines) := fun _ _ =>
      State.sameAir_of rfl rfl rfl rfl
    refine State.SameAir.trans (t := { s with office := s.office.updated fs }) (State.sameAir_of rfl rfl rfl rfl) ?_
    unfold applyOfficeSet
    simp only
    refine State.SameAir.trans ?_ (answered _ _)
    (repeat' split)
    · exact State.sameAir_of rfl rfl rfl rfl
    · exact judged _
    · exact unlocked _
    · exact (unlocked _).trans (judged _)
  | answered | subAdd | subState | planSet | periodCloseAll => exact h.congr (State.sameAir_of rfl rfl rfl rfl)

@[simp] theorem State.placeRec_images (b : Build) (r : PageRec) (e : Entry) (zones : ZoneSet)
    (runs : List (Zone × Nat)) :
    (s.placeRec b r e zones runs).wsch.build = some { b with image := b.image.placed r.id r.blocks runs } ∧
      (s.placeRec b r e zones runs).wsch.onAir = s.wsch.onAir := by
  refine ⟨rfl, ?_⟩
  unfold State.placeRec State.setBuild
  cases placementTag r e <;> simp

theorem State.setBuild_images (b : Build) :
    (s.setBuild b).wsch.build = some b ∧ (s.setBuild b).wsch.onAir = s.wsch.onAir := ⟨rfl, rfl⟩

theorem State.deferRec_images (r : PageRec) :
    (s.deferRec r).wsch.build = s.wsch.build ∧ (s.deferRec r).wsch.onAir = s.wsch.onAir := ⟨rfl, rfl⟩

theorem State.deferOversize_images (r : PageRec) :
    (s.deferOversize r).wsch.build = s.wsch.build ∧ (s.deferOversize r).wsch.onAir = s.wsch.onAir := by
  unfold State.deferOversize
  simp only
  split <;> exact ⟨rfl, rfl⟩

/-- A record offered to the build leaves a build, and the image on air as it was. -/
theorem State.offer_images {b : Build} (hb : s.wsch.build = some b) (r : PageRec) (e : Entry) :
    (s.offer b r e).wsch.build.isSome = true ∧ (s.offer b r e).wsch.onAir = s.wsch.onAir := by
  unfold State.offer
  simp only
  (repeat' split) <;>
    simp [State.deferRec_images, State.deferOversize_images, State.setBuild_images, hb]

/-- The walk of one record leaves a build, and the image on air as it was. -/
theorem State.walk_images (b : Build) (r : PageRec) :
    (s.walk b r).wsch.build.isSome = true ∧ (s.walk b r).wsch.onAir = s.wsch.onAir := by
  unfold State.walk
  simp only
  split
  · exact ⟨rfl, rfl⟩
  · split
    · exact ⟨rfl, rfl⟩
    · split
      · exact ⟨rfl, rfl⟩
      · exact State.offer_images rfl _ _

theorem State.walk_shape {b b' : Build} {r : PageRec} (h : s.AirShape) (hb : s.wsch.build = some b') :
    (s.walk b r).AirShape := by
  obtain ⟨hb', ho⟩ := s.walk_images b r
  obtain ⟨b'', hb''⟩ := Option.isSome_iff_exists.mp hb'
  exact h.built hb (by simp) hb'' ho

/-- A record leaves the records to air; the image stays on air. -/
theorem State.AirShape.airing {o o' : OnAir} (h : s.AirShape) (ho : s.wsch.onAir = some o) (ha : t.aclk = s.aclk)
    (hb : t.wsch.build = s.wsch.build) (ho' : t.wsch.onAir = some o') : t.AirShape := by
  unfold State.AirShape at h ⊢
  rw [ha, hb, ho']
  rw [ho] at h
  cases hs : s.aclk.air with
  | stopped | starting => rw [hs] at h; cases h.2.1
  | running | stopping => rwa [hs] at h

/-- Every event leaves the images as the air state it leads to has them. -/
theorem State.Event.airShape {u : State} (h : s.AirShape) (he : s.Event u) : u.AirShape := by
  have hh := h
  unfold State.AirShape at hh
  cases he with
  | received l bytes =>
    refine h.congr ?_
    exact State.sameAir_of (by simp [State.received_frame]) (by simp [State.received_frame])
      (by simp [State.received_frame]) (by simp [State.received_frame])
  | reportTaken hp => exact h.congr (State.sameAir_of (by simp) (by simp) (by simp) (by simp))
  | strobe good =>
    refine h.congr ⟨(State.countStrobe_air s good).1, (State.countStrobe_air s good).2, by simp, by simp, ?_⟩
    simp
  | leadInEnd hs => rw [hs] at hh; exact State.startOrHold_shape rfl hh.1
  | windowBoundary hs hw =>
    rw [hs] at hh
    exact State.startOrHold_shape hs hh.1
  | heldWindowStart hs hw hr => rw [hs] at hh; exact State.windowStart_shape hs hh.1
  | windowEndHeld hs hw ha =>
    rw [hs] at hh
    unfold State.AirShape
    rw [show ({ s with aclk := { s.aclk with holding := .windowEnd } } : State).aclk.air = .stopping from hs]
    exact ⟨hh.1, hh.2.1, by simp⟩
  | windowEnd hs hw ha => rw [hs] at hh; exact State.arriveStopped_airShape hh.1
  | walked hb he hr => exact State.walk_shape h hb
  | buildEnded hb he hr => exact h.built hb rfl rfl rfl
  | aired ho =>
    exact State.afterAiring_shape (h.airing ho (by simp) (by simp) (State.airOne_images _ _ _).2)
  | waitExpired hr => exact h.congr (State.sameAir_of (by simp) (by simp) (by simp) (by simp))
  | holdEnded hr hs hw =>
    exact h.congr (State.sameAir_of (by simp) (State.freeRec_images _ _ _).1 (State.freeRec_images _ _ _).2 (by simp))
  | readWaitEnded hr =>
    exact h.congr (State.sameAir_of (by simp) (State.freeRec_images _ _ _).1 (State.freeRec_images _ _ _).2 (by simp))
  | visited hw => exact h.congr (State.sameAir_of (by simp) (by simp) (by simp) (by simp))
  | offered | badLine | lineSent => exact h.congr (State.sameAir_of rfl rfl rfl rfl)

/-- Settles O60: nothing but the events of the air clock, AIR START, AIR STOP and RESTART changes which images there are,
and each of those leaves what its air state has. -/
theorem imagesFollowAirState : Obligations.ImagesFollowAirState := by
  unfold Obligations.ImagesFollowAirState
  intro s t hs h
  have cold : ∀ p : List Instr, State.AirShape { State.reset with pending := p } := fun p =>
    ⟨rfl, rfl, rfl, fun z => by simp [State.reset, ZoneCell.cold]⟩
  exact step_keeps (P := State.AirShape) (Q := State.AirShape) h hs
    (fun v p hv => hv.congr (State.sameAir_of rfl rfl rfl rfl)) (fun _ hv => hv) cold
    (fun v l rest _ hv => hv.congr (State.sameAir_of rfl rfl rfl rfl)) (fun _ _ hv he => he.airShape hv)
    (fun _ _ hv he => he.airShape hv) (fun v hv => hv.congr (State.sameAir_of rfl rfl rfl rfl))

end Sys2Proof.Machine
end

section
/-! The journal ring (R155): what a record written, a reading and a rewind make of it, and that every step keeps it in
sequence order with every unread record (O59). -/

namespace Sys2Proof.Machine

variable {s t : State} {a b : Acct}

/-! ### The ring -/

theorem Acct.Ordered.congr (h : a.Ordered) (hr : b.ring = a.ring) (hc : b.cursor = a.cursor)
    (hn : b.nextSeq = a.nextSeq) : b.Ordered := by
  unfold Acct.Ordered Acct.unread at h ⊢
  obtain ⟨hlen, hunread, hseq⟩ := h
  simp only [hr, hc, hn]
  exact ⟨hlen, hunread, fun i hi => by simpa [hn] using hseq i hi⟩

/-- A number counted back from the next sequence number is counted back one more from the one after it. -/
theorem BitVec.sub_ofNat_succ (n : BitVec 32) (k : Nat) :
    n - BitVec.ofNat 32 k = n + 1 - BitVec.ofNat 32 (k + 1) := by
  rw [BitVec.ofNat_add]
  bv_omega

/-- One more sequence number: at most one unread record more. -/
theorem unread_succ_le (n c : BitVec 32) : (n + 1 - c).toNat ≤ (n - c).toNat + 1 := by bv_omega

/-- The records of a ring stand under the sequence numbers before `n`. -/
def Sequenced (ring : List JournalRec) (n : BitVec 32) : Prop :=
  ∀ (i : Nat) (h : i < ring.length), (ring[i]).seq = n - BitVec.ofNat 32 (ring.length - i)

theorem Sequenced.append {ring : List JournalRec} {n : BitVec 32} (h : Sequenced ring n) {j : JournalRec}
    (hj : j.seq = n) : Sequenced (ring ++ [j]) (n + 1) := by
  intro i hi
  rw [List.length_append, List.length_singleton] at hi ⊢
  rcases Nat.lt_or_ge i ring.length with hlt | hge
  · rw [List.getElem_append_left hlt, h i hlt, BitVec.sub_ofNat_succ]
    congr 2
    omega
  · obtain rfl : i = ring.length := by omega
    rw [List.getElem_concat_length rfl, hj, Nat.add_sub_cancel_left]
    bv_omega

theorem Sequenced.drop {ring : List JournalRec} {n : BitVec 32} (h : Sequenced ring n) (k : Nat) :
    Sequenced (ring.drop k) n := by
  intro i hi
  rw [List.length_drop] at hi
  rw [List.getElem_drop, h (k + i) (by omega), List.length_drop]
  congr 2
  omega

theorem Acct.Ordered.append (h : a.Ordered) (j : JournalRec) : (a.append j).Ordered := by
  obtain ⟨hlen, hunread, hseq⟩ := h
  have hnew := Sequenced.append hseq (j := { j with seq := a.nextSeq }) rfl
  have hshift := Sequenced.append (Sequenced.drop hseq 1) (j := { j with seq := a.nextSeq }) rfl
  have hone := unread_succ_le a.nextSeq a.cursor
  unfold Acct.unread at hunread
  unfold Acct.append
  simp only
  split
  · next hroom =>
    refine ⟨by simpa using hroom, ?_, hnew⟩
    simp only [Acct.unread, List.length_append, List.length_singleton]
    omega
  · next hfull =>
    have hl : (a.ring.drop 1 ++ [{ j with seq := a.nextSeq }]).length = a.ring.length := by
      rw [List.length_append, List.length_drop, List.length_singleton]
      simp only [Config.journal] at hfull
      omega
    split
    · refine ⟨by rw [hl]; exact hlen, ?_, hshift⟩
      rw [hl]
      unfold Acct.unread
      rw [show a.nextSeq + 1 - (a.cursor + 1) = a.nextSeq - a.cursor by bv_omega]
      exact hunread
    · next hu =>
      refine ⟨by rw [hl]; exact hlen, ?_, hshift⟩
      rw [hl]
      unfold Acct.unread at hu ⊢
      simp only [Config.journal] at hu hfull
      show (a.nextSeq + 1 - a.cursor).toNat ≤ _
      omega

/-! ### Reading and rewinding (R162, R163) -/

/-- With the ring in order as many records can be read as are unread. -/
theorem Acct.Ordered.length_unreadRecs (h : a.Ordered) : a.unreadRecs.length = a.unread := by
  have := h.2.1
  rw [Acct.unreadRecs, List.length_drop, Acct.unreadFrom]
  omega

theorem toNat_sub_add_ofNat {n c : BitVec 32} {k : Nat} (h : k ≤ (n - c).toNat) :
    (n - (c + BitVec.ofNat 32 k)).toNat = (n - c).toNat - k := by
  have hk : k < 2 ^ 32 := Nat.lt_of_le_of_lt h (BitVec.isLt _)
  bv_omega

/-- The cursor moves past unread records. -/
theorem Acct.Ordered.read (h : a.Ordered) {k : Nat} (hk : k ≤ a.unread) (hr : b.ring = a.ring)
    (hc : b.cursor = a.cursor + BitVec.ofNat 32 k) (hn : b.nextSeq = a.nextSeq) :
    b.Ordered ∧ b.unread = a.unread - k := by
  have hu : b.unread = a.unread - k := by
    unfold Acct.unread at hk ⊢
    rw [hc, hn]
    exact toNat_sub_add_ofNat hk
  obtain ⟨hlen, hunread, hseq⟩ := h
  exact ⟨⟨by rw [hr]; exact hlen, by rw [hu, hr]; omega, fun i hi => by simpa [hr, hn] using hseq i (hr ▸ hi)⟩, hu⟩

/-- The place a sequence number has in the ring is the one it is counted back to. -/
theorem Acct.place?_eq_some {seq : BitVec 32} {i : Nat} (h : a.place? seq = some i) :
    ∃ hi : i < a.ring.length, a.ring[i].seq = seq := by
  obtain ⟨hi, hseq, _⟩ := List.findIdx?_eq_some_iff_getElem.mp h
  exact ⟨hi, by simpa using hseq⟩

/-- The cursor moves back to a record of the ring. -/
theorem Acct.Ordered.rewind (h : a.Ordered) {seq : BitVec 32} {i : Nat} (hp : a.place? seq = some i) :
    (a.nextSeq - seq).toNat = a.ring.length - i ∧ Acct.Ordered { a with cursor := seq } := by
  obtain ⟨hi, hs⟩ := Acct.place?_eq_some hp
  obtain ⟨hlen, hunread, hseq⟩ := h
  have hu : (a.nextSeq - seq).toNat = a.ring.length - i := by
    rw [← hs, hseq i hi]
    simp only [Config.journal] at hlen
    have : a.nextSeq - (a.nextSeq - BitVec.ofNat 32 (a.ring.length - i)) = BitVec.ofNat 32 (a.ring.length - i) := by
      bv_omega
    rw [this, BitVec.toNat_ofNat]
    omega
  refine ⟨hu, hlen, ?_, hseq⟩
  unfold Acct.unread
  show (a.nextSeq - seq).toNat ≤ a.ring.length
  omega

/-! ### The operations that write -/

theorem State.ordered_of_acct (h : s.acct.Ordered) (ha : t.acct = s.acct) : t.acct.Ordered := ha ▸ h

theorem State.ordered_judgeJournalHigh (h : s.acct.Ordered) : s.judgeJournalHigh.acct.Ordered := by
  rw [State.judgeJournalHigh_acct]
  exact h.congr rfl rfl rfl

theorem State.ordered_writeRec (h : s.acct.Ordered) (j : JournalRec) : (s.writeRec j).acct.Ordered :=
  State.ordered_judgeJournalHigh (s := { s with acct := s.acct.append j }) (h.append j)

theorem State.ordered_journal (h : s.acct.Ordered) (j : JournalRec) : (s.journal j).acct.Ordered := by
  unfold State.journal
  split
  · exact h.congr rfl rfl rfl
  · exact State.ordered_writeRec h j

theorem State.ordered_postCharge (h : s.acct.Ordered) (n x : Nat) (j : JournalRec) :
    (s.postCharge n x j).acct.Ordered := by
  unfold State.postCharge
  split
  · exact h
  · split
    · exact State.ordered_journal h _
    · exact State.ordered_journal (State.ordered_of_acct h (by simp)) _

theorem State.ordered_postCredit (h : s.acct.Ordered) (n x : Nat) (j : JournalRec) :
    (s.postCredit n x j).acct.Ordered := by
  unfold State.postCredit
  split
  · exact h
  · simp only
    split <;> exact State.ordered_journal (State.ordered_of_acct h (by simp)) _

theorem State.ordered_closePeriod (h : s.acct.Ordered) (n : Nat) (e : Entry) : (s.closePeriod n e).acct.Ordered := by
  unfold State.closePeriod
  exact State.ordered_writeRec (State.ordered_of_acct h (by simp)) _

theorem State.ordered_readRec (h : s.acct.Ordered) (r : PageRec) : (s.readRec r).acct.Ordered := by
  unfold State.readRec
  split
  · exact h
  · simp only
    split
    · exact State.ordered_of_acct h (by simp)
    · simp only [State.freeRec_frame, State.putRec_acct]
      exact State.ordered_postCharge h _ _ _

theorem State.ordered_deliverRead (h : s.acct.Ordered) (r : PageRec) (p : Report) :
    (s.deliverRead r p).acct.Ordered := by
  unfold State.deliverRead
  refine State.ordered_readRec (State.ordered_of_acct h ?_) _
  split <;> simp

theorem State.ordered_readReport (h : s.acct.Ordered) (n : Nat) (p : Report) : (s.readReport n p).acct.Ordered := by
  unfold State.readReport
  split
  · exact h
  · next r _ =>
    cases r.state with
    | awaiting =>
      simp only
      split
      · exact State.ordered_of_acct h (by simp)
      · exact State.ordered_deliverRead h r p
    | retryWait => exact State.ordered_deliverRead h r p
    | placed => exact State.ordered_of_acct h (by simp)
    | delivered =>
      simp only
      split
      · exact State.ordered_readRec h r
      · exact h
    | queued | held => exact h

theorem State.ordered_takeReport (h : s.acct.Ordered) (p : Report) : (s.takeReport p).acct.Ordered := by
  unfold State.takeReport
  split
  · exact h
  · split
    · exact h
    · split
      · exact h
      · simp only [State.byKind]
        split
        · exact State.ordered_of_acct h (by simp)
        · exact State.ordered_readReport (State.ordered_of_acct h (by simp)) _ p
        · exact State.ordered_of_acct h (by simp)
        · split <;> exact State.ordered_of_acct h (by simp)

theorem State.ordered_releaseAir (h : s.acct.Ordered) : s.releaseAir.acct.Ordered := by
  unfold State.releaseAir
  split
  · exact h.congr rfl rfl rfl
  · exact h

theorem State.ordered_reserveAir (h : s.acct.Ordered) : s.reserveAir.acct.Ordered := by
  unfold State.reserveAir
  split
  · exact h.congr rfl rfl rfl
  · exact h

theorem State.ordered_airOne (h : s.acct.Ordered) (im : Image) (m : MsgId) : (s.airOne im m).acct.Ordered := by
  unfold State.airOne
  split
  · exact h
  · split
    · exact h
    · refine State.ordered_of_acct ?_ (State.airMove_frame _ _ _).2.2.2.2.2.1
      unfold State.airPost
      simp only
      split
      · simp only [State.releaseReservation_frame, State.countPage_frame]
        exact State.ordered_postCharge (State.ordered_releaseAir h) _ _ _
      · simp only [State.countPage_frame]
        exact State.ordered_postCharge (State.ordered_releaseAir h) _ _ _

theorem State.acct_placeRec (b : Build) (r : PageRec) (e : Entry) (zones : ZoneSet) (runs : List (Zone × Nat)) :
    (s.placeRec b r e zones runs).acct = s.reserveAir.acct := by
  unfold State.placeRec State.reserveAir
  cases placementTag r e <;> cases hm : s.office.journalMode <;> simp [hm, State.setBuild]

theorem State.ordered_walk (h : s.acct.Ordered) (b : Build) (r : PageRec) : (s.walk b r).acct.Ordered := by
  have placed : ∀ v : State, v.acct = s.acct → v.reserveAir.acct.Ordered := fun v hv =>
    State.ordered_reserveAir (State.ordered_of_acct h hv)
  unfold State.walk
  simp only
  split
  · exact h
  · split
    · exact h
    · split
      · exact h
      · unfold State.offer
        simp only
        (repeat' split)
        any_goals exact h
        · unfold State.deferOversize
          simp only
          split <;> exact h
        · rw [State.acct_placeRec]
          exact placed _ rfl

theorem State.ordered_withdrawImage (h : s.acct.Ordered) : s.withdrawImage.acct.Ordered := by
  unfold State.withdrawImage
  split
  · exact h
  · simp only [(State.foldl_withdrawRec_frame s _).2.2.2.2.2.1]
    exact h.congr rfl rfl rfl

theorem State.ordered_expire (h : s.acct.Ordered) (r : PageRec) : (s.expire r).acct.Ordered := by
  unfold State.expire
  split
  · exact State.ordered_of_acct h (by simp)
  · split
    · exact State.ordered_of_acct h (by simp)
    · unfold State.miss State.postRefund
      simp only
      split
      · exact State.ordered_of_acct h (by simp)
      · split
        · exact State.ordered_of_acct h (by simp)
        · exact State.ordered_postCredit (State.ordered_of_acct h (by simp)) _ _ _

theorem State.ordered_visit (h : s.acct.Ordered) (w : Sweep) : (s.visit w).acct.Ordered := by
  have on : ∀ (v : State) (c k : Nat), v.acct.Ordered → (v.sweepOn c k).acct.Ordered := by
    intro v c k hv
    unfold State.sweepOn
    split <;> exact hv.congr rfl rfl rfl
  unfold State.visit
  split
  · exact on _ _ _ h
  · split
    · exact h.congr rfl rfl rfl
    · exact on _ _ _ (State.ordered_closePeriod h _ _)

/-! ### A step -/

theorem applyBillRead_acct (tag count : Nat) (s : State) :
    (applyBillRead tag count s).acct.ring = s.acct.ring ∧ (applyBillRead tag count s).acct.nextSeq = s.acct.nextSeq ∧
      (applyBillRead tag count s).acct.airReserved = s.acct.airReserved ∧
      (applyBillRead tag count s).acct.cursor =
        s.acct.cursor + BitVec.ofNat 32 (s.acct.unreadRecs.take count).length := by
  unfold applyBillRead
  simp only
  (repeat' split) <;> exact ⟨rfl, rfl, rfl, rfl⟩

theorem checkBillRewind_back {fs : List RawField} {seq : BitVec 32} (h : checkBillRewind s fs = .ok (.back seq)) :
    ∃ i, s.acct.place? seq = some i ∧ i < s.acct.unreadFrom ∧ ¬ (s.office.journalMode = .hold ∧
      Config.journal - Config.reserve < s.acct.unreadFrom - i + s.acct.unread + s.acct.airReserved) := by
  unfold checkBillRewind at h
  obtain ⟨_, _, h⟩ := Except.bind_eq_ok_iff.mp h
  obtain ⟨x, _, h⟩ := Except.bind_eq_ok_iff.mp h
  split at h
  · cases h
  · next i hi =>
    split at h
    · cases h
    · next hlt =>
      simp only at h
      split at h
      · cases h
      · next hroom =>
        cases h
        exact ⟨i, hi, by omega, hroom⟩

theorem State.Effect.ordered {u : State} (h : s.acct.Ordered) (he : s.Effect u) : u.acct.Ordered := by
  cases he with
  | denied tag d => exact State.ordered_of_acct h (by simp)
  | subSet tag hc =>
    unfold applySubSet State.floorTests
    simp only
    (repeat' split) <;> exact State.ordered_of_acct h (by simp)
  | subRemove tag hc => exact State.ordered_writeRec h _
  | submit tag hc =>
    unfold applySubmit State.allocate
    split
    · exact h
    · exact State.ordered_of_acct h (by simp)
  | cancel tag hc =>
    unfold applyCancel
    split <;> exact State.ordered_of_acct h (by simp)
  | heldRelease tag hc => exact State.ordered_of_acct h (by simp [applyHeldRelease])
  | airStop tag hc =>
    unfold applyAirStop
    simp only
    split
    · exact h
    · exact State.ordered_withdrawImage h
    · unfold stopRunning
      simp only
      (repeat' split) <;> exact State.ordered_withdrawImage h
    · exact h
  | zoneGet tag fs =>
    unfold applyZoneGet
    simp only
    (repeat' split) <;> exact h
  | tariffLoad tag hc =>
    unfold applyTariffLoad
    simp only
    split <;> exact h
  | bandSet tag b =>
    unfold applyBandSet
    split <;> exact h
  | money tag hk hc =>
    unfold applyMoney
    simp only
    split
    · exact h
    · split
      · exact State.ordered_postCredit h _ _ _
      · exact State.ordered_postCharge h _ _ _
  | billRead tag count =>
    obtain ⟨hring, hnext, _, hcur⟩ := applyBillRead_acct tag count s
    refine (h.read ?_ hring hcur hnext).1
    rw [List.length_take, h.length_unreadRecs]
    omega
  | @billRewind tag fs r hc =>
    cases r with
    | stay => exact State.ordered_judgeJournalHigh (s := s.reply _ _ _) h
    | back seq =>
      obtain ⟨i, hi, _⟩ := checkBillRewind_back hc
      exact State.ordered_judgeJournalHigh (s := State.reply { s with acct := { s.acct with cursor := seq } } _ _ _)
        (h.rewind hi).2
  | periodClose tag hc => exact State.ordered_closePeriod h _ _
  | periodCloseAll | restart => exact h.congr rfl rfl rfl
  | noticeLevels tag fs =>
    unfold applyLevels
    split <;> exact h
  | status tag fs =>
    unfold applyStatus
    simp only
    split
    · exact h
    · exact h.congr rfl rfl rfl
  | officeSet tag hc =>
    unfold applyOfficeSet
    simp only
    (repeat' split) <;> exact State.ordered_of_acct h (by simp)
  | answered | subAdd | subState | planSet | airStart | zoneSet => exact h

theorem State.Event.ordered {u : State} (h : s.acct.Ordered) (he : s.Event u) : u.acct.Ordered := by
  cases he with
  | received l bytes => exact State.ordered_of_acct h (by simp [State.received_frame])
  | reportTaken hp =>
    refine State.ordered_takeReport ?_ _
    exact h
  | strobe good => exact State.ordered_of_acct h (by simp)
  | leadInEnd hs => exact State.ordered_of_acct h (by simp)
  | windowBoundary hs hw => exact State.ordered_of_acct h (by simp)
  | heldWindowStart hs hw hr => exact State.ordered_of_acct h (by simp)
  | walked hb he hr => exact State.ordered_walk h _ _
  | aired ho =>
    rw [(State.afterAiring_frame _).2.2.2.2.2.2.2.1]
    refine State.ordered_airOne ?_ _ _
    exact h
  | waitExpired hr => exact State.ordered_expire h _
  | holdEnded hr hs hw => exact State.ordered_of_acct h (by simp)
  | readWaitEnded hr => exact State.ordered_of_acct h (by simp)
  | visited hw => exact State.ordered_visit h _
  | offered | badLine | lineSent | windowEndHeld | windowEnd | buildEnded => exact h

theorem Acct.cold_ordered : Acct.cold.Ordered :=
  ⟨Nat.zero_le _, by decide, fun _ hi => absurd hi (Nat.not_lt_zero _)⟩

/-- Settles O59: a record written, a reading and a rewind keep the ring in order, and nothing else changes it. -/
theorem journalStaysOrdered : Obligations.JournalStaysOrdered := by
  unfold Obligations.JournalStaysOrdered
  intro s t hs h
  exact step_keeps (P := fun v => v.acct.Ordered) (Q := fun v => v.acct.Ordered) h hs (fun _ _ hv => hv) (fun _ hv => hv)
    (fun _ => Acct.cold_ordered) (fun _ _ _ _ hv => hv) (fun _ _ hv he => he.ordered hv) (fun _ _ hv he => he.ordered hv)
    (fun _ hv => hv)

end Sys2Proof.Machine
end

section
/-! What checks that have passed say of a line's fields (R170): every field has its form and the value of a key that the
line carries is read. -/

namespace Sys2Proof.Machine

variable {forms : List KeyForm} {fs : List RawField}

theorem firstFault_eq_none {seen : List Text} (h : firstFault forms seen fs = none) :
    ∀ f ∈ fs, fieldAtFault forms f = false := by
  induction fs generalizing seen with
  | nil => exact fun _ hf => nomatch hf
  | cons x xs ih =>
    unfold firstFault at h
    split at h
    · cases h
    · next hx =>
      rw [Bool.or_eq_true, not_or] at hx
      intro f hf
      rcases List.mem_cons.mp hf with rfl | hf
      · exact Bool.eq_false_iff.mpr hx.1
      · exact ih h f hf

/-- A line whose form is right: no field is at fault and every required key is there. -/
theorem checkForm_eq_ok {required : List String} {u : Unit} (h : checkForm forms required fs = .ok u) :
    (∀ f ∈ fs, fieldAtFault forms f = false) ∧ ∀ key ∈ required, hasKey fs key = true := by
  unfold checkForm at h
  split at h
  · cases h
  · next hf =>
    refine ⟨firstFault_eq_none hf, fun key hk => ?_⟩
    split at h
    · next hm =>
      rw [List.filter_eq_nil_iff] at hm
      simpa [hasKey] using hm (str key) (List.mem_map_of_mem hk)
    · cases h

/-- A field that is not at fault has the form of its key. -/
theorem fieldAtFault_eq_false {f : RawField} (h : fieldAtFault forms f = false) :
    ∃ v form, f.value = some v ∧ forms.find? (fun k => k.1 == f.key) = some form ∧ form.2 v = true := by
  unfold fieldAtFault at h
  split at h
  · next v form hv hform => exact ⟨v, form, hv, hform, by simpa using h⟩
  · cases h

theorem hasKey_eq_true {key : String} (h : hasKey fs key = true) :
    ∃ f, fs.find? (fun f => f.key == str key) = some f ∧ f ∈ fs ∧ f.key = str key := by
  have hs : (fs.find? (fun f => f.key == str key)).isSome = true := by
    rw [List.find?_isSome]
    simpa [hasKey] using h
  obtain ⟨f, hf⟩ := Option.isSome_iff_exists.mp hs
  exact ⟨f, hf, List.mem_of_find?_eq_some hf, by simpa using List.find?_some hf⟩

theorem fieldOf_of_not_hasKey {α : Type} {key : String} (read : Text → Option α) (h : hasKey fs key = false) :
    fieldOf fs key read = none := by
  have : fs.find? (fun f => f.key == str key) = none := by
    rw [List.find?_eq_none]
    intro f hf hk
    rw [hasKey, List.any_eq_false] at h
    exact h f hf hk
  rw [fieldOf, this]
  rfl

/-- A key on a line without faults has a value of its form. -/
theorem fieldOf_isSome {α : Type} {key : String} {read : Text → Option α}
    (hfs : ∀ f ∈ fs, fieldAtFault forms f = false)
    (hform : forms.find? (fun k => k.1 == str key) = some (keyForm key read)) (hk : hasKey fs key = true) :
    ∃ v, fieldOf fs key read = some v := by
  obtain ⟨f, hfind, hmem, hkey⟩ := hasKey_eq_true hk
  obtain ⟨v, form, hv, hform', hread⟩ := fieldAtFault_eq_false (hfs f hmem)
  rw [hkey, hform] at hform'
  cases hform'
  rw [fieldOf, hfind]
  simp only [Option.bind_some, hv]
  exact Option.isSome_iff_exists.mp hread

/-- A key the line carries is read as the form reads it. -/
theorem fieldOf_eq_some {α : Type} {key : String} {read : Text → Option α} {v : α} (h : fieldOf fs key read = some v) :
    ∃ t, read t = some v := by
  unfold fieldOf at h
  obtain ⟨t, _, ht⟩ := Option.bind_eq_some_iff.mp h
  exact ⟨t, ht⟩

/-! ### The ranges of the values (11.1) -/

theorem readIn_eq_some {lo hi : Nat} {t : Text} {n : Nat} (h : readIn lo hi t = some n) : lo ≤ n ∧ n ≤ hi := by
  unfold readIn at h
  split at h
  · split at h
    · next hn => cases h; exact hn
    · cases h
  · cases h

theorem readIntIn_eq_some {lo hi : Int} {t : Text} {i : Int} (h : readIntIn lo hi t = some i) : lo ≤ i ∧ i ≤ hi := by
  unfold readIntIn at h
  split at h
  · split at h
    · next hi => cases h; exact hi
    · cases h
  · cases h

/-- A value given is in the range of its form, and one not given is the old one. -/
theorem fieldOf_getD_in {lo hi : Nat} {key : String} {old : Nat} (h : lo ≤ old ∧ old ≤ hi) :
    lo ≤ (fieldOf fs key (readIn lo hi)).getD old ∧ (fieldOf fs key (readIn lo hi)).getD old ≤ hi := by
  cases hf : fieldOf fs key (readIn lo hi) with
  | none => exact h
  | some v =>
    obtain ⟨t, ht⟩ := fieldOf_eq_some hf
    exact readIn_eq_some ht

theorem fieldOf_getD_le {hi : Nat} {key : String} {old : Nat} (h : old ≤ hi) :
    (fieldOf fs key (readIn 0 hi)).getD old ≤ hi := (fieldOf_getD_in ⟨Nat.zero_le _, h⟩).2

/-- Both bounds of a vector of numbers read. -/
theorem readVector_eq_some {n lo hi : Nat} {t : Text} {v : Vector Nat n} (h : readVector n lo hi t = some v) :
    ∀ i : Fin n, lo ≤ v[i] ∧ v[i] ≤ hi := by
  unfold readVector at h
  split at h
  · next ns hns =>
    split at h
    · next hlen =>
      cases h
      intro i
      unfold readNums at hns
      split at hns
      · split at hns
        · next hall =>
          cases hns
          have := List.all_eq_true.mp hall (ns[i.val]'(hlen ▸ i.isLt)) (List.getElem_mem _)
          simpa using this
        · cases hns
      · cases hns
    · cases h
  · cases h

theorem fieldOf_getD_vector {n lo hi : Nat} {key : String} {old : Vector Nat n}
    (h : ∀ i : Fin n, lo ≤ old[i] ∧ old[i] ≤ hi) (i : Fin n) :
    lo ≤ ((fieldOf fs key (readVector n lo hi)).getD old)[i] ∧
      ((fieldOf fs key (readVector n lo hi)).getD old)[i] ≤ hi := by
  cases hf : fieldOf fs key (readVector n lo hi) with
  | none => exact h i
  | some v =>
    obtain ⟨t, ht⟩ := fieldOf_eq_some hf
    exact readVector_eq_some ht i

/-! ### The subscriber a command names -/

theorem subscriberNumber_eq_ok {n : Nat} (h : subscriberNumber fs = .ok n) :
    fieldOf fs "SUB" readNat = some n ∧ n < Config.subscribers := by
  unfold subscriberNumber at h
  split at h
  · next m hm =>
    split at h
    · next hlt => cases h; exact ⟨hm, hlt⟩
    · cases h
  · cases h

theorem subscriberFirst_eq_ok {n : Nat} (h : subscriberFirst fs = .ok n) : n < Config.subscribers := by
  unfold subscriberFirst at h
  split at h
  · cases h
  · split at h
    · cases h
    · split at h
      · next hlt => cases h; exact hlt
      · cases h

/-- The entry a command that takes SUB alone finds. -/
theorem namedEntry_eq_ok {s : State} {ne : Nat × Entry} (h : namedEntry s fs = .ok ne) :
    ne.1 < Config.subscribers ∧ s.sub? ne.1 = some ne.2 := by
  unfold namedEntry at h
  obtain ⟨_, _, h⟩ := Except.bind_eq_ok_iff.mp h
  obtain ⟨n, hn, h⟩ := Except.bind_eq_ok_iff.mp h
  obtain ⟨e, he, h⟩ := Except.bind_eq_ok_iff.mp h
  cases h
  exact ⟨(subscriberNumber_eq_ok hn).2, presentEntry_eq_ok_iff.mp he⟩

theorem namedRecord_eq_ok {s : State} {r : PageRec} (h : namedRecord s fs = .ok r) : s.rec? r.id = some r := by
  unfold namedRecord at h
  obtain ⟨_, _, h⟩ := Except.bind_eq_ok_iff.mp h
  obtain ⟨m, _, h⟩ := Except.bind_eq_ok_iff.mp h
  split at h
  · next x hx =>
    cases h
    rw [State.rec?_id hx]
    exact hx
  · cases h

/-- What a SUB ADD that passes its checks has found (R13). -/
theorem checkSubAdd_eq_ok {s : State} {a : SubAddArgs} (h : checkSubAdd s fs = .ok a) :
    a.sub < Config.subscribers ∧ s.sub? a.sub = none ∧ s.holderOf a.addr = none ∧
      (-16777215 ≤ a.floor ∧ a.floor ≤ 0) ∧ a.floor ≤ a.balance ∧ a.balance ≤ 16777215 := by
  unfold checkSubAdd at h
  obtain ⟨n, hn, h⟩ := Except.bind_eq_ok_iff.mp h
  obtain ⟨_, hform, h⟩ := Except.bind_eq_ok_iff.mp h
  obtain ⟨addr, _, h⟩ := Except.bind_eq_ok_iff.mp h
  obtain ⟨kind, _, h⟩ := Except.bind_eq_ok_iff.mp h
  obtain ⟨home, _, h⟩ := Except.bind_eq_ok_iff.mp h
  obtain ⟨zones, _, h⟩ := Except.bind_eq_ok_iff.mp h
  obtain ⟨plan, _, h⟩ := Except.bind_eq_ok_iff.mp h
  obtain ⟨_, hvacant, h⟩ := Except.bind_eq_ok_iff.mp h
  obtain ⟨_, haddr, h⟩ := Except.bind_eq_ok_iff.mp h
  cases h
  have hfloor : -16777215 ≤ (fieldOf fs "FLOOR" readFloor).getD 0 ∧ (fieldOf fs "FLOOR" readFloor).getD 0 ≤ 0 := by
    cases hf : fieldOf fs "FLOOR" readFloor with
    | none => simp
    | some f =>
      obtain ⟨t, ht⟩ := fieldOf_eq_some hf
      exact readIntIn_eq_some ht
  have hleast : (fieldOf fs "FLOOR" readFloor).getD 0 = leastOpening fs := by
    unfold leastOpening
    split
    · next hk =>
      obtain ⟨v, hv⟩ := fieldOf_isSome (checkForm_eq_ok hform).1 (key := "FLOOR") (read := readFloor) rfl hk
      rw [hv]
      rfl
    · next hk => rw [fieldOf_of_not_hasKey _ (Bool.eq_false_iff.mpr hk)]; rfl
  have hbalance : leastOpening fs ≤ (fieldOf fs "BALANCE" (readBalance (leastOpening fs))).getD 0 ∧
      (fieldOf fs "BALANCE" (readBalance (leastOpening fs))).getD 0 ≤ 16777215 := by
    cases hb : fieldOf fs "BALANCE" (readBalance (leastOpening fs)) with
    | none => exact ⟨hleast ▸ hfloor.2, by decide⟩
    | some b =>
      obtain ⟨t, ht⟩ := fieldOf_eq_some hb
      exact readIntIn_eq_some ht
  exact ⟨subscriberFirst_eq_ok hn, by simpa using refuseIf_eq_ok_iff.mp hvacant,
    by simpa using refuseIf_eq_ok_iff.mp haddr, hfloor, hleast ▸ hbalance.1, hbalance.2⟩

/-- What a SUB SET that passes its checks has found (R14). -/
theorem checkSubSet_eq_ok {s : State} {ae : SubSetArgs × Entry} (h : checkSubSet s fs = .ok ae) :
    s.sub? ae.1.sub = some ae.2 ∧
      ((changes ae.1.addr ae.2.addr || changes ae.1.kind ae.2.kind || changes ae.1.home ae.2.home) = true →
        ae.2.live = 0) ∧ s.addressTaken ae.1.sub ae.1.addr = false ∧
      ∀ f, ae.1.floor = some f → (-16777215 ≤ f ∧ f ≤ 0) ∧ f ≤ ae.2.money.balance := by
  unfold checkSubSet at h
  obtain ⟨n, hn, h⟩ := Except.bind_eq_ok_iff.mp h
  obtain ⟨_, hform, h⟩ := Except.bind_eq_ok_iff.mp h
  obtain ⟨_, _, h⟩ := Except.bind_eq_ok_iff.mp h
  obtain ⟨e, he, h⟩ := Except.bind_eq_ok_iff.mp h
  obtain ⟨_, hpages, h⟩ := Except.bind_eq_ok_iff.mp h
  obtain ⟨_, haddr, h⟩ := Except.bind_eq_ok_iff.mp h
  obtain ⟨_, hfloor, h⟩ := Except.bind_eq_ok_iff.mp h
  cases h
  refine ⟨presentEntry_eq_ok_iff.mp he, fun hc => ?_, refuseIf_eq_ok_iff.mp haddr, fun f hf => ?_⟩
  · simpa [hc] using refuseIf_eq_ok_iff.mp hpages
  · obtain ⟨t, ht⟩ := fieldOf_eq_some hf
    simp only at hf
    rw [refuseIf_eq_ok_iff, hf] at hfloor
    exact ⟨readIntIn_eq_some ht, by simpa using hfloor⟩

end Sys2Proof.Machine
end

section
/-! What becomes of the entries (R6, R8, R146): every operation but provisioning and acceptance leaves in a number only
an entry that follows one which stood there, with its address, its bounds of money and its capacities. Every step keeps
the bounds of money (O58). -/

namespace Sys2Proof.Machine

variable {s t u : State} {e x : Entry} {m m' : Money}

/-! ### Money within its bounds (R146) -/

theorem Money.Bounded.congr (h : m.Bounded) (hf : m'.floor = m.floor) (hb : m'.balance = m.balance)
    (hp : m'.periodPages = m.periodPages) (hc : m'.periodCharges = m.periodCharges) : m'.Bounded := by
  unfold Money.Bounded at *
  rwa [hf, hb, hp, hc]

theorem Money.Bounded.charged (h : m.Bounded) (a : Nat) : (m.charged a).Bounded := by
  obtain ⟨hf, hf0, hfb, hbt, hp, hc⟩ := h
  refine ⟨hf, hf0, ?_, ?_, hp, Nat.min_le_right _ _⟩
  · show m.floor ≤ m.balance - m.chargeApplied a
    unfold Money.chargeApplied
    omega
  · show m.balance - m.chargeApplied a ≤ _
    omega

theorem Money.Bounded.credited (h : m.Bounded) (a : Nat) :
    Money.Bounded { m with balance := m.balance + m.creditApplied a } := by
  obtain ⟨hf, hf0, hfb, hbt, hp, hc⟩ := h
  refine ⟨hf, hf0, ?_, ?_, hp, hc⟩
  · show m.floor ≤ m.balance + m.creditApplied a
    omega
  · show m.balance + m.creditApplied a ≤ _
    unfold Money.creditApplied
    omega

/-! ### Entries that follow entries -/

/-- What no operation on an entry in use gives up. -/
structure Entry.Follows (e x : Entry) : Prop where
  addr : x.addr = e.addr
  bounded : e.money.Bounded → x.money.Bounded
  sized : e.Sized → x.Sized

theorem Entry.Follows.refl (e : Entry) : e.Follows e := ⟨rfl, id, id⟩

/-- Every entry there is follows one that stood under its number, and the table keeps its canonical form. -/
def State.Follows (s t : State) : Prop :=
  (s.subs.wf = true → t.subs.wf = true) ∧ ∀ c ∈ t.subs.cells, ∃ e, (c.1, e) ∈ s.subs.cells ∧ e.Follows c.2

theorem State.follows_of_subs (h : t.subs = s.subs) : s.Follows t :=
  ⟨h ▸ id, fun c hc => ⟨c.2, h ▸ hc, .refl _⟩⟩

theorem State.Follows.trans (h : s.Follows t) (g : t.Follows u) : s.Follows u := by
  refine ⟨g.1 ∘ h.1, fun c hc => ?_⟩
  obtain ⟨x, hx, hxc⟩ := g.2 c hc
  obtain ⟨e, he, hex⟩ := h.2 _ hx
  exact ⟨e, he, ⟨hxc.addr.trans hex.addr, hxc.bounded ∘ hex.bounded, hxc.sized ∘ hex.sized⟩⟩

theorem State.Follows.congr (h : s.Follows t) (hu : u.subs = t.subs) : s.Follows u :=
  h.trans (State.follows_of_subs hu)

theorem State.Follows.after (h : t.Follows u) (hs : t.subs = s.subs) : s.Follows u :=
  (State.follows_of_subs hs).trans h

theorem State.follows_setSub {n : Nat} (he : s.sub? n = some e) (h : e.Follows x) : s.Follows (s.setSub n x) := by
  refine ⟨fun hw => Table.wf_set hw _ _, fun c hc => ?_⟩
  rcases Table.mem_cells_set hc with rfl | hc
  · exact ⟨e, Table.mem_of_get? he, h⟩
  · exact ⟨c.2, hc, .refl _⟩

theorem State.follows_modSub (s : State) (n : Nat) {f : Entry → Entry} (hf : ∀ e : Entry, e.Follows (f e)) :
    s.Follows (s.modSub n f) := by
  unfold State.modSub
  split
  · next he => exact State.follows_setSub he (hf _)
  · exact State.follows_of_subs rfl

theorem State.follows_modMoney (s : State) (n : Nat) {f : Money → Money} (hf : ∀ m : Money, m.Bounded → (f m).Bounded) :
    s.Follows (s.modMoney n f) :=
  s.follows_modSub n fun e => ⟨rfl, hf e.money, id⟩

theorem State.follows_mapValues {f : Entry → Entry} (hf : ∀ e : Entry, e.Follows (f e))
    (ht : t.subs = s.subs.mapValues f) : s.Follows t := by
  unfold State.Follows
  rw [ht]
  refine ⟨fun hw => Table.wf_mapValues hw f, fun c hc => ?_⟩
  obtain ⟨y, hy, rfl⟩ := List.mem_map.mp hc
  exact ⟨y.2, hy, hf _⟩

theorem State.follows_erase (n : Nat) (ht : t.subs = s.subs.erase n) : s.Follows t := by
  unfold State.Follows
  rw [ht]
  exact ⟨fun hw => Table.wf_erase hw n, fun c hc => ⟨c.2, (List.mem_filter.mp hc).1, .refl _⟩⟩

/-! ### The tests of an account (R149 to R151) -/

theorem State.follows_barTest (s : State) (n : Nat) : s.Follows (s.barTest n) := by
  unfold State.barTest
  (repeat' split)
  · exact State.follows_of_subs rfl
  · exact (s.follows_modMoney n (f := fun m => { m with credit := .barred }) fun m h => h.congr rfl rfl rfl rfl).congr rfl
  · exact State.follows_of_subs rfl

theorem State.follows_unbarTest (s : State) (n : Nat) : s.Follows (s.unbarTest n) := by
  unfold State.unbarTest
  (repeat' split)
  · exact State.follows_of_subs rfl
  · exact (s.follows_modMoney n (f := fun m => { m with credit := .clear }) fun m h => h.congr rfl rfl rfl rfl).congr rfl
  · exact State.follows_of_subs rfl

theorem State.follows_lowTest (s : State) (n : Nat) : s.Follows (s.lowTest n) := by
  unfold State.lowTest
  (repeat' split)
  · exact State.follows_of_subs rfl
  · exact (s.follows_modMoney n (f := fun m => { m with lowArmed := false }) fun m h => h.congr rfl rfl rfl rfl).congr rfl
  · exact State.follows_of_subs rfl

theorem State.follows_usageTest (s : State) (n : Nat) : s.Follows (s.usageTest n) := by
  unfold State.usageTest
  (repeat' split)
  · exact State.follows_of_subs rfl
  · exact (s.follows_modMoney n (f := fun m => { m with usageArmed := false }) fun m h =>
      h.congr rfl rfl rfl rfl).congr rfl
  · exact State.follows_of_subs rfl

theorem State.follows_rearmLow (s : State) (n : Nat) : s.Follows (s.rearmLow n) :=
  s.follows_modMoney n fun m h => by
    split
    · exact h.congr rfl rfl rfl rfl
    · exact h

theorem State.follows_chargeTests (s : State) (n : Nat) (a b : Money) : s.Follows (s.chargeTests n a b) := by
  have low : s.Follows (if b.balance = a.balance then s.barTest n else (s.barTest n).lowTest n) := by
    split
    · exact s.follows_barTest n
    · exact (s.follows_barTest n).trans (State.follows_lowTest _ n)
  unfold State.chargeTests
  simp only
  split
  · exact low
  · exact low.trans (State.follows_usageTest _ n)

/-! ### Postings (R148, R152, R164) -/

theorem State.follows_postCharge (s : State) (n a : Nat) (j : JournalRec) : s.Follows (s.postCharge n a j) := by
  unfold State.postCharge
  split
  · exact State.follows_of_subs rfl
  · next e he =>
    split
    · exact State.follows_of_subs (by simp)
    · have charged : s.Follows (s.setSub n { e with money := e.money.charged a }) :=
        State.follows_setSub he ⟨rfl, fun h => h.charged a, id⟩
      exact (charged.trans (State.follows_chargeTests _ n e.money (e.money.charged a))).congr (by simp)

theorem State.follows_postCredit (s : State) (n a : Nat) (j : JournalRec) : s.Follows (s.postCredit n a j) := by
  unfold State.postCredit
  split
  · exact State.follows_of_subs rfl
  · next e he =>
    have higher : e.Follows { e with
        money := { e.money with balance := e.money.balance + e.money.creditApplied a } } :=
      ⟨rfl, fun h => h.credited a, id⟩
    have credited := (State.follows_setSub he higher).trans (State.follows_unbarTest _ n)
    simp only
    split
    · exact credited.congr (by simp)
    · exact (credited.trans (State.follows_rearmLow _ n)).congr (by simp)

theorem State.follows_closePeriod {n : Nat} (he : s.sub? n = some e) : s.Follows (s.closePeriod n e) := by
  unfold State.closePeriod
  have closed : e.Follows { e with money := { e.money with periodPages := 0, periodCharges := 0, usageArmed := true } } :=
    ⟨rfl, fun ⟨h1, h2, h3, h4, _, _⟩ => ⟨h1, h2, h3, h4, Nat.zero_le _, Nat.zero_le _⟩, id⟩
  exact (State.follows_setSub he closed).congr (by simp)

/-! ### Records and their places -/

theorem State.follows_releaseTagOf (s : State) (r : PageRec) : s.Follows (s.releaseTagOf r) := by
  unfold State.releaseTagOf
  split
  · exact s.follows_modSub _ fun _ => ⟨rfl, id, id⟩
  · exact State.follows_of_subs rfl

theorem State.follows_releaseReservation (s : State) (r : PageRec) : s.Follows (s.releaseReservation r) := by
  unfold State.releaseReservation
  split
  · exact s.follows_modMoney _ fun m h => h.congr rfl rfl rfl rfl
  · exact State.follows_of_subs rfl

theorem State.follows_holdRec (s : State) (r : PageRec) : s.Follows (s.holdRec r) :=
  s.follows_modSub _ fun _ => ⟨rfl, id, id⟩

theorem State.follows_unholdRec (s : State) (r : PageRec) : s.Follows (s.unholdRec r) :=
  s.follows_modSub _ fun _ => ⟨rfl, id, id⟩

theorem State.follows_leavePlace (s : State) (r : PageRec) : s.Follows (s.leavePlace r) := by
  unfold State.leavePlace
  split
  · exact State.follows_of_subs (by simp)
  · exact State.follows_of_subs (by simp)
  · exact State.follows_of_subs rfl
  · exact State.follows_of_subs rfl
  · exact State.follows_of_subs rfl
  · exact s.follows_unholdRec r

theorem State.follows_dropRec (s : State) (r : PageRec) : s.Follows (s.dropRec r) := by
  have fewer : s.Follows (s.modSub r.sub (fun e => { e with live := e.live - 1 })) :=
    s.follows_modSub _ fun e => ⟨rfl, id, fun h => ⟨Nat.le_trans (Nat.sub_le _ _) h.1, h.2⟩⟩
  exact fewer.congr rfl

theorem State.follows_freeRec (s : State) (r : PageRec) (o : PageOutcome) : s.Follows (s.freeRec r o) := by
  unfold State.freeRec
  simp only
  refine State.Follows.congr (t := ((((s.raise o.kind (o.fields r)).leavePlace r).releaseTagOf r).releaseReservation r).dropRec r)
    ?_ (by simp)
  exact ((((State.follows_of_subs (by simp)).trans (State.follows_leavePlace _ r)).trans
    (State.follows_releaseTagOf _ r)).trans (State.follows_releaseReservation _ r)).trans (State.follows_dropRec _ r)

theorem State.follows_recoverAll (s : State) (n : Nat) : s.Follows (s.recoverAll n) := by
  have one : ∀ (v : State) (m : MsgId), v.Follows (v.recoverRec m) := by
    intro v m
    unfold State.recoverRec
    split
    · next r _ => exact (v.follows_unholdRec r).congr (by simp)
    · exact State.follows_of_subs rfl
  unfold State.recoverAll
  split
  · next e he =>
    clear he
    induction e.held generalizing s with
    | nil => exact State.follows_of_subs rfl
    | cons m l ih => exact (one s m).trans (ih _)
  · exact State.follows_of_subs rfl

/-! ### Reports (R108 to R115) -/

theorem State.follows_deliverOut (s : State) (r : PageRec) (p : Report) : s.Follows (s.deliverOut r p) := by
  unfold State.deliverOut
  simp only
  split
  · refine State.Follows.trans (State.follows_of_subs ?_) (State.follows_freeRec _ _ _)
    split <;> simp
  · refine State.follows_of_subs ?_
    split <;> simp

theorem State.follows_readRec (s : State) (r : PageRec) : s.Follows (s.readRec r) := by
  unfold State.readRec
  split
  · exact State.follows_of_subs rfl
  · simp only
    split
    · exact s.follows_freeRec _ _
    · exact ((s.follows_postCharge _ _ _).congr (State.putRec_subs _ _)).trans (State.follows_freeRec _ _ _)

theorem State.follows_deliverRead (s : State) (r : PageRec) (p : Report) : s.Follows (s.deliverRead r p) := by
  unfold State.deliverRead
  refine State.Follows.trans (State.follows_of_subs ?_) (State.follows_readRec _ _)
  split <;> simp

theorem State.follows_heard (s : State) (n : Nat) (p : Report) : s.Follows (s.heard n p) := by
  unfold State.heard
  split
  · exact State.follows_of_subs rfl
  · next r _ =>
    split
    · split
      · exact s.follows_freeRec r _
      · exact s.follows_deliverOut r p
    · exact s.follows_deliverOut r p
    · exact State.follows_of_subs (by simp)
    all_goals exact State.follows_of_subs rfl

theorem State.follows_readReport (s : State) (n : Nat) (p : Report) : s.Follows (s.readReport n p) := by
  unfold State.readReport
  split
  · exact State.follows_of_subs rfl
  · next r _ =>
    split
    · split
      · exact s.follows_freeRec r _
      · exact s.follows_deliverRead r p
    · exact s.follows_deliverRead r p
    · exact State.follows_of_subs (by simp)
    · split
      · exact s.follows_readRec r
      · exact State.follows_of_subs rfl
    all_goals exact State.follows_of_subs rfl

theorem State.follows_takeReport (s : State) (p : Report) : s.Follows (s.takeReport p) := by
  unfold State.takeReport
  split
  · exact State.follows_of_subs rfl
  · next n _ =>
    split
    · exact State.follows_of_subs rfl
    · next e he =>
      have heard : s.Follows (s.setSub n { e with heard := some { zone := p.zone, age := 0 } }) :=
        State.follows_setSub he ⟨rfl, id, fun h => ⟨h.1, fun y hy => by cases hy; exact Nat.zero_le _⟩⟩
      split
      · exact State.follows_of_subs rfl
      · simp only [State.byKind]
        split
        · exact heard.trans (State.follows_heard _ n p)
        · exact heard.trans (State.follows_readReport _ n p)
        · exact heard.trans (State.follows_recoverAll _ n)
        · split
          · exact heard.trans (State.follows_recoverAll _ n)
          · exact heard

/-! ### Airings, expiries and the window boundary -/

theorem State.follows_countPage (s : State) (n : Nat) (c : AttemptClass) : s.Follows (s.countPage n c) := by
  unfold State.countPage
  split
  · exact s.follows_modMoney n fun m ⟨h1, h2, h3, h4, _, h6⟩ => ⟨h1, h2, h3, h4, Nat.min_le_right _ _, h6⟩
  · exact State.follows_of_subs rfl

theorem State.follows_airPost (s : State) (im : Image) (r : PageRec) (e : Entry) : s.Follows (s.airPost im r e).1 := by
  have counted : ∀ a j c, s.Follows ((s.releaseAir.postCharge r.sub a j).countPage r.sub c) := fun a j c =>
    ((State.follows_of_subs (by simp)).trans (State.follows_postCharge _ _ _ _)).trans (State.follows_countPage _ _ _)
  unfold State.airPost
  simp only
  split
  · exact (counted _ _ _).trans (State.follows_releaseReservation _ _)
  · exact counted _ _ _

theorem State.follows_airMove (s : State) (r : PageRec) (e : Entry) : s.Follows (s.airMove r e) := by
  have freed : ∀ q o, s.Follows ((s.putRec q).freeRec q o) := fun q o =>
    (State.follows_of_subs (State.putRec_subs _ _)).trans (State.follows_freeRec _ _ _)
  unfold State.airMove
  simp only
  (repeat' split) <;>
  · first
    | exact freed _ _
    | exact State.follows_of_subs (by simp)

theorem State.follows_airOne (s : State) (im : Image) (m : MsgId) : s.Follows (s.airOne im m) := by
  unfold State.airOne
  split
  · exact State.follows_of_subs rfl
  · split
    · exact State.follows_of_subs rfl
    · exact (s.follows_airPost _ _ _).trans (State.follows_airMove _ _ _)

theorem State.follows_expire (s : State) (r : PageRec) : s.Follows (s.expire r) := by
  unfold State.expire
  split
  · exact s.follows_freeRec _ _
  · split
    · exact State.follows_of_subs (by simp)
    · unfold State.miss State.postRefund
      simp only
      have held : ∀ (v : State) (h : PageRec), v.Follows ((v.holdRec h).releaseTagOf r) := fun v h =>
        (v.follows_holdRec h).trans (State.follows_releaseTagOf _ r)
      have kept : ∀ h : PageRec, s.Follows ((((s.leaveAwaiting r.id).putRec h).holdRec h).releaseTagOf r) := fun h =>
        (State.follows_of_subs (by simp)).trans (held _ h)
      split
      · exact (kept _).congr rfl
      · split
        · exact (kept _).congr rfl
        · exact ((kept _).trans (State.follows_postCredit _ _ _ _)).congr rfl

theorem Entry.follows_aged (e : Entry) : e.Follows e.aged := by
  refine ⟨rfl, id, fun h => ⟨h.1, fun y hy => ?_⟩⟩
  obtain ⟨z, _, rfl⟩ := Option.map_eq_some_iff.mp hy
  exact Nat.min_le_right _ _

theorem State.follows_windowStart (s : State) : s.Follows s.windowStart := by
  have rounded : ∀ v : State, v.Follows v.roundStart := fun v =>
    by
      refine State.follows_mapValues Entry.follows_aged ?_
      show v.rateRoundStart.subs.mapValues _ = _
      simp
  unfold State.windowStart
  simp only
  split
  · refine State.Follows.congr (t := State.roundStart { s with aclk := { s.aclk with holding := .none_ } }) ?_ (by simp)
    exact (rounded _).after rfl
  · exact State.follows_of_subs (by simp)

theorem State.follows_startOrHold (s : State) : s.Follows s.startOrHold := by
  unfold State.startOrHold
  split
  · exact s.follows_windowStart
  · exact State.follows_of_subs rfl

theorem State.follows_withdrawImage (s : State) : s.Follows s.withdrawImage := by
  have freed : ∀ (v : State) q o, v.Follows ((v.putRec q).freeRec q o) := fun v q o =>
    (State.follows_of_subs (State.putRec_subs _ _)).trans (State.follows_freeRec _ _ _)
  have one : ∀ (v : State) (m : MsgId), v.Follows (v.withdrawRec m) := by
    intro v m
    unfold State.withdrawRec
    split
    · exact State.follows_of_subs rfl
    · next r _ =>
      split
      · simp only
        split
        · exact (v.follows_releaseTagOf r).congr (by simp)
        · exact State.follows_of_subs (by simp)
      · simp only
        split
        · exact freed v _ _
        · exact State.follows_of_subs (by simp)
      all_goals exact State.follows_of_subs rfl
  have all : ∀ (l : List MsgId) (v : State), v.Follows (l.foldl State.withdrawRec v) := by
    intro l
    induction l with
    | nil => exact fun v => State.follows_of_subs rfl
    | cons m l ih => exact fun v => (one v m).trans (ih _)
  unfold State.withdrawImage
  split
  · exact State.follows_of_subs rfl
  · exact (all _ s).congr rfl

theorem State.follows_walk (s : State) (b : Build) (r : PageRec) : s.Follows (s.walk b r) := by
  unfold State.walk
  simp only
  split
  · exact State.follows_of_subs rfl
  · next e he =>
    split
    · exact State.follows_of_subs rfl
    · split
      · exact State.follows_of_subs rfl
      · unfold State.offer
        simp only
        (repeat' split)
        any_goals exact State.follows_of_subs rfl
        · unfold State.deferOversize
          simp only
          split <;> exact State.follows_of_subs rfl
        · unfold State.placeRec
          simp only
          have tagged : ∀ (v : State) (g : PageTag), v.subs = s.subs → s.Follows (v.setSub r.sub (e.holdTag g)) := by
            intro v g hv
            refine State.Follows.congr (t := s.setSub r.sub (e.holdTag g)) ?_ ?_
            · exact State.follows_setSub he ⟨rfl, id, id⟩
            · rw [State.setSub_subs, State.setSub_subs, hv]
          split
          · refine State.Follows.congr (tagged ?_ ?_ ?_) ?_
            case refine_4 => exact (State.reserveAir_frame _).2.1
            simp [State.setBuild]
          · exact State.follows_of_subs (by simp [State.setBuild])

theorem State.follows_visit (s : State) (w : Sweep) : s.Follows (s.visit w) := by
  unfold State.visit
  split
  · exact State.follows_of_subs (by simp)
  · next e he =>
    split
    · exact State.follows_of_subs rfl
    · exact (State.follows_closePeriod he).congr (by simp)

/-! ### A step -/

/-- Every event leaves only entries that follow those there were. -/
theorem State.Event.follows (he : s.Event u) : s.Follows u := by
  cases he with
  | received l bytes => exact State.follows_of_subs (by simp [State.received_frame])
  | reportTaken hp => exact (State.follows_takeReport _ _).after rfl
  | strobe good => exact State.follows_of_subs (by simp)
  | leadInEnd hs => exact (State.follows_startOrHold _).after rfl
  | windowBoundary hs hw => exact (State.follows_startOrHold _).after rfl
  | heldWindowStart hs hw hr => exact s.follows_windowStart
  | walked hb he hr => exact s.follows_walk _ _
  | aired ho =>
    refine State.Follows.congr ?_ (State.afterAiring_frame _).2.1
    exact (State.follows_airOne _ _ _).after rfl
  | waitExpired hr => exact s.follows_expire _
  | holdEnded hr hs hw => exact s.follows_freeRec _ _
  | readWaitEnded hr => exact s.follows_freeRec _ _
  | visited hw => exact s.follows_visit _
  | offered | badLine | lineSent | windowEndHeld | windowEnd | buildEnded => exact State.follows_of_subs rfl

theorem Entry.follows_restarted (e : Entry) : e.Follows e.restarted :=
  ⟨rfl, fun h => h.congr rfl rfl rfl rfl, fun _ => ⟨Nat.zero_le _, fun _ hy => nomatch hy⟩⟩

/-- The address apart, an entry a SUB SET leaves follows the one it changes. -/
theorem SubSetArgs.entry_bounds {fs : List RawField} {ae : SubSetArgs × Entry} (h : checkSubSet s fs = .ok ae) :
    (ae.2.money.Bounded → (ae.1.entry ae.2).money.Bounded) ∧ (ae.2.Sized → (ae.1.entry ae.2).Sized) := by
  obtain ⟨a, e⟩ := ae
  obtain ⟨_, _, _, hfloor⟩ := checkSubSet_eq_ok h
  constructor
  · rintro ⟨h1, h2, h3, h4, h5, h6⟩
    show Money.Bounded (a.money e.money)
    cases hf : a.floor with
    | none => exact ⟨by simpa [SubSetArgs.money, hf] using h1, by simpa [SubSetArgs.money, hf] using h2,
        by simpa [SubSetArgs.money, hf] using h3, h4, h5, h6⟩
    | some f =>
      obtain ⟨⟨g1, g2⟩, g3⟩ := hfloor f hf
      exact ⟨by simpa [SubSetArgs.money, hf] using g1, by simpa [SubSetArgs.money, hf] using g2,
        by simpa [SubSetArgs.money, hf] using g3, h4, h5, h6⟩
  · rintro ⟨h1, h2⟩
    refine ⟨h1, fun y hy => h2 y ?_⟩
    simp only [SubSetArgs.entry] at hy
    split at hy
    · cases hy
    · exact hy

theorem State.follows_floorTests (s : State) (n : Nat) (old : Int) (given : Option Int) :
    s.Follows (s.floorTests n old given) := by
  unfold State.floorTests
  (repeat' split)
  · exact s.follows_barTest n
  · exact s.follows_unbarTest n
  · exact State.follows_of_subs rfl
  · exact State.follows_of_subs rfl

/-- What a command does to the entries: it provisions one, changes one's settings, accepts a page for one, or leaves
only entries that follow those there were. -/
theorem State.Effect.entries (he : s.Effect u) :
    (∃ fs a, checkSubAdd s fs = .ok a ∧ u.subs = s.subs.set a.sub a.entry) ∨
      (∃ fs ae, checkSubSet s fs = .ok ae ∧ (s.setSub ae.1.sub (ae.1.entry ae.2)).Follows u) ∨
      (∃ fs a e, checkSubmit s fs = .ok a ∧ s.sub? a.sub = some e ∧ u.subs = s.subs.set a.sub
        { e with live := e.live + 1, money := { e.money with reserved := e.money.reserved + a.estimate } }) ∨
      s.Follows u := by
  cases he with
  | @subAdd tag fs a hc => exact .inl ⟨fs, a, hc, rfl⟩
  | @subSet tag fs ae hc => exact .inr (.inl ⟨fs, ae, hc, (State.follows_floorTests _ _ _ _).congr rfl⟩)
  | @submit tag fs a hc =>
    refine .inr (.inr ?_)
    unfold applySubmit
    split
    · exact .inr (State.follows_of_subs rfl)
    · next e he => exact .inl ⟨fs, a, e, hc, he, by simp [State.allocate, State.setSub_subs]⟩
  | denied tag d => exact .inr (.inr (.inr (State.follows_of_subs (by simp))))
  | @subState tag st fs ne hc =>
    have same : ne.2.Follows { ne.2 with state := st } := ⟨rfl, id, id⟩
    exact .inr (.inr (.inr ((State.follows_setSub (namedEntry_eq_ok hc).2 same).congr rfl)))
  | @subRemove tag fs ne hc =>
    refine .inr (.inr (.inr (State.follows_erase ne.1 ?_)))
    simp [applySubRemove]
  | cancel tag hc =>
    refine .inr (.inr (.inr ?_))
    unfold applyCancel
    split
    · exact (s.follows_freeRec _ _).congr rfl
    · exact (s.follows_freeRec _ _).congr rfl
    · exact State.follows_of_subs rfl
    · exact State.follows_of_subs rfl
    · exact State.follows_of_subs rfl
    · exact (s.follows_freeRec _ _).congr rfl
  | heldRelease tag hc => exact .inr (.inr (.inr ((s.follows_recoverAll _).congr rfl)))
  | airStop tag hc =>
    refine .inr (.inr (.inr ?_))
    unfold applyAirStop
    simp only
    split
    · exact State.follows_of_subs rfl
    · exact s.follows_withdrawImage.congr rfl
    · unfold stopRunning
      simp only
      (repeat' split) <;> exact s.follows_withdrawImage.congr rfl
    · exact State.follows_of_subs rfl
  | zoneGet tag fs =>
    refine .inr (.inr (.inr (State.follows_of_subs ?_)))
    unfold applyZoneGet
    simp only
    (repeat' split) <;> rfl
  | tariffLoad tag hc =>
    refine .inr (.inr (.inr (State.follows_of_subs ?_)))
    unfold applyTariffLoad
    simp only
    split <;> rfl
  | bandSet tag b =>
    refine .inr (.inr (.inr (State.follows_of_subs ?_)))
    unfold applyBandSet
    split <;> rfl
  | money tag hk hc =>
    refine .inr (.inr (.inr ?_))
    unfold applyMoney
    simp only
    split
    · exact State.follows_of_subs rfl
    · split
      · exact (s.follows_postCredit _ _ _).congr rfl
      · exact (s.follows_postCharge _ _ _).congr rfl
  | billRead tag count =>
    refine .inr (.inr (.inr (State.follows_of_subs ?_)))
    unfold applyBillRead
    simp only
    (repeat' split) <;> rfl
  | billRewind tag hc =>
    refine .inr (.inr (.inr (State.follows_of_subs ?_)))
    unfold applyBillRewind
    split <;> simp
  | @periodClose tag fs ne hc =>
    have he : s.sub? ne.1 = some ne.2 := by
      unfold checkPeriodClose at hc
      obtain ⟨_, _, hc⟩ := Except.bind_eq_ok_iff.mp hc
      obtain ⟨n, _, hc⟩ := Except.bind_eq_ok_iff.mp hc
      obtain ⟨_, _, hc⟩ := Except.bind_eq_ok_iff.mp hc
      obtain ⟨e, he, hc⟩ := Except.bind_eq_ok_iff.mp hc
      obtain ⟨_, _, hc⟩ := Except.bind_eq_ok_iff.mp hc
      cases hc
      exact presentEntry_eq_ok_iff.mp he
    exact .inr (.inr (.inr ((State.follows_closePeriod he).congr rfl)))
  | noticeLevels tag fs =>
    refine .inr (.inr (.inr (State.follows_of_subs ?_)))
    unfold applyLevels
    split <;> rfl
  | status tag fs =>
    refine .inr (.inr (.inr (State.follows_of_subs ?_)))
    unfold applyStatus
    simp only
    split <;> rfl
  | officeSet tag hc =>
    refine .inr (.inr (.inr (State.follows_of_subs ?_)))
    unfold applyOfficeSet
    simp only
    (repeat' split) <;> simp
  | restart tag hc => exact .inr (.inr (.inr (State.follows_mapValues Entry.follows_restarted rfl)))
  | answered | planSet | airStart | zoneSet | periodCloseAll => exact .inr (.inr (.inr (State.follows_of_subs rfl)))

/-! ### Every account within its bounds -/

theorem State.solvent_iff : s.Solvent ↔ ∀ c ∈ s.subs.cells, c.2.money.Bounded := by
  simp only [State.Solvent, Table.values, List.forall_mem_map]

theorem State.Solvent.follows (h : s.Solvent) (hf : s.Follows t) : t.Solvent := by
  rw [State.solvent_iff] at h ⊢
  intro c hc
  obtain ⟨e, he, hec⟩ := hf.2 c hc
  exact hec.bounded (h _ he)

theorem State.Solvent.sub (h : s.Solvent) {n : Nat} (he : s.sub? n = some e) : e.money.Bounded :=
  State.solvent_iff.mp h _ (Table.mem_of_get? he)

theorem State.Solvent.set (h : s.Solvent) {n : Nat} (hx : x.money.Bounded) (ht : t.subs = s.subs.set n x) :
    t.Solvent := by
  rw [State.solvent_iff] at h ⊢
  intro c hc
  rw [ht] at hc
  rcases Table.mem_cells_set hc with rfl | hc
  · exact hx
  · exact h c hc

theorem State.Effect.solvent (h : s.Solvent) (he : s.Effect u) : u.Solvent := by
  rcases he.entries with ⟨fs, a, hc, hu⟩ | ⟨fs, ae, hc, hu⟩ | ⟨fs, a, e, _, he, hu⟩ | hu
  · obtain ⟨_, _, _, hfloor, hb, ht⟩ := checkSubAdd_eq_ok hc
    exact h.set ⟨hfloor.1, hfloor.2, hb, ht, Nat.zero_le _, Nat.zero_le _⟩ hu
  · refine State.Solvent.follows ?_ hu
    exact h.set ((SubSetArgs.entry_bounds hc).1 (h.sub (checkSubSet_eq_ok hc).1)) rfl
  · refine h.set ?_ hu
    exact (h.sub he).congr rfl rfl rfl rfl
  · exact h.follows hu

/-- Settles O58: a charge stops at the floor and a credit at the top, provisioning and SUB SET check the floor, and
nothing else changes the bounded fields but to lower or to hold them. -/
theorem balancesStayInBounds : Obligations.BalancesStayInBounds := by
  unfold Obligations.BalancesStayInBounds
  intro s t hs h
  exact step_keeps (P := State.Solvent) (Q := State.Solvent) h hs (fun _ _ hv => hv) (fun _ hv => hv)
    (fun _ _ he => nomatch he) (fun _ _ _ _ hv => hv) (fun _ _ hv he => he.solvent hv)
    (fun _ _ hv he => hv.follows he.follows) (fun _ hv => hv)

end Sys2Proof.Machine
end

section
/-! The queues, the counters and the records within their capacities (R20, R27, R83, R125, R158, R159, R168, R175): what
each operation keeps of them, said once for each. -/

namespace Sys2Proof.Machine

variable {s t u : State} {h h' h'' : Hlc} {x y z : Store} {r r' : PageRec}

/-! ### The host line -/

/-- The host line keeps its capacities and the order of its notices. -/
def Hlc.Steady (h h' : Hlc) : Prop := (h.Sized → h'.Sized) ∧ (h.InOrder → h'.InOrder)

theorem Hlc.steady_of (hb : h'.buffer = h.buffer) (hn : h'.notices = h.notices) (hl : h'.badLine = h.badLine)
    (hd : h'.dropped = h.dropped) (hv : h'.levels = h.levels) (hs : h'.nextStamp = h.nextStamp) : h.Steady h' := by
  have hlevel : h'.level = h.level := by
    funext k
    unfold Hlc.level
    rw [hv]
  constructor
  · unfold Hlc.Sized
    rw [hb, hn, hl, hd]
    exact id
  · rw [Hlc.inOrder_iff, Hlc.inOrder_iff, hlevel, hs, hn]
    exact id

theorem Hlc.Steady.trans (a : h.Steady h') (b : h'.Steady h'') : h.Steady h'' := ⟨b.1 ∘ a.1, b.2 ∘ a.2⟩

theorem Hlc.dropped_place (h : Hlc) (k : NoticeKind) (fs : List Field) (hd : h.dropped ≤ Config.counterTop) :
    (h.place k fs).dropped ≤ Config.counterTop := by
  unfold Hlc.place
  simp only
  (repeat' split)
  · exact hd
  · exact Nat.min_le_right _ _
  · exact Nat.min_le_right _ _
  · exact hd

theorem Hlc.steady_raise (h : Hlc) (k : NoticeKind) (fs : List Field) (c : Bool) : h.Steady (h.raise k fs c) := by
  refine ⟨fun ⟨hb, hn, hl, hd⟩ => ⟨?_, h.length_raise k fs c hn, ?_, ?_⟩, fun hi => hi.raise k fs c⟩
  · rw [(h.raise_frame k fs c).2.1]; exact hb
  · rw [(h.raise_frame k fs c).2.2.1]; exact hl
  · unfold Hlc.raise
    simp only
    split
    · exact Hlc.dropped_place _ k fs hd
    · exact hd

theorem Hlc.steady_settle (h : Hlc) : h.Steady h.settle := by
  refine ⟨fun ⟨hb, hn, hl, hd⟩ => ⟨by simpa using hb, ?_, by simpa using hl, by simpa using hd⟩, fun hi => hi.settle⟩
  rcases h.settle_notices with heq | heq <;> rw [heq]
  · exact hn
  · exact Nat.le_trans (by simp) hn

/-! ### The store -/

/-- The chunks the records of a table take. -/
def chunksTaken (t : Table PageRec) : Nat := (t.values.flatMap PageRec.chunkList).length

/-- Each record stands in its own slot, each slot once. -/
def Store.Keyed (x : Store) : Prop := x.records.wf = true ∧ ∀ c ∈ x.records.cells, c.2.id.slot = c.1

/-- The tables keep their form and the generations stand; with every record in its slot, each there is stood in its slot
before under its id, and together they need no more chunks. -/
def Store.Steady (x y : Store) : Prop :=
  (x.records.wf = true → y.records.wf = true) ∧ y.gens = x.gens ∧ (x.Keyed →
    chunksTaken y.records ≤ chunksTaken x.records ∧
      ∀ c ∈ y.records.cells, ∃ q, (c.1, q) ∈ x.records.cells ∧ c.2.id = q.id ∧ (q.deferral ≤ 255 → c.2.deferral ≤ 255))

theorem Store.steady_of (hr : y.records = x.records) (hg : y.gens = x.gens) : x.Steady y := by
  unfold Store.Steady
  rw [hr]
  exact ⟨id, hg, fun _ => ⟨Nat.le_refl _, fun c hc => ⟨c.2, hc, rfl, id⟩⟩⟩

theorem Store.Steady.keyed (a : x.Steady y) (hx : x.Keyed) : y.Keyed := by
  refine ⟨a.1 hx.1, fun c hc => ?_⟩
  obtain ⟨q, hq, hid, _⟩ := (a.2.2 hx).2 c hc
  rw [hid]
  exact hx.2 _ hq

theorem Store.Steady.trans (a : x.Steady y) (b : y.Steady z) : x.Steady z := by
  refine ⟨b.1 ∘ a.1, b.2.1.trans a.2.1, fun hx => ⟨?_, fun c hc => ?_⟩⟩
  · exact Nat.le_trans (b.2.2 (a.keyed hx)).1 (a.2.2 hx).1
  · obtain ⟨q, hq, hid, hd⟩ := (b.2.2 (a.keyed hx)).2 c hc
    obtain ⟨p, hp, hid', hd'⟩ := (a.2.2 hx).2 _ hq
    exact ⟨p, hp, hid.trans hid', hd ∘ hd'⟩

theorem chunksTaken_of_perm {t : Table PageRec} {q : PageRec} {l : List PageRec} (hp : t.values.Perm (q :: l)) :
    chunksTaken t = q.chunkList.length + (l.flatMap PageRec.chunkList).length := by
  rw [chunksTaken, (hp.flatMap_right _).length_eq, List.flatMap_cons, List.length_append]

/-- A record written over itself. -/
theorem Store.steady_set {k : Nat} (hr : x.Keyed → x.records.get? k = some r) (hid : r'.id = r.id)
    (hd : r.deferral ≤ 255 → r'.deferral ≤ 255) (hc : r'.chunkList.length ≤ r.chunkList.length)
    (hy : y.records = x.records.set k r') (hg : y.gens = x.gens) : x.Steady y := by
  unfold Store.Steady
  rw [hy]
  refine ⟨fun hw => Table.wf_set hw _ _, hg, fun hx => ⟨?_, fun c hc' => ?_⟩⟩
  · obtain ⟨hp, hp'⟩ := Table.values_erase_perm hx.1 (hr hx)
    rw [chunksTaken_of_perm hp, chunksTaken_of_perm (hp' r')]
    omega
  · rcases Table.mem_cells_set hc' with rfl | hc'
    · exact ⟨r, Table.mem_of_get? (hr hx), hid, hd⟩
    · exact ⟨c.2, hc', rfl, id⟩

theorem Store.steady_erase (k : Nat) (hy : y.records = x.records.erase k) (hg : y.gens = x.gens) : x.Steady y := by
  unfold Store.Steady
  rw [hy]
  refine ⟨fun hw => Table.wf_erase hw k, hg, fun _ => ⟨?_, fun c hc => ⟨c.2, (List.mem_filter.mp hc).1, rfl, id⟩⟩⟩
  have : (x.records.erase k).values.Sublist x.records.values := (List.filter_sublist).map _
  exact (this.flatMap _).length_le

theorem Store.steady_map {f : PageRec → PageRec}
    (hf : ∀ q, (f q).id = q.id ∧ (f q).deferral = q.deferral ∧ (f q).chunks = q.chunks)
    (hy : y.records = x.records.mapValues f) (hg : y.gens = x.gens) : x.Steady y := by
  unfold Store.Steady
  rw [hy]
  refine ⟨fun hw => Table.wf_mapValues hw f, hg, fun _ => ⟨?_, fun c hc => ?_⟩⟩
  · rw [chunksTaken, chunksTaken, Table.values_mapValues, List.flatMap_map]
    have same : ∀ q, (f q).chunkList = q.chunkList := fun q => by
      unfold PageRec.chunkList
      rw [(hf q).2.2]
    simp only [same, Nat.le_refl]
  · obtain ⟨q, hq, rfl⟩ := List.mem_map.mp hc
    exact ⟨q.2, hq, (hf _).1, fun hd => by rw [(hf _).2.1]; exact hd⟩

/-! ### The whole -/

/-- What every operation but those that allocate, clear or count otherwise keeps. -/
structure State.Steady (s t : State) : Prop where
  hlc : s.hlc.Steady t.hlc
  store : s.store.Steady t.store
  acct : s.acct.Sized → t.acct.Sized
  rmat : s.rmat.Sized → t.rmat.Sized
  deferrals : s.wsch.deferrals ≤ Config.counterTop → t.wsch.deferrals ≤ Config.counterTop

theorem State.Steady.trans (a : s.Steady t) (b : t.Steady u) : s.Steady u :=
  ⟨a.hlc.trans b.hlc, a.store.trans b.store, b.acct ∘ a.acct, b.rmat ∘ a.rmat, b.deferrals ∘ a.deferrals⟩

theorem State.steady_of (hh : t.hlc = s.hlc) (hx : t.store = s.store) (ha : t.acct = s.acct)
    (hm : t.rmat = s.rmat) (hw : t.wsch.deferrals = s.wsch.deferrals) : s.Steady t := by
  refine ⟨?_, Store.steady_of (by rw [hx]) (by rw [hx]), by rw [ha]; exact id, by rw [hm]; exact id, by rw [hw]; exact id⟩
  exact Hlc.steady_of (by rw [hh]) (by rw [hh]) (by rw [hh]) (by rw [hh]) (by rw [hh]) (by rw [hh])

theorem State.Steady.after (b : t.Steady u) (a : s.Steady t) : s.Steady u := a.trans b

theorem State.Steady.refl (s : State) : s.Steady s := State.steady_of rfl rfl rfl rfl rfl

/-- Only the host line changes. -/
theorem State.steady_of_hlc (hh : s.hlc.Steady t.hlc) (hx : t.store = s.store) (ha : t.acct = s.acct)
    (hm : t.rmat = s.rmat) (hw : t.wsch.deferrals = s.wsch.deferrals) : s.Steady t :=
  ⟨hh, Store.steady_of (by rw [hx]) (by rw [hx]), by rw [ha]; exact id, by rw [hm]; exact id, by rw [hw]; exact id⟩

theorem State.steady_raise (s : State) (k : NoticeKind) (fs : List Field) : s.Steady (s.raise k fs) :=
  State.steady_of_hlc (s.hlc.steady_raise k fs true) rfl rfl rfl rfl

theorem State.steady_answer (s : State) (lines : List OutLine) : s.Steady (s.answer lines) :=
  State.steady_of_hlc (Hlc.steady_of rfl rfl rfl rfl rfl rfl) rfl rfl rfl rfl

theorem State.steady_settle (s : State) : s.Steady s.settle :=
  State.steady_of_hlc s.hlc.steady_settle rfl rfl rfl rfl

theorem State.steady_joinAwaiting (s : State) (m : MsgId) : s.Steady (s.joinAwaiting m) :=
  ⟨(State.Steady.refl s).hlc, (State.Steady.refl s).store, id, id, id⟩

theorem State.steady_leaveAwaiting (s : State) (m : MsgId) : s.Steady (s.leaveAwaiting m) :=
  ⟨(State.Steady.refl s).hlc, (State.Steady.refl s).store, id, id, id⟩

theorem State.steady_fileRec (s : State) (r : PageRec) : s.Steady (s.fileRec r) :=
  State.steady_of (by simp) (by simp) (by simp) (by simp) (by simp)

theorem State.steady_unfile (s : State) (r : PageRec) : s.Steady (s.unfile r) :=
  State.steady_of (by simp) (by simp) (by simp) (by simp) (by simp)

/-- The record a change is made of stands in the store. -/
def State.Holds (s : State) (r : PageRec) : Prop := s.Keyed → s.rec? r.id = some r

theorem State.Holds.congr (hr : s.Holds r) (ht : t.store.records = s.store.records) : t.Holds r := fun hK => by
  rw [State.rec?_congr ht]
  exact hr (hK.congr ht.symm)

theorem State.holds_of_rec? {m : MsgId} (h : s.rec? m = some r) : s.Holds r := fun _ => by
  rw [State.rec?_id h]
  exact h

theorem State.holds_putRec (s : State) (r : PageRec) : (s.putRec r).Holds r := fun _ => State.rec?_putRec_self _ _

theorem State.steady_putRec (hr : s.Holds r) (hid : r'.id = r.id) (hd : r.deferral ≤ 255 → r'.deferral ≤ 255)
    (hc : r'.chunkList.length ≤ r.chunkList.length) : s.Steady (s.putRec r') := by
  refine ⟨(State.Steady.refl s).hlc, ?_, id, id, id⟩
  exact Store.steady_set (fun hx => get?_of_rec? (hr hx)) hid hd hc (by rw [State.putRec_records, hid]) rfl

theorem State.steady_mapRecs (s : State) {f : PageRec → PageRec}
    (hf : ∀ q, (f q).id = q.id ∧ (f q).deferral = q.deferral ∧ (f q).chunks = q.chunks) : s.Steady (s.mapRecs f) :=
  ⟨(State.Steady.refl s).hlc, Store.steady_map hf rfl rfl, id, id, id⟩

/-! ### Conditions and congestion -/

theorem State.steady_judgeCongestion (s : State) : s.Steady s.judgeCongestion := by
  have judged : ∀ (b : Bool) (fs : List Field),
      s.Steady ({ s with store := { s.store with congested := b } }.raise .congestion fs) := fun b fs =>
    ⟨s.hlc.steady_raise _ fs true, Store.steady_of rfl rfl, id, id, id⟩
  unfold State.judgeCongestion
  simp only
  (repeat' split)
  · exact judged _ _
  · exact .refl s
  · exact judged _ _
  · exact .refl s

theorem State.steady_barTest (s : State) (n : Nat) : s.Steady (s.barTest n) := by
  unfold State.barTest
  (repeat' split)
  · exact .refl s
  · exact (State.steady_raise _ _ _).after (State.steady_of (by simp) (by simp) (by simp) (by simp) (by simp))
  · exact .refl s

theorem State.steady_unbarTest (s : State) (n : Nat) : s.Steady (s.unbarTest n) := by
  unfold State.unbarTest
  (repeat' split)
  · exact .refl s
  · exact (State.steady_raise _ _ _).after (State.steady_of (by simp) (by simp) (by simp) (by simp) (by simp))
  · exact .refl s

theorem State.steady_lowTest (s : State) (n : Nat) : s.Steady (s.lowTest n) := by
  unfold State.lowTest
  (repeat' split)
  · exact .refl s
  · exact (State.steady_raise _ _ _).after (State.steady_of (by simp) (by simp) (by simp) (by simp) (by simp))
  · exact .refl s

theorem State.steady_usageTest (s : State) (n : Nat) : s.Steady (s.usageTest n) := by
  unfold State.usageTest
  (repeat' split)
  · exact .refl s
  · exact (State.steady_raise _ _ _).after (State.steady_of (by simp) (by simp) (by simp) (by simp) (by simp))
  · exact .refl s

theorem State.steady_chargeTests (s : State) (n : Nat) (a b : Money) : s.Steady (s.chargeTests n a b) := by
  have low : s.Steady (if b.balance = a.balance then s.barTest n else (s.barTest n).lowTest n) := by
    split
    · exact s.steady_barTest n
    · exact (s.steady_barTest n).trans (State.steady_lowTest _ n)
  unfold State.chargeTests
  simp only
  split
  · exact low
  · exact low.trans (State.steady_usageTest _ n)

/-! ### The journal -/

theorem State.steady_judgeJournalHigh (s : State) : s.Steady s.judgeJournalHigh := by
  have latched : ∀ (b : Bool), s.Steady { s with acct := { s.acct with highLatch := b } } := fun b =>
    ⟨(State.Steady.refl s).hlc, (State.Steady.refl s).store, id, id, id⟩
  unfold State.judgeJournalHigh
  simp only
  (repeat' split)
  · exact .refl s
  · exact (latched true).trans (State.steady_raise _ _ _)
  · exact s.steady_raise _ _
  · exact latched false

theorem State.steady_writeRec (s : State) (j : JournalRec) : s.Steady (s.writeRec j) := by
  have appended : s.Steady { s with acct := s.acct.append j } := by
    refine ⟨(State.Steady.refl s).hlc, (State.Steady.refl s).store, fun ⟨ho, hl⟩ => ?_, id, id⟩
    show (s.acct.append j).Sized
    unfold Acct.append
    simp only
    (repeat' split)
    · exact ⟨ho, hl⟩
    · exact ⟨Nat.min_le_right _ _, hl⟩
    · exact ⟨ho, hl⟩
  exact appended.trans (State.steady_judgeJournalHigh _)

theorem State.steady_journal (s : State) (j : JournalRec) : s.Steady (s.journal j) := by
  have lost : s.Steady { s with acct := { s.acct with lost := riseTo Config.counterTop s.acct.lost } } :=
    ⟨(State.Steady.refl s).hlc, (State.Steady.refl s).store, fun ⟨ho, _⟩ => ⟨ho, Nat.min_le_right _ _⟩, id, id⟩
  unfold State.journal
  split
  · exact lost.trans (State.steady_raise _ _ _)
  · exact s.steady_writeRec j

theorem State.steady_setSub (s : State) (n : Nat) (e : Entry) : s.Steady (s.setSub n e) :=
  State.steady_of rfl rfl rfl rfl rfl

theorem State.steady_postCharge (s : State) (n a : Nat) (j : JournalRec) : s.Steady (s.postCharge n a j) := by
  unfold State.postCharge
  split
  · exact .refl s
  · split
    · exact s.steady_journal _
    · exact ((s.steady_setSub _ _).trans (State.steady_chargeTests _ _ _ _)).trans (State.steady_journal _ _)

theorem State.steady_postCredit (s : State) (n a : Nat) (j : JournalRec) : s.Steady (s.postCredit n a j) := by
  have rearmed : ∀ v : State, v.Steady (v.rearmLow n) := fun v =>
    State.steady_of (by simp) (by simp) (by simp) (by simp) (by simp)
  unfold State.postCredit
  split
  · exact .refl s
  · next e _ =>
    have credited := fun x => (s.steady_setSub n x).trans (State.steady_unbarTest _ n)
    simp only
    split
    · exact (credited _).trans (State.steady_journal _ _)
    · exact ((credited _).trans (rearmed _)).trans (State.steady_journal _ _)

theorem State.steady_closePeriod (s : State) (n : Nat) (e : Entry) : s.Steady (s.closePeriod n e) := by
  unfold State.closePeriod
  exact (s.steady_setSub _ _).trans (State.steady_writeRec _ _)

/-! ### Freeing (R32) and recovery (R31) -/

theorem State.steady_releaseReservation (s : State) (r : PageRec) : s.Steady (s.releaseReservation r) :=
  State.steady_of (by simp) (by simp) (by simp) (by simp) (by simp)

theorem State.steady_leavePlace (s : State) (r : PageRec) : s.Steady (s.leavePlace r) := by
  unfold State.leavePlace
  split
  · exact s.steady_unfile r
  · exact s.steady_unfile r
  · exact .refl s
  · exact s.steady_leaveAwaiting _
  · exact s.steady_leaveAwaiting _
  · exact State.steady_of (by simp) (by simp) (by simp) (by simp) (by simp)

theorem State.steady_dropRec (s : State) (r : PageRec) : s.Steady (s.dropRec r) := by
  refine State.Steady.after (t := s.modSub r.sub (fun e => { e with live := e.live - 1 }))
    ⟨(State.Steady.refl _).hlc, Store.steady_erase _ rfl rfl, id, id, id⟩ ?_
  exact State.steady_of (by simp) (by simp) (by simp) (by simp) (by simp)

theorem State.steady_freeRec (s : State) (r : PageRec) (o : PageOutcome) : s.Steady (s.freeRec r o) := by
  have released : ∀ v : State, v.Steady ((v.releaseTagOf r).releaseReservation r) := fun v =>
    State.steady_of (by simp) (by simp) (by simp) (by simp) (by simp)
  unfold State.freeRec
  exact ((((s.steady_raise _ _).trans (State.steady_leavePlace _ r)).trans (released _)).trans
    (State.steady_dropRec _ r)).trans (State.steady_judgeCongestion _)

theorem State.steady_recoverRec (s : State) (m : MsgId) : s.Steady (s.recoverRec m) := by
  unfold State.recoverRec
  split
  · next r hr =>
    have unheld : s.Steady (s.unholdRec r) := State.steady_of (by simp) (by simp) (by simp) (by simp) (by simp)
    have put : (s.unholdRec r).Steady ((s.unholdRec r).putRec r.recovered) :=
      by
      exact State.steady_putRec (r := r) ((State.holds_of_rec? hr).congr (by simp)) rfl id (Nat.le_refl _)
    exact (unheld.trans put).trans (State.steady_fileRec _ _)
  · exact .refl s

theorem State.steady_recoverAll (s : State) (n : Nat) : s.Steady (s.recoverAll n) := by
  unfold State.recoverAll
  split
  · next e he =>
    clear he
    induction e.held generalizing s with
    | nil => exact .refl s
    | cons m l ih => exact (s.steady_recoverRec m).trans (ih _)
  · exact .refl s

/-! ### Reports (R108 to R115) -/

theorem State.steady_deliverOut (hr : s.Holds r) (p : Report) : s.Steady (s.deliverOut r p) := by
  have raised : s.Steady (if r.state = .retryWait then (s.raiseDelivered r p false).unfile r
      else s.raiseDelivered r p false) := by
    split
    · exact .after (State.steady_unfile _ r) (s.steady_raise _ _)
    · exact s.steady_raise _ _
  have stands : State.Holds (if r.state = .retryWait then (s.raiseDelivered r p false).unfile r
      else s.raiseDelivered r p false) r := hr.congr (by split <;> simp)
  unfold State.deliverOut
  simp only
  revert raised stands
  generalize (if r.state = .retryWait then (s.raiseDelivered r p false).unfile r
      else s.raiseDelivered r p false) = v
  intro raised stands
  have put : ∀ q : PageRec, q.id = r.id → q.deferral = r.deferral → q.chunks = none → s.Steady (v.putRec q) :=
    fun q h1 h2 h3 => raised.trans (State.steady_putRec stands h1 (by rw [h2]; exact id)
      (by simp [PageRec.chunkList, h3]))
  split
  · exact .after (State.steady_freeRec _ _ _) (put _ rfl rfl rfl)
  · split
    · exact .after (State.steady_joinAwaiting _ _) (put _ rfl rfl rfl)
    · exact put _ rfl rfl rfl

theorem State.steady_deliverLate (hr : s.Holds r) (p : Report) : s.Steady (s.deliverLate r p) := by
  have put : ∀ q : PageRec, q.id = r.id → q.deferral = r.deferral → q.chunks = none →
      s.Steady ((s.raiseDelivered r p true).putRec q) := fun q h1 h2 h3 => by
    refine .after (State.steady_putRec (r := r) hr h1 ?_ ?_) (s.steady_raise _ _)
    · rw [h2]; exact id
    · simp [PageRec.chunkList, h3]
  unfold State.deliverLate
  simp only
  split <;> exact put _ rfl rfl rfl

theorem State.steady_readRec (hr : s.Holds r) : s.Steady (s.readRec r) := by
  have charged : ∀ (a : Nat) (j : JournalRec) (k : Nat),
      s.Steady ((s.postCharge r.sub a j).putRec { r with posted := k }) := by
    intro a j k
    exact .after (State.steady_putRec (r := r) (hr.congr (by simp)) rfl id (Nat.le_refl _)) (s.steady_postCharge _ a j)
  unfold State.readRec
  split
  · exact .refl s
  · simp only
    split
    · exact s.steady_freeRec _ _
    · exact .after (State.steady_freeRec _ _ _) (charged _ _ _)

theorem State.steady_deliverRead (hr : s.Holds r) (p : Report) : s.Steady (s.deliverRead r p) := by
  have raised : s.Steady (if r.state = .retryWait then ((s.raiseDelivered r p false).unfile r).joinAwaiting r.id
      else s.raiseDelivered r p false) := by
    split
    · exact .after (State.steady_joinAwaiting _ _) (.after (State.steady_unfile _ r) (s.steady_raise _ _))
    · exact s.steady_raise _ _
  have stands : State.Holds (if r.state = .retryWait then ((s.raiseDelivered r p false).unfile r).joinAwaiting r.id
      else s.raiseDelivered r p false) r := hr.congr (by split <;> simp)
  unfold State.deliverRead
  refine .after (State.steady_readRec (State.holds_putRec _ _)) (.after ?_ raised)
  exact State.steady_putRec stands rfl id (Nat.zero_le _)

/-- The counters of RMAT rise to their top at most. -/
theorem State.steady_counts (s : State) :
    s.Steady s.countUnknown ∧ s.Steady s.countUnexpected ∧ s.Steady s.countStale ∧ s.Steady s.countDuplicate := by
  have same := State.Steady.refl s
  refine ⟨⟨same.hlc, same.store, id, fun ⟨_, h2, h3, h4⟩ => ⟨Nat.min_le_right _ _, h2, h3, h4⟩, id⟩,
    ⟨same.hlc, same.store, id, fun ⟨h1, _, h3, h4⟩ => ⟨h1, Nat.min_le_right _ _, h3, h4⟩, id⟩,
    ⟨same.hlc, same.store, id, fun ⟨h1, h2, _, h4⟩ => ⟨h1, h2, Nat.min_le_right _ _, h4⟩, id⟩,
    ⟨same.hlc, same.store, id, fun ⟨h1, h2, h3, _⟩ => ⟨h1, h2, h3, Nat.min_le_right _ _⟩, id⟩⟩

theorem State.Keyed.tagHolder (hK : s.Keyed) {n : Nat} {g : PageTag} (hr : s.tagHolder n g = some r) :
    s.rec? r.id = some r := hK.rec?_of_mem (List.mem_of_find?_eq_some hr)

theorem State.holds_tagHolder {n : Nat} {g : PageTag} (hr : s.tagHolder n g = some r) : s.Holds r :=
  fun hK => hK.tagHolder hr

theorem State.steady_heard (s : State) (n : Nat) (p : Report) : s.Steady (s.heard n p) := by
  unfold State.heard
  split
  · exact s.steady_counts.2.2.1
  · next r hr =>
    have hr := State.holds_tagHolder hr
    split
    · split
      · exact s.steady_freeRec r _
      · exact State.steady_deliverOut hr p
    · exact State.steady_deliverOut hr p
    · exact State.steady_deliverLate hr p
    · exact s.steady_counts.2.2.2
    · exact s.steady_counts.2.2.1
    · exact s.steady_counts.2.2.1

theorem State.steady_readReport (s : State) (n : Nat) (p : Report) : s.Steady (s.readReport n p) := by
  unfold State.readReport
  split
  · exact s.steady_counts.2.2.1
  · next r hr =>
    have hr := State.holds_tagHolder hr
    split
    · split
      · exact s.steady_freeRec r _
      · exact State.steady_deliverRead hr p
    · exact State.steady_deliverRead hr p
    · exact (State.steady_deliverLate hr p).trans (State.steady_counts _).2.2.1
    · split
      · exact State.steady_readRec hr
      · exact s.steady_counts.2.2.1
    · exact s.steady_counts.2.2.1
    · exact s.steady_counts.2.2.1

theorem State.steady_takeReport (s : State) (p : Report) : s.Steady (s.takeReport p) := by
  unfold State.takeReport
  split
  · exact s.steady_counts.1
  · next n _ =>
    split
    · exact s.steady_counts.1
    · split
      · exact s.steady_counts.2.1
      · have set := fun x : Entry => s.steady_setSub n x
        simp only [State.byKind]
        split
        · exact (set _).trans (State.steady_heard _ n p)
        · exact (set _).trans (State.steady_readReport _ n p)
        · exact (set _).trans (State.steady_recoverAll _ n)
        · split
          · exact (set _).trans (State.steady_recoverAll _ n)
          · exact set _

/-! ### Airings, expiries and the window boundary -/

theorem State.steady_airPost (s : State) (im : Image) (r : PageRec) (e : Entry) : s.Steady (s.airPost im r e).1 := by
  have released : s.Steady s.releaseAir := by
    unfold State.releaseAir
    split
    · exact ⟨(State.Steady.refl s).hlc, (State.Steady.refl s).store, id, id, id⟩
    · exact .refl s
  have counted : ∀ a j c, s.Steady ((s.releaseAir.postCharge r.sub a j).countPage r.sub c) := fun a j c =>
    State.Steady.trans (released.trans (s.releaseAir.steady_postCharge r.sub a j))
      (State.steady_of (by simp) (by simp) (by simp) (by simp) (by simp))
  unfold State.airPost
  simp only
  split
  · exact .after (State.steady_releaseReservation _ _) (counted _ _ _)
  · exact counted _ _ _

theorem State.steady_airMove {q : PageRec} (hr : s.Holds r) (hid : q.id = r.id) (hd : q.deferral = r.deferral)
    (hc : q.chunks = r.chunks) (e : Entry) : s.Steady (s.airMove q e) := by
  have put : ∀ q' : PageRec, q'.id = q.id → q'.deferral = q.deferral → q'.chunks = q.chunks →
      s.Steady (s.putRec q') := fun q' h1 h2 h3 =>
    State.steady_putRec hr (h1.trans hid) (by rw [h2, hd]; exact id) (by unfold PageRec.chunkList; rw [h3, hc])
  unfold State.airMove
  simp only
  split
  · split
    · exact .after (State.steady_freeRec _ _ _) (put _ rfl rfl rfl)
    · exact .after (State.steady_joinAwaiting _ _) (put _ rfl rfl rfl)
  all_goals
    split
    · exact .after (State.steady_joinAwaiting _ _) (put _ rfl rfl rfl)
    · split
      · exact .after (State.steady_fileRec _ _) (put _ rfl rfl rfl)
      · exact .after (State.steady_freeRec _ _ _) (put _ rfl rfl rfl)

/-- The posting of an airing leaves the record's place in the store and its chunks alone. -/
theorem State.airPost_rec (s : State) (im : Image) (r : PageRec) (e : Entry) :
    (s.airPost im r e).2.id = r.id ∧ (s.airPost im r e).2.deferral = r.deferral ∧
      (s.airPost im r e).2.chunks = r.chunks := by
  unfold State.airPost
  simp only
  split <;> exact ⟨rfl, rfl, rfl⟩

theorem State.steady_airOne (s : State) (im : Image) (m : MsgId) : s.Steady (s.airOne im m) := by
  unfold State.airOne
  split
  · exact .refl s
  · next r hr =>
    split
    · exact .refl s
    · next e _ =>
      obtain ⟨hid, hd, hc⟩ := s.airPost_rec im r e
      refine (s.steady_airPost im r e).trans (State.steady_airMove (r := r) ?_ hid hd hc e)
      exact (State.holds_of_rec? hr).congr (by simp)

theorem State.steady_expire (hr : s.Holds r) : s.Steady (s.expire r) := by
  have put : ∀ q : PageRec, q.id = r.id → q.deferral = r.deferral → q.chunks = r.chunks →
      s.Steady ((s.leaveAwaiting r.id).putRec q) := fun q h1 h2 h3 =>
    (s.steady_leaveAwaiting _).trans (State.steady_putRec (r := r) hr h1 (by rw [h2]; exact id)
      (by unfold PageRec.chunkList; rw [h3]))
  have placed : ∀ (v : State) (q : PageRec), v.Steady ((v.holdRec q).releaseTagOf r) := fun v q =>
    State.steady_of (by simp) (by simp) (by simp) (by simp) (by simp)
  unfold State.expire
  split
  · exact s.steady_freeRec _ _
  · split
    · exact .after (State.steady_fileRec _ _) (put _ rfl rfl rfl)
    · unfold State.miss State.postRefund
      simp only
      refine .after (State.steady_raise _ _ _) ?_
      split
      · exact .after (placed _ _) (put _ rfl rfl rfl)
      · split
        · exact .after (placed _ _) (put _ rfl rfl rfl)
        · exact .after (State.steady_postCredit _ _ _ _) (.after (placed _ _) (put _ rfl rfl rfl))

theorem State.steady_rateRoundStart (s : State) : s.Steady s.rateRoundStart := by
  have applied : ∀ t, s.Steady (s.applyTariff t) := fun t => (State.steady_raise _ _ _).after
    (State.steady_of rfl rfl rfl rfl rfl)
  have pending : s.Steady (match s.rate.pending with
      | some (t, .next) => s.applyTariff t
      | some (t, .atRound r) => if r = s.aclk.round then s.applyTariff t else s
      | none => s) := by
    split
    · exact applied _
    · split
      · exact applied _
      · exact .refl s
    · exact .refl s
  unfold State.rateRoundStart
  simp only
  split
  · exact pending.trans (State.steady_of rfl rfl rfl rfl rfl)
  · exact pending

theorem PageRec.roundLowered_keeps (l : List MsgId) (q : PageRec) : (q.roundLowered l).id = q.id ∧
    (q.roundLowered l).deferral = q.deferral ∧ (q.roundLowered l).chunks = q.chunks := by
  unfold PageRec.roundLowered
  (repeat' split) <;> exact ⟨rfl, rfl, rfl⟩

theorem PageRec.windowLowered_keeps (q : PageRec) : q.windowLowered.id = q.id ∧
    q.windowLowered.deferral = q.deferral ∧ q.windowLowered.chunks = q.chunks := by
  unfold PageRec.windowLowered
  split <;> exact ⟨rfl, rfl, rfl⟩

theorem State.steady_roundStart (s : State) : s.Steady s.roundStart := by
  unfold State.roundStart
  simp only
  have aged : ∀ v : State, v.Steady { v with subs := v.subs.mapValues Entry.aged } := fun v =>
    State.steady_of rfl rfl rfl rfl rfl
  exact (s.steady_rateRoundStart.trans (aged _)).trans (State.steady_mapRecs _ (PageRec.roundLowered_keeps _))

theorem State.steady_windowStart (s : State) : s.Steady s.windowStart := by
  have built : ∀ (v : State) (f : ZoneCell → ZoneCell) r w,
      v.Steady (State.beginBuild { v with wsch := v.wsch.putOnAir, txi := v.txi.map f } r w) := fun v f r w =>
    State.steady_of rfl rfl rfl rfl rfl
  have lowered : ∀ v : State, v.Steady (v.mapRecs PageRec.windowLowered) := fun v =>
    v.steady_mapRecs PageRec.windowLowered_keeps
  have issued : s.Steady { s with aclk := { s.aclk with holding := .none_ } } := State.steady_of rfl rfl rfl rfl rfl
  unfold State.windowStart
  simp only
  split
  · exact ((issued.trans (State.steady_roundStart _)).trans (lowered _)).trans (built _ _ _ _)
  · exact (issued.trans (lowered _)).trans (built _ _ _ _)

theorem State.steady_startOrHold (s : State) : s.Steady s.startOrHold := by
  unfold State.startOrHold
  split
  · exact s.steady_windowStart
  · exact State.steady_of rfl rfl rfl rfl rfl

theorem State.steady_withdrawRec (s : State) (m : MsgId) : s.Steady (s.withdrawRec m) := by
  unfold State.withdrawRec
  split
  · exact .refl s
  · next r hr =>
    have hr := State.holds_of_rec? hr
    have put : ∀ q : PageRec, q.id = r.id → q.deferral = r.deferral → q.chunks = r.chunks →
        s.Steady (s.putRec q) := fun q h1 h2 h3 =>
      State.steady_putRec hr h1 (by rw [h2]; exact id) (by unfold PageRec.chunkList; rw [h3])
    split
    · simp only
      split
      · have untagged : s.Steady (s.releaseTagOf r) := State.steady_of (by simp) (by simp) (by simp) (by simp) (by simp)
        have stands : (s.releaseTagOf r).Holds r := hr.congr (by simp)
        refine .after (State.steady_fileRec _ _) (.after ?_ untagged)
        exact State.steady_putRec stands rfl id (Nat.le_refl _)
      · exact .after (State.steady_fileRec _ _) (put _ rfl rfl rfl)
    · simp only
      split
      · exact .after (State.steady_freeRec _ _ _) (put _ rfl rfl rfl)
      · exact .after (State.steady_joinAwaiting _ _) (put _ rfl rfl rfl)
    all_goals exact .refl s

theorem State.steady_withdrawImage (s : State) : s.Steady s.withdrawImage := by
  have all : ∀ (l : List MsgId) (v : State), v.Steady (l.foldl State.withdrawRec v) := by
    intro l
    induction l with
    | nil => exact fun v => .refl v
    | cons m l ih => exact fun v => (v.steady_withdrawRec m).trans (ih _)
  unfold State.withdrawImage
  split
  · exact .refl s
  · next b _ =>
    refine (all b.image.order s).trans ?_
    exact ⟨(State.Steady.refl _).hlc, (State.Steady.refl _).store, id, id, id⟩

theorem State.steady_deferRec (hr : s.Holds r) : s.Steady (s.deferRec r) := by
  have put : s.Steady (s.putRec { r with deferral := riseTo 255 r.deferral }) :=
    State.steady_putRec hr rfl (fun _ => Nat.min_le_right _ _) (Nat.le_refl _)
  exact ⟨put.hlc, put.store, put.acct, put.rmat, fun _ => Nat.min_le_right _ _⟩

theorem State.steady_placeRec (hr : s.Holds r) (b : Build) (e : Entry) (zones : ZoneSet)
    (runs : List (Zone × Nat)) : s.Steady (s.placeRec b r e zones runs) := by
  have stands : (s.unfile r).Holds r := hr.congr (by simp)
  have reserved : ∀ v : State, v.Steady v.reserveAir := fun v => by
    unfold State.reserveAir
    split
    · exact ⟨(State.Steady.refl v).hlc, (State.Steady.refl v).store, id, id, id⟩
    · exact .refl v
  have built : ∀ (v : State) (c : Build), v.Steady (v.setBuild c) := fun v c => State.steady_of rfl rfl rfl rfl rfl
  have put := (s.steady_unfile r).trans (State.steady_putRec (r' := r.placedIn b.image zones runs (placementTag r e))
    stands rfl id (Nat.le_refl _))
  unfold State.placeRec
  simp only
  split
  · exact ((put.trans (State.steady_setSub _ _ _)).trans (reserved _)).trans (built _ _)
  · exact (put.trans (reserved _)).trans (built _ _)

theorem State.steady_walk (hr : s.Holds r) (b : Build) : s.Steady (s.walk b r) := by
  have built : ∀ (v : State) (c : Build), v.Steady (v.setBuild c) := fun v c => State.steady_of rfl rfl rfl rfl rfl
  have stands : ∀ c : Build, (s.setBuild c).Holds r := fun _ => hr
  have deferred : ∀ c : Build, s.Steady ((s.setBuild c).deferRec r) := fun c =>
    (built s c).trans (State.steady_deferRec (stands c))
  unfold State.walk
  simp only
  split
  · exact built _ _
  · split
    · exact built _ _
    · split
      · exact (built _ _).trans (State.steady_putRec (stands _) rfl id (Nat.le_refl _))
      · unfold State.offer
        simp only
        (repeat' split)
        · exact deferred _
        · exact deferred _
        · exact deferred _
        · exact (deferred _).trans (built _ _)
        · unfold State.deferOversize
          simp only
          split
          · exact deferred _
          · refine .after (State.steady_raise _ _ _) (.after ?_ (deferred { b with reached := some r.queuePlace }))
            exact State.steady_of rfl rfl rfl rfl rfl
        · exact deferred _
        · exact (built _ _).trans (State.steady_placeRec (stands _) _ _ _ _)

theorem State.steady_visit (s : State) (w : Sweep) : s.Steady (s.visit w) := by
  have on : ∀ (v : State) (c k : Nat), v.Steady (v.sweepOn c k) := by
    intro v c k
    have swept : ∀ o, v.Steady { v with acct := { v.acct with sweep := o } } := fun o =>
      ⟨(State.Steady.refl v).hlc, (State.Steady.refl v).store, id, id, id⟩
    unfold State.sweepOn
    split
    · exact swept _
    · exact (swept none).trans (State.steady_raise _ _ _)
  unfold State.visit
  split
  · exact on _ _ _
  · split
    · exact ⟨(State.Steady.refl s).hlc, (State.Steady.refl s).store, id, id, id⟩
    · exact (s.steady_closePeriod _ _).trans (on _ _ _)

/-! ### The links and the detector -/

theorem State.steady_noise (s : State) : s.Steady s.noise := State.steady_of rfl rfl rfl rfl rfl

theorem State.steady_joinReplies (s : State) (p : Report) : s.Steady (s.joinReplies p) := by
  unfold State.joinReplies
  split
  · exact State.steady_of rfl rfl rfl rfl rfl
  · exact (State.steady_raise _ _ _).after (State.steady_of rfl rfl rfl rfl rfl)

theorem State.steady_rxByte (s : State) (l : LinkNo) (b : Byte) : s.Steady (State.rxByte l s b) := by
  have linked : ∀ x : RxLink, s.Steady (s.setLink l x) := fun _ => State.steady_of rfl rfl rfl rfl rfl
  unfold State.rxByte
  split
  · split
    · exact linked _
    · exact .refl s
  · split
    · exact linked _
    · unfold State.judgeFrame
      split
      · exact linked _
      · split
        · split
          · unfold State.filterReport
            split
            · exact (linked _).trans (State.steady_noise _)
            · exact (linked _).trans (State.steady_joinReplies _ _)
          · exact (linked _).trans (State.steady_noise _)
        · exact (linked _).trans (State.steady_noise _)

theorem State.steady_received (s : State) (l : LinkNo) (bytes : List Byte) :
    s.Steady (bytes.foldl (State.rxByte l) s) := by
  induction bytes generalizing s with
  | nil => exact .refl s
  | cons b bs ih => exact (s.steady_rxByte l b).trans (ih _)

theorem State.steady_raiseLock (s : State) (entering : Bool) : s.Steady (s.raiseLock entering) :=
  State.steady_of_hlc (s.hlc.steady_raise _ _ _) rfl rfl rfl rfl

theorem State.steady_unlock (s : State) : s.Steady s.unlock := by
  unfold State.unlock
  simp only
  split
  · exact (State.steady_raiseLock _ _).after (State.steady_of rfl rfl rfl rfl rfl)
  · exact State.steady_of rfl rfl rfl rfl rfl

theorem State.steady_goodGroup (s : State) : s.Steady s.goodGroup := by
  unfold State.goodGroup
  (repeat' split)
  · exact State.steady_of rfl rfl rfl rfl rfl
  · exact State.steady_of rfl rfl rfl rfl rfl
  · exact (State.steady_raiseLock _ _).after (State.steady_of rfl rfl rfl rfl rfl)
  · exact .refl s

theorem State.steady_countStrobe (s : State) (good : Bool) : s.Steady (s.countStrobe good) := by
  unfold State.countStrobe
  simp only
  (repeat' split)
  · exact State.steady_of rfl rfl rfl rfl rfl
  · exact (State.steady_unlock _).after (State.steady_of rfl rfl rfl rfl rfl)
  · exact (State.steady_goodGroup _).after (State.steady_of rfl rfl rfl rfl rfl)

theorem State.steady_restartDetector (s : State) : s.Steady s.restartDetector :=
  (State.steady_unlock _).after (State.steady_of rfl rfl rfl rfl rfl)

end Sys2Proof.Machine
end

section
/-! What every command and event keeps of the tables, the settings and the capacities (O57, the first half). -/

namespace Sys2Proof.Machine

variable {s t u : State} {fs : List RawField}

/-! ### Acceptance -/

/-- What a SUBMIT that passes its checks has found (R22, R24). -/
theorem checkSubmit_eq_ok {a : SubmitArgs} (h : checkSubmit s fs = .ok a) :
    ∃ e, s.sub? a.sub = some e ∧ e.live < (s.plan e.plan).maxPages ∧ s.freeRecords ≠ 0 ∧
      chunksFor a.text.length ≤ s.freeChunks := by
  unfold checkSubmit at h
  obtain ⟨_, _, h⟩ := Except.bind_eq_ok_iff.mp h
  obtain ⟨enc, _, h⟩ := Except.bind_eq_ok_iff.mp h
  obtain ⟨n, _, h⟩ := Except.bind_eq_ok_iff.mp h
  obtain ⟨e, he, h⟩ := Except.bind_eq_ok_iff.mp h
  obtain ⟨_, _, h⟩ := Except.bind_eq_ok_iff.mp h
  obtain ⟨_, _, h⟩ := Except.bind_eq_ok_iff.mp h
  obtain ⟨_, _, h⟩ := Except.bind_eq_ok_iff.mp h
  obtain ⟨_, hlimit, h⟩ := Except.bind_eq_ok_iff.mp h
  obtain ⟨_, _, h⟩ := Except.bind_eq_ok_iff.mp h
  obtain ⟨_, hfree, h⟩ := Except.bind_eq_ok_iff.mp h
  obtain ⟨_, hchunks, h⟩ := Except.bind_eq_ok_iff.mp h
  obtain ⟨_, _, h⟩ := Except.bind_eq_ok_iff.mp h
  cases h
  exact ⟨e, presentEntry_eq_ok_iff.mp he, by simpa using refuseIf_eq_ok_iff.mp hlimit,
    by simpa using refuseIf_eq_ok_iff.mp hfree, by simpa using refuseIf_eq_ok_iff.mp hchunks⟩

theorem lowestVacant_le {α : Type} (l : List (Nat × α)) (k : Nat) : lowestVacant k l ≤ k + l.length := by
  induction l generalizing k with
  | nil => exact Nat.le_refl k
  | cons c cs ih =>
    unfold lowestVacant
    split
    · have := ih (k + 1)
      rw [List.length_cons]
      omega
    · exact Nat.le_add_right _ _

/-- The lowest free slot of a store that is not full is one of 0-2047. -/
theorem State.lowest_lt (h : s.freeRecords ≠ 0) : s.store.records.lowest < Config.slots := by
  have := lowestVacant_le s.store.records.cells 0
  unfold State.freeRecords Table.count at h
  unfold Table.lowest
  omega

theorem State.length_usedChunks (s : State) : s.usedChunks.length = chunksTaken s.store.records := by
  simp [State.usedChunks, chunksTaken, State.live, List.length_flatMap]

/-- What an acceptance leaves: one record more, in the lowest free slot, and nothing else of the store but the
generation of that slot. -/
theorem applySubmit_store (tag : Nat) {a : SubmitArgs} {e : Entry} (he : s.sub? a.sub = some e) :
    (applySubmit tag a s).store.records =
        s.store.records.set s.store.records.lowest (a.record s e s.nextId) ∧
      (applySubmit tag a s).store.gens =
        s.store.gens.setGen s.store.records.lowest (s.generation s.store.records.lowest + 1) := by
  unfold applySubmit
  rw [he]
  simp [State.allocate, SubmitArgs.record, State.nextId]

theorem applySubmit_hlc (tag : Nat) (a : SubmitArgs) (s : State) : s.hlc.Steady (applySubmit tag a s).hlc := by
  unfold applySubmit
  split
  · exact (State.Steady.refl s).hlc
  · refine Hlc.Steady.trans ?_ (State.steady_answer _ _).hlc
    refine Hlc.Steady.trans ?_ (State.steady_fileRec _ _).hlc
    refine Hlc.Steady.trans ?_ (State.steady_judgeCongestion _).hlc
    exact (State.Steady.refl s).hlc

theorem applySubmit_frame (tag : Nat) (a : SubmitArgs) (s : State) :
    (applySubmit tag a s).acct = s.acct ∧ (applySubmit tag a s).rmat = s.rmat ∧
      (applySubmit tag a s).wsch.deferrals = s.wsch.deferrals ∧ (applySubmit tag a s).rxi = s.rxi ∧
      (applySubmit tag a s).txi = s.txi ∧ (applySubmit tag a s).aclk = s.aclk ∧
      (applySubmit tag a s).plans = s.plans ∧ (applySubmit tag a s).office = s.office ∧
      (applySubmit tag a s).wsch.build = s.wsch.build ∧ (applySubmit tag a s).wsch.onAir = s.wsch.onAir ∧
      (applySubmit tag a s).rate = s.rate := by
  unfold applySubmit
  split
  · simp
  · simp [State.allocate]

/-! ### What a command and an event keep of queues, counters and records -/

theorem Hlc.steady_setLevel (h : Hlc) (k : NoticeKind) (new : Fin 4) : h.Steady (h.setLevel k new) := by
  refine ⟨fun ⟨hb, hn, hl, hd⟩ => ?_, fun hi => hi.setLevel k new⟩
  have shorter : ∀ p : Notice → Bool, (h.notices.filter p).length ≤ Config.notices := fun p =>
    Nat.le_trans (List.length_filter_le _ _) hn
  unfold Hlc.setLevel
  simp only
  (repeat' split)
  · exact ⟨hb, hn, hl, hd⟩
  · refine ⟨?_, Hlc.length_place _ _ _ hn, ?_, Hlc.dropped_place _ _ _ hd⟩
    · rw [(Hlc.place_frame _ _ _).2.1]; exact hb
    · rw [(Hlc.place_frame _ _ _).2.2.1]; exact hl
  · exact ⟨hb, hn, hl, hd⟩
  · exact ⟨hb, shorter _, hl, hd⟩
  · refine ⟨hb, ?_, hl, hd⟩
    have length_fold : ∀ (lv : NoticeKind → Nat) (own others : List Notice),
        (own.foldl (fun q n => insertNotice lv n q) others).length = own.length + others.length := by
      intro lv own
      induction own with
      | nil => intro others; simp
      | cons n ns ih =>
        intro others
        rw [List.foldl_cons, ih, length_insertNotice, List.length_cons]
        omega
    have parts := List.length_eq_length_filter_add (l := h.notices) (fun n => n.kind == k)
    refine Nat.le_trans (Nat.le_of_eq (length_fold _ _ _)) ?_
    simp only [bne]
    omega

/-- What an operation keeps, it keeps when it changes only other parts besides. -/
theorem State.Steady.congr (h : s.Steady t) (hh : u.hlc = t.hlc) (hx : u.store = t.store) (ha : u.acct = t.acct)
    (hm : u.rmat = t.rmat) (hw : u.wsch.deferrals = t.wsch.deferrals) : s.Steady u :=
  h.trans (State.steady_of hh hx ha hm hw)

theorem State.Steady.answer (h : s.Steady t) {lines : List OutLine} : s.Steady (t.answer lines) :=
  h.trans (t.steady_answer lines)

theorem State.Effect.steady (he : s.Effect u) : s.Steady u ∨ ∃ tag fs a, checkSubmit s fs = .ok a ∧ u = applySubmit tag a s := by
  cases he with
  | @submit tag fs a hc => exact .inr ⟨tag, fs, a, hc, rfl⟩
  | denied tag d =>
    refine .inl ?_
    cases d with
    | missing key more =>
      cases more with
      | nil => exact s.steady_answer _
      | cons k ks => exact .after (State.steady_answer _ _) (State.steady_of rfl rfl rfl rfl rfl)
    | _ => exact s.steady_answer _
  | answered lines => exact .inl (s.steady_answer lines)
  | subAdd tag hc => exact .inl (State.Steady.answer (s.steady_setSub _ _))
  | subSet tag hc =>
    refine .inl (State.Steady.answer ?_)
    unfold State.floorTests
    (repeat' split)
    · exact .after (State.steady_barTest _ _) (s.steady_setSub _ _)
    · exact .after (State.steady_unbarTest _ _) (s.steady_setSub _ _)
    · exact s.steady_setSub _ _
    · exact s.steady_setSub _ _
  | subState tag st hc => exact .inl (State.Steady.answer (s.steady_setSub _ _))
  | subRemove tag hc =>
    refine .inl (State.Steady.answer ?_)
    exact (s.steady_writeRec (closeRec s _ _)).congr rfl rfl rfl rfl rfl
  | cancel tag hc =>
    refine .inl ?_
    have hr := State.holds_of_rec? (namedRecord_eq_ok hc)
    unfold applyCancel
    split
    · exact State.Steady.answer (s.steady_freeRec _ _)
    · exact State.Steady.answer (s.steady_freeRec _ _)
    · exact s.steady_answer _
    · refine State.Steady.answer ?_
      exact State.steady_putRec hr rfl id (Nat.le_refl _)
    · exact s.steady_answer _
    · exact State.Steady.answer (s.steady_freeRec _ _)
  | heldRelease tag hc => exact .inl (State.Steady.answer (s.steady_recoverAll _))
  | airStop tag hc =>
    refine .inl ?_
    unfold applyAirStop
    simp only
    split
    · exact .refl s
    · exact State.Steady.answer (t := stopStarting s) (s.steady_withdrawImage.congr rfl rfl rfl rfl rfl)
    · refine State.Steady.answer ?_
      unfold stopRunning
      simp only
      (repeat' split) <;> exact s.steady_withdrawImage.congr rfl rfl rfl rfl rfl
    · exact s.steady_answer _
  | zoneGet tag fs =>
    refine .inl ?_
    unfold applyZoneGet
    simp only
    (repeat' split)
    · exact (s.steady_answer _).congr rfl rfl rfl rfl rfl
    · exact s.steady_answer _
    · exact s.steady_answer _
  | tariffLoad tag hc =>
    refine .inl ?_
    unfold applyTariffLoad
    simp only
    split
    · refine State.Steady.answer (.after (State.steady_raise _ _ _) ?_)
      exact State.steady_of rfl rfl rfl rfl rfl
    · refine State.Steady.answer ?_
      exact State.steady_of rfl rfl rfl rfl rfl
  | bandSet tag b =>
    refine .inl ?_
    unfold applyBandSet
    split <;>
    · refine State.Steady.answer ?_
      exact State.steady_of rfl rfl rfl rfl rfl
  | money tag hk hc =>
    refine .inl ?_
    unfold applyMoney
    simp only
    split
    · exact .refl s
    · split
      · exact State.Steady.answer (s.steady_postCredit _ _ _)
      · exact State.Steady.answer (s.steady_postCharge _ _ _)
  | billRead tag count =>
    refine .inl ?_
    unfold applyBillRead
    simp only
    (repeat' split) <;>
    exact ⟨Hlc.steady_of rfl rfl rfl rfl rfl rfl, Store.steady_of rfl rfl, fun h => ⟨Nat.zero_le _, h.2⟩, id, id⟩
  | billRewind tag hc =>
    refine .inl ?_
    unfold applyBillRewind
    split
    · exact .after (State.steady_judgeJournalHigh _) (s.steady_answer _)
    · refine .after (State.steady_judgeJournalHigh _) (State.Steady.answer ?_)
      exact ⟨(State.Steady.refl s).hlc, (State.Steady.refl s).store, id, id, id⟩
  | periodClose tag hc => exact .inl (State.Steady.answer (s.steady_closePeriod _ _))
  | periodCloseAll tag =>
    refine .inl (State.Steady.answer ?_)
    exact ⟨(State.Steady.refl s).hlc, (State.Steady.refl s).store, id, id, id⟩
  | noticeLevels tag fs =>
    refine .inl ?_
    unfold applyLevels
    split
    · exact s.steady_answer _
    · refine State.Steady.answer ?_
      have fold : ∀ (l : List (NoticeKind × Fin 4)) (h : Hlc),
          h.Steady (l.foldl (fun (h : Hlc) c => h.setLevel c.1 c.2) h) := by
        intro l
        induction l with
        | nil => exact fun h => Hlc.steady_of rfl rfl rfl rfl rfl rfl
        | cons c cs ih => exact fun h => (h.steady_setLevel _ _).trans (ih _)
      exact State.steady_of_hlc (fold _ _) rfl rfl rfl rfl
  | status tag fs =>
    refine .inl ?_
    unfold applyStatus
    simp only
    split
    · exact s.steady_answer _
    · refine .after (t := s.report tag (statusLines s) []) ?_ (s.steady_answer _)
      refine ⟨⟨fun h => ⟨h.1, h.2.1, Nat.zero_le _, Nat.zero_le _⟩, id⟩, (State.Steady.refl _).store,
        fun h => ⟨h.1, Nat.zero_le _⟩, fun _ => ?_, fun _ => Nat.zero_le _⟩
      exact ⟨Nat.zero_le _, Nat.zero_le _, Nat.zero_le _, Nat.zero_le _⟩
  | officeSet tag hc =>
    refine .inl ?_
    unfold applyOfficeSet
    simp only
    refine State.Steady.answer ?_
    have taken : ∀ o : Office, s.Steady { s with office := o } := fun o => State.steady_of rfl rfl rfl rfl rfl
    (repeat' split)
    · exact taken _
    · exact .after (State.steady_judgeCongestion _) (taken _)
    · exact .after (State.steady_restartDetector _) (taken _)
    · exact .after (State.steady_judgeCongestion _) (.after (State.steady_restartDetector _) (taken _))
  | restart tag hc =>
    refine .inl (State.Steady.answer ?_)
    refine ⟨⟨fun h => ⟨h.1, Nat.zero_le _, Nat.zero_le _, Nat.zero_le _⟩, fun _ => ?_⟩,
      ⟨fun _ => Table.wf_nil, rfl, fun _ => ⟨Nat.zero_le _, fun _ hc => nomatch hc⟩⟩, fun h => ⟨h.1, Nat.zero_le _⟩,
      fun _ => ⟨Nat.zero_le _, Nat.zero_le _, Nat.zero_le _, Nat.zero_le _⟩, fun _ => Nat.zero_le _⟩
    exact ⟨.nil, .nil, fun _ hn => nomatch hn⟩
  | planSet tag hc =>
    refine .inl (State.Steady.answer ?_)
    exact State.steady_of rfl rfl rfl rfl rfl
  | airStart tag hc =>
    refine .inl (State.Steady.answer ?_)
    exact State.steady_of rfl rfl rfl rfl rfl
  | zoneSet tag hc =>
    refine .inl (State.Steady.answer ?_)
    exact State.steady_of rfl rfl rfl rfl rfl

theorem State.Event.steady (he : s.Event u) : s.Steady u := by
  cases he with
  | offered l =>
    refine State.steady_of_hlc ?_ rfl rfl rfl rfl
    unfold Hlc.offer
    split
    · next hlt =>
      refine ⟨fun h => ⟨?_, h.2⟩, id⟩
      rw [List.length_append, List.length_singleton]
      exact hlt
    · exact Hlc.steady_of rfl rfl rfl rfl rfl rfl
  | badLine => exact State.steady_of_hlc ⟨fun h => ⟨h.1, h.2.1, Nat.min_le_right _ _, h.2.2.2⟩, id⟩ rfl rfl rfl rfl
  | lineSent => exact State.steady_of_hlc (Hlc.steady_of rfl rfl rfl rfl rfl rfl) rfl rfl rfl rfl
  | received l bytes => exact s.steady_received l bytes
  | reportTaken hp => exact .after (State.steady_takeReport _ _) (State.steady_of rfl rfl rfl rfl rfl)
  | strobe good => exact s.steady_countStrobe good
  | leadInEnd hs => exact .after (State.steady_startOrHold _) (State.steady_of rfl rfl rfl rfl rfl)
  | windowBoundary hs hw => exact .after (State.steady_startOrHold _) (State.steady_of rfl rfl rfl rfl rfl)
  | heldWindowStart hs hw hr => exact s.steady_windowStart
  | windowEndHeld | windowEnd | buildEnded => exact State.steady_of rfl rfl rfl rfl rfl
  | walked hb he hr =>
    obtain ⟨m, _, hm⟩ := List.mem_filterMap.mp (List.mem_of_find?_eq_some hr)
    exact State.steady_walk (State.holds_of_rec? hm) _
  | aired ho =>
    have after : ∀ v : State, v.Steady v.afterAiring := fun v => by
      unfold State.afterAiring
      split
      · exact .refl v
      · split <;> exact State.steady_of rfl rfl rfl rfl rfl
    exact .after (after _) (.after (State.steady_airOne _ _ _) (State.steady_of rfl rfl rfl rfl rfl))
  | waitExpired hr => exact State.steady_expire (State.holds_of_rec? (State.found hr).1)
  | holdEnded hr hs hw => exact s.steady_freeRec _ _
  | readWaitEnded hr => exact s.steady_freeRec _ _
  | visited hw => exact s.steady_visit _

/-! ### The canonical form -/

theorem State.Canonical.of (h : s.Canonical) (hf : s.Follows t) (hx : s.Steady t) : t.Canonical := by
  obtain ⟨h1, h2, h3, h4⟩ := h
  refine ⟨hf.1 h1, hx.store.1 h2, ?_, ?_⟩ <;> rw [hx.store.2.1]
  · exact h3
  · exact h4

theorem Table.wf_setGen {t : Table (BitVec 16)} (h : t.wf = true) (k : Nat) (g : BitVec 16) : (t.setGen k g).wf = true := by
  unfold Table.setGen
  split
  · exact Table.wf_erase h k
  · exact Table.wf_set h k g

theorem Table.mem_cells_setGen {t : Table (BitVec 16)} {k : Nat} {g : BitVec 16} {c : Nat × BitVec 16}
    (h : c ∈ (t.setGen k g).cells) : c = (k, g) ∧ g ≠ 0 ∨ c ∈ t.cells := by
  unfold Table.setGen at h
  split at h
  · exact .inr (List.mem_filter.mp h).1
  · next hg =>
    rcases Table.mem_cells_set h with hc | hc
    · exact .inl ⟨hc, hg⟩
    · exact .inr hc

theorem State.Effect.canonical (h : s.Canonical) (he : s.Effect u) : u.Canonical := by
  have subs : u.subs.wf = true := by
    rcases he.entries with ⟨fs, a, _, hu⟩ | ⟨fs, ae, _, hu⟩ | ⟨fs, a, e, _, _, hu⟩ | hu
    · rw [hu]; exact Table.wf_set h.1 _ _
    · exact hu.1 (Table.wf_set h.1 _ _)
    · rw [hu]; exact Table.wf_set h.1 _ _
    · exact hu.1 h.1
  obtain ⟨_, h2, h3, h4⟩ := h
  rcases he.steady with hx | ⟨tag, fs, a, hc, rfl⟩
  · refine ⟨subs, hx.store.1 h2, ?_, ?_⟩ <;> rw [hx.store.2.1]
    · exact h3
    · exact h4
  · obtain ⟨e, he, _⟩ := checkSubmit_eq_ok hc
    obtain ⟨hrec, hgens⟩ := applySubmit_store tag he
    refine ⟨subs, by rw [hrec]; exact Table.wf_set h2 _ _, by rw [hgens]; exact Table.wf_setGen h3 _ _, ?_⟩
    rw [hgens]
    intro c hc
    rcases Table.mem_cells_setGen hc with ⟨rfl, hg⟩ | hc
    · exact hg
    · exact h4 c hc

/-! ### Capacities -/

theorem State.EntriesSized.follows (h : s.EntriesSized) (hf : s.Follows t) : t.EntriesSized := by
  intro c hc
  obtain ⟨e, he, hec⟩ := hf.2 c hc
  exact ⟨(h _ he).1, hec.sized (h _ he).2⟩

theorem State.EntriesSized.set (h : s.EntriesSized) {n : Nat} {x : Entry} (hn : n < Config.subscribers) (hx : x.Sized)
    (ht : t.subs = s.subs.set n x) : t.EntriesSized := by
  intro c hc
  rw [ht] at hc
  rcases Table.mem_cells_set hc with rfl | hc
  · exact ⟨hn, hx⟩
  · exact h c hc

theorem State.Effect.entriesSized (h : s.EntriesSized) (hr : s.Ranged) (he : s.Effect u) : u.EntriesSized := by
  have entry : ∀ {n : Nat} {e : Entry}, s.sub? n = some e → n < Config.subscribers ∧ e.Sized := fun he =>
    h _ (Table.mem_of_get? he)
  rcases he.entries with ⟨fs, a, hc, hu⟩ | ⟨fs, ae, hc, hu⟩ | ⟨fs, a, e, hc, he, hu⟩ | hu
  · exact h.set (checkSubAdd_eq_ok hc).1 ⟨Nat.zero_le _, fun x hx => absurd (show none = some x from hx) (by simp)⟩ hu
  · obtain ⟨hn, hsized⟩ := entry (checkSubSet_eq_ok hc).1
    exact State.EntriesSized.follows (h.set hn ((SubSetArgs.entry_bounds hc).2 hsized) rfl) hu
  · obtain ⟨e', he', hlive, _⟩ := checkSubmit_eq_ok hc
    rw [he] at he'
    cases he'
    obtain ⟨hn, hsized⟩ := entry he
    have hplan := (hr.2.1 e.plan).2.1.2
    unfold State.plan at hlive
    refine State.EntriesSized.set h hn (x := { e with live := e.live + 1, money := _ }) ⟨?_, hsized.2⟩ hu
    exact Nat.le_trans hlive hplan
  · exact h.follows hu

theorem State.Keyed.store (h : s.Keyed) : s.store.Keyed := h

theorem Store.Sized.steady {x y : Store} (h : x.Sized) (hw : x.records.wf = true) (hs : x.Steady y) : y.Sized := by
  obtain ⟨hcells, hgens, hchunks⟩ := h
  have hK : x.Keyed := ⟨hw, fun c hc => (hcells c hc).2.1⟩
  refine ⟨fun c hc => ?_, by rw [hs.2.1]; exact hgens, Nat.le_trans (hs.2.2 hK).1 hchunks⟩
  obtain ⟨q, hq, hid, hd⟩ := (hs.2.2 hK).2 c hc
  obtain ⟨g1, g2, g3⟩ := hcells _ hq
  exact ⟨g1, by rw [hid]; exact g2, hd g3⟩

theorem length_takeChunks (n : Nat) (used : List Nat) (d : Nat) (t : Text) : (takeChunks n used d t).length = n := by
  induction n generalizing used d t with
  | zero => rfl
  | succ n ih => rw [takeChunks, List.length_cons, ih]

theorem applySubmit_storeSized (tag : Nat) {a : SubmitArgs} (h : s.store.Sized) (hw : s.store.records.wf = true)
    (hc : checkSubmit s fs = .ok a) : (applySubmit tag a s).store.Sized := by
  obtain ⟨e, he, _, hfree, hchunks⟩ := checkSubmit_eq_ok hc
  obtain ⟨hrec, hgens⟩ := applySubmit_store tag he
  obtain ⟨hcells, hgenCells, htaken⟩ := h
  have hlow := State.lowest_lt hfree
  refine ⟨fun c hc => ?_, fun c hc => ?_, ?_⟩
  · rw [hrec] at hc
    rcases Table.mem_cells_set hc with rfl | hc
    · exact ⟨hlow, rfl, Nat.zero_le _⟩
    · exact hcells c hc
  · rw [hgens] at hc
    rcases Table.mem_cells_setGen hc with ⟨rfl, _⟩ | hc
    · exact hlow
    · exact hgenCells c hc
  · have hnew : (a.record s e s.nextId).chunkList.length ≤ chunksFor a.text.length := by
      simp only [PageRec.chunkList, SubmitArgs.record]
      split
      · exact Nat.zero_le _
      · exact Nat.le_of_eq (length_takeChunks _ _ _ _)
    have hperm := Table.values_insert_perm (Table.get?_lowest hw) (a.record s e s.nextId)
    have hlen : chunksTaken s.store.records ≤ Config.chunks := htaken
    rw [hrec]
    show chunksTaken _ ≤ _
    rw [chunksTaken_of_perm hperm]
    unfold State.freeChunks at hchunks
    rw [State.length_usedChunks] at hchunks
    show _ + chunksTaken s.store.records ≤ _
    omega

/-! ### Zones, links and the detector -/

/-- Every zone keeps its counts within their capacity and its settings in their ranges. -/
def State.ZonesSteady (s t : State) : Prop :=
  ∀ z : Zone, (s.txi[z].Sized → t.txi[z].Sized) ∧ (s.txi[z].settings.Ranged → t.txi[z].settings.Ranged)

theorem State.zonesSteady_of (h : t.txi = s.txi) : s.ZonesSteady t := fun z => by rw [h]; exact ⟨id, id⟩

theorem State.ZonesSteady.trans (a : s.ZonesSteady t) (b : t.ZonesSteady u) : s.ZonesSteady u := fun z =>
  ⟨(b z).1 ∘ (a z).1, (b z).2 ∘ (a z).2⟩

theorem State.zonesSteady_map {f : ZoneCell → ZoneCell} (hf : ∀ c, (c.Sized → (f c).Sized) ∧ (c.settings.Ranged → (f c).settings.Ranged))
    (h : t.txi = s.txi.map f) : s.ZonesSteady t := fun z => by
  have hz : t.txi[z] = f s.txi[z] := by simp [h]
  rw [hz]
  exact hf _

theorem State.zonesSteady_ofFn {f : Zone → ZoneCell}
    (hf : ∀ z : Zone, (s.txi[z].Sized → (f z).Sized) ∧ (s.txi[z].settings.Ranged → (f z).settings.Ranged))
    (h : t.txi = Vector.ofFn f) : s.ZonesSteady t := fun z => by
  have hz : t.txi[z] = f z := by simp [h]
  rw [hz]
  exact hf z

theorem State.zonesSteady_withdrawImage (s : State) : s.ZonesSteady s.withdrawImage := by
  unfold State.withdrawImage
  split
  · exact State.zonesSteady_of rfl
  · next b _ =>
    refine State.zonesSteady_ofFn (fun z => ?_) rfl
    rw [(s.foldl_withdrawRec_frame _).2.2.1]
    unfold ZoneCell.withdrawn
    split
    · split
      · exact ⟨fun ⟨h1, h2, h3, _⟩ => ⟨h1, h2, h3, Nat.min_le_right _ _⟩, id⟩
      · exact ⟨id, id⟩
    · exact ⟨id, id⟩

theorem State.zonesSteady_arriveStopped (s : State) : s.ZonesSteady s.arriveStopped :=
  State.zonesSteady_map (f := fun c => { c with current := none, next := none }) (fun _ => ⟨id, id⟩) rfl

theorem State.zonesSteady_windowStart (s : State) : s.ZonesSteady s.windowStart := by
  refine State.zonesSteady_map (f := ZoneCell.shifted) (fun _ => ⟨id, id⟩) ?_
  unfold State.windowStart
  simp only
  split <;> simp

theorem State.zonesSteady_startOrHold (s : State) : s.ZonesSteady s.startOrHold := by
  unfold State.startOrHold
  split
  · exact s.zonesSteady_windowStart
  · exact State.zonesSteady_of rfl

theorem ZoneCell.sized_sendOrder {c : ZoneCell} (h : c.Sized) (z : Zone) (info : OrderInfo) (layout : Layout) (g : Nat)
    (slots : List Block) : (c.sendOrder z info layout g slots).Sized := by
  obtain ⟨h1, h2, h3, h4⟩ := h
  unfold ZoneCell.sendOrder
  refine ⟨?_, ?_, ?_, h4⟩
  · show (match info.kind with | .scheduled => _ | .test => _) ≤ _
    split
    · exact Nat.min_le_right _ _
    · exact h1
  · show (match info.kind with | .scheduled => _ | .test => _) ≤ _
    split
    · exact h2
    · exact Nat.min_le_right _ _
  · show (if _ then _ else _) ≤ _
    split
    · exact Nat.min_le_right _ _
    · exact h3

theorem State.zonesSteady_endBuild (s : State) (b : Build) : s.ZonesSteady (s.endBuild b) := by
  refine State.zonesSteady_ofFn (fun z => ?_) rfl
  unfold State.orderFor
  simp only
  split
  · split
    · exact ⟨id, id⟩
    · exact ⟨fun h => ZoneCell.sized_sendOrder h _ _ _ _ _, id⟩
  · exact ⟨fun h => ZoneCell.sized_sendOrder h _ _ _ _ _, id⟩
  · exact ⟨id, id⟩

theorem Rxi.Sized.setLink (h : s.rxi.Sized) (l : LinkNo) {x : RxLink} (hx : x.Sized) : (s.setLink l x).rxi.Sized := by
  obtain ⟨h1, h2, h3, h4⟩ := h
  refine ⟨h1, h2, h3, fun k => ?_⟩
  show (s.rxi.links.set l x)[k].Sized
  rw [Fin.getElem_fin, Vector.getElem_set]
  split
  · exact hx
  · exact h4 k

theorem Rxi.Sized.noise (h : s.rxi.Sized) : s.noise.rxi.Sized := ⟨h.1, Nat.min_le_right _ _, h.2.2⟩

theorem Rxi.Sized.joinReplies (h : s.rxi.Sized) (p : Report) : (s.joinReplies p).rxi.Sized := by
  obtain ⟨h1, h2, h3, h4⟩ := h
  unfold State.joinReplies
  split
  · next hlt =>
    refine ⟨?_, h2, h3, h4⟩
    show (s.rxi.replies ++ [p]).length ≤ _
    rw [List.length_append, List.length_singleton]
    exact hlt
  · next hge =>
    refine ⟨?_, h2, Nat.min_le_right _ _, h4⟩
    show (match s.office.replyPolicy with | .discardNew => _ | .overwriteOldest => _ : List Report).length ≤ _
    split
    · exact h1
    · rw [List.length_append, List.length_drop, List.length_singleton]
      simp only [Config.replies] at hge h1 ⊢
      omega

theorem rescan_sized {bytes : List Byte} (h : bytes.length ≤ 13) : (rescan bytes).Sized := by
  unfold rescan
  split
  · next x rest hr =>
    have := (List.dropWhile_suffix (fun b => b != startByte) (l := bytes)).length_le
    rw [hr, List.length_cons] at this
    show rest.length < 13
    omega
  · trivial

theorem Rxi.Sized.rxByte (h : s.rxi.Sized) (l : LinkNo) (b : Byte) : (State.rxByte l s b).rxi.Sized := by
  unfold State.rxByte
  split
  · split
    · exact h.setLink l (show 0 < 13 by decide)
    · exact h
  · next got hg =>
    have hlt : got.length < 13 := by
      have := h.2.2.2 l
      rw [hg] at this
      exact this
    split
    · next hroom => exact h.setLink l (by simpa [RxLink.Sized] using hroom)
    · unfold State.judgeFrame
      have idle : (s.setLink l .hunting).rxi.Sized := h.setLink l (x := .hunting) trivial
      split
      · exact idle
      · split
        · split
          · unfold State.filterReport
            split
            · exact Rxi.Sized.noise idle
            · exact Rxi.Sized.joinReplies idle _
          · exact Rxi.Sized.noise idle
        · refine Rxi.Sized.noise (h.setLink l (rescan_sized ?_))
          rw [List.length_append, List.length_singleton]
          omega

theorem Rxi.Sized.received (h : s.rxi.Sized) (l : LinkNo) (bytes : List Byte) :
    (bytes.foldl (State.rxByte l) s).rxi.Sized := by
  induction bytes generalizing s with
  | nil => exact h
  | cons b bs ih => exact ih (h.rxByte l b)

theorem Aclk.Sized.unlock (h : s.aclk.Sized) : s.unlock.aclk.Sized := by
  unfold State.unlock State.raiseLock
  simp only
  split <;> exact ⟨h.1, fun k hk => nomatch hk⟩

theorem Aclk.Sized.goodGroup (h : s.aclk.Sized) : s.goodGroup.aclk.Sized := by
  unfold State.goodGroup State.raiseLock
  split
  · exact ⟨h.1, fun k hk => by cases hk; decide⟩
  · next k _ =>
    split
    · exact ⟨h.1, fun j hj => by cases hj; omega⟩
    · exact ⟨h.1, fun j hj => nomatch hj⟩
  · exact h

theorem Aclk.Sized.countStrobe (h : s.aclk.Sized) (good : Bool) : (s.countStrobe good).aclk.Sized := by
  unfold State.countStrobe
  simp only
  split
  · next hlt => exact ⟨hlt, h.2⟩
  · split
    · exact Aclk.Sized.unlock (s := { s with aclk := _ }) ⟨show 0 < 64 by decide, h.2⟩
    · exact Aclk.Sized.goodGroup (s := { s with aclk := _ }) ⟨show 0 < 64 by decide, h.2⟩

end Sys2Proof.Machine
end

section
/-! What every command and event keeps of settings, zones, links and detector, and the first five parts of O57: the
canonical form, the ranges, the capacities, the order of the notices and the addresses. -/

namespace Sys2Proof.Machine

variable {s t u : State} {fs : List RawField}

/-! ### Settings, zones, links and detector -/

/-- The tables of RATE are in their ranges. -/
def Rate.Ranged (r : Rate) : Prop := r.active.Ranged ∧ ∀ t a, r.pending = some (t, a) → t.Ranged

/-- Settings stay in their ranges, and the counts of the zones, the links and the detector in their capacities. -/
structure State.Tame (s t : State) : Prop where
  zones : s.ZonesSteady t
  plans : (∀ p : PlanNo, s.plans[p].Ranged) → ∀ p : PlanNo, t.plans[p].Ranged
  rate : s.rate.Ranged → t.rate.Ranged
  office : s.office.Ranged → t.office.Ranged
  rxi : s.rxi.Sized → t.rxi.Sized
  aclk : s.aclk.Sized → t.aclk.Sized

theorem State.tame_of_rest (hz : s.ZonesSteady t) (hp : t.plans = s.plans) (hr : s.rate.Ranged → t.rate.Ranged)
    (ho : t.office = s.office) (hx : t.rxi = s.rxi) (ha : s.aclk.Sized → t.aclk.Sized) : s.Tame t :=
  ⟨hz, by rw [hp]; exact id, hr, by rw [ho]; exact id, by rw [hx]; exact id, ha⟩

theorem State.tame_of (hz : t.txi = s.txi) (hp : t.plans = s.plans) (hr : t.rate = s.rate) (ho : t.office = s.office)
    (hx : t.rxi = s.rxi) (ha : t.aclk = s.aclk) : s.Tame t :=
  State.tame_of_rest (State.zonesSteady_of hz) hp (by rw [hr]; exact id) ho hx (by rw [ha]; exact id)

theorem State.Tame.refl (s : State) : s.Tame s := State.tame_of rfl rfl rfl rfl rfl rfl

theorem State.Tame.trans (a : s.Tame t) (b : t.Tame u) : s.Tame u :=
  ⟨a.zones.trans b.zones, b.plans ∘ a.plans, b.rate ∘ a.rate, b.office ∘ a.office, b.rxi ∘ a.rxi, b.aclk ∘ a.aclk⟩

theorem State.Tame.after (b : t.Tame u) (a : s.Tame t) : s.Tame u := a.trans b

theorem Plan.Ranged.updated {p : Plan} (h : p.Ranged) (fs : List RawField) : (p.updated fs).Ranged := by
  obtain ⟨h1, h2, h3, h4, h5, h6, h7, h8, h9, h10, h11⟩ := h
  exact ⟨fieldOf_getD_in h1, fieldOf_getD_in h2, fieldOf_getD_in h3, fieldOf_getD_in h4, fieldOf_getD_vector h5,
    fieldOf_getD_le h6, fieldOf_getD_le h7, fieldOf_getD_le h8, fieldOf_getD_in h9, fieldOf_getD_le h10,
    fieldOf_getD_le h11⟩

theorem Tariff.Ranged.updated {t : Tariff} (h : t.Ranged) (fs : List RawField) : (t.updated fs).Ranged := by
  obtain ⟨h1, h2, h3, h4, h5, h6, h7, h8⟩ := h
  exact ⟨fieldOf_getD_le h1, fieldOf_getD_le h2, fieldOf_getD_le h3, fieldOf_getD_le h4, fieldOf_getD_le h5,
    fieldOf_getD_vector h6, fieldOf_getD_vector h7, fieldOf_getD_in h8⟩

theorem Office.Ranged.updated {o : Office} (h : o.Ranged) (fs : List RawField) : (o.updated fs).Ranged := by
  obtain ⟨h1, h2, h3, h4, h5, h6, h7⟩ := h
  exact ⟨fieldOf_getD_in h1, fieldOf_getD_le h2, fieldOf_getD_le h3, fieldOf_getD_in h4, fieldOf_getD_le h5,
    fieldOf_getD_le h6, fieldOf_getD_in h7⟩

theorem ZoneSettings.Ranged.updated {z : ZoneSettings} (h : z.Ranged) (fs : List RawField) : (z.updated fs).Ranged := by
  obtain ⟨h1, h2, h3⟩ := h
  exact ⟨fieldOf_getD_le h1, fieldOf_getD_le h2, fieldOf_getD_le h3⟩

theorem State.zonesSteady_modZone (s : State) (z : Zone) {f : ZoneCell → ZoneCell}
    (hf : ∀ c, (c.Sized → (f c).Sized) ∧ (c.settings.Ranged → (f c).settings.Ranged)) (ht : t.txi = (s.modZone z f).txi) :
    s.ZonesSteady t := by
  intro k
  have hk : t.txi[k] = if z = k then f s.txi[z] else s.txi[k] := by
    rw [ht]
    simp [State.modZone, Vector.getElem_set, Fin.ext_iff]
  rw [hk]
  split
  · next heq =>
    subst heq
    exact hf _
  · exact ⟨id, id⟩

theorem Rate.Ranged.activate {r r' : Rate} (h : r.Ranged) (ha : r'.active.Ranged)
    (hp : r'.pending = none ∨ r'.pending = r.pending) : r'.Ranged := by
  refine ⟨ha, fun t a ht => ?_⟩
  rcases hp with hp | hp <;> rw [hp] at ht
  · nomatch ht
  · exact h.2 t a ht

theorem Rate.Ranged.roundStart (h : s.rate.Ranged) : s.rateRoundStart.rate.Ranged := by
  obtain ⟨hactive, hpending⟩ := h
  have band : ∀ v : State, v.rate.Ranged → (match v.rate.nextBand with
      | some b => { v with rate := { v.rate with band := b, nextBand := none } }
      | none => v).rate.Ranged := fun v hv => by split <;> exact hv
  unfold State.rateRoundStart
  refine band _ ?_
  split
  · next t hp => exact ⟨hpending t _ hp, fun _ _ hn => nomatch hn⟩
  · next t r hp =>
    split
    · exact ⟨hpending t _ hp, fun _ _ hn => nomatch hn⟩
    · exact ⟨hactive, hpending⟩
  · exact ⟨hactive, hpending⟩

theorem State.tame_windowStart (s : State) : s.Tame s.windowStart := by
  refine State.tame_of_rest s.zonesSteady_windowStart (by simp) (fun h => ?_) (by simp) (by simp) (fun h => ?_)
  · unfold State.windowStart State.roundStart
    simp only
    split
    · exact Rate.Ranged.roundStart (s := { s with aclk := { s.aclk with holding := .none_ } }) h
    · exact h
  · unfold State.windowStart
    simp only
    split <;> simpa [Aclk.Sized] using h

theorem State.tame_startOrHold (s : State) : s.Tame s.startOrHold := by
  unfold State.startOrHold
  split
  · exact s.tame_windowStart
  · exact State.tame_of_rest (State.zonesSteady_of rfl) rfl id rfl rfl id

theorem State.tame_arriveStopped (s : State) : s.Tame s.arriveStopped :=
  State.tame_of_rest s.zonesSteady_arriveStopped rfl id rfl rfl id

theorem State.tame_afterAiring (s : State) : s.Tame s.afterAiring := by
  unfold State.afterAiring
  split
  · exact .refl s
  · split
    · exact .after (State.tame_arriveStopped _) (State.tame_of_rest (State.zonesSteady_of rfl) rfl id rfl rfl id)
    · exact s.tame_arriveStopped
    · exact .refl s
    · exact .refl s

theorem State.tame_withdrawImage (s : State) : s.Tame s.withdrawImage :=
  State.tame_of_rest s.zonesSteady_withdrawImage (by simp) (by simp) (by simp) (by simp) (by simp)

theorem State.tame_restartDetector (s : State) : s.Tame s.restartDetector := by
  refine State.tame_of_rest (State.zonesSteady_of (by simp)) (by simp) (by simp) (by simp) (by simp) (fun h => ?_)
  unfold State.restartDetector
  exact Aclk.Sized.unlock (s := { s with aclk := _ }) ⟨show 0 < 64 by decide, h.2⟩

theorem ZoneCell.sized_zero {c : ZoneCell} (h : c.orders = 0 ∧ c.tests = 0 ∧ c.bridges = 0 ∧ c.withdraws = 0) : c.Sized := by
  obtain ⟨h1, h2, h3, h4⟩ := h
  unfold ZoneCell.Sized
  rw [h1, h2, h3, h4]
  exact ⟨Nat.zero_le _, Nat.zero_le _, Nat.zero_le _, Nat.zero_le _⟩

theorem Rxi.cold_sized : Rxi.cold.Sized := by
  refine ⟨Nat.zero_le _, Nat.zero_le _, Nat.zero_le _, fun l => ?_⟩
  simp [Rxi.cold, RxLink.Sized]

theorem State.Event.tame (he : s.Event u) : s.Tame u := by
  cases he with
  | offered | badLine | lineSent => exact State.tame_of rfl rfl rfl rfl rfl rfl
  | received l bytes =>
    obtain ⟨_, hplans, _, haclk, _, htxi, _, hrate, _, hoffice, _⟩ := s.received_frame l bytes
    exact ⟨State.zonesSteady_of htxi, by rw [hplans]; exact id, by rw [hrate]; exact id, by rw [hoffice]; exact id,
      fun h => Rxi.Sized.received h l bytes, by rw [haclk]; exact id⟩
  | @reportTaken p rest hp =>
    have taken : s.Tame { s with rxi := { s.rxi with replies := rest } } := by
      refine ⟨State.zonesSteady_of rfl, id, id, id, fun ⟨h1, h2⟩ => ⟨?_, h2⟩, id⟩
      rw [hp] at h1
      exact Nat.le_of_succ_le h1
    exact taken.trans (State.tame_of (by simp) (by simp) (by simp) (by simp) (by simp) (by simp))
  | strobe good =>
    exact State.tame_of_rest (State.zonesSteady_of (by simp)) (by simp) (by simp) (by simp) (by simp)
      (fun h => h.countStrobe good)
  | leadInEnd | windowBoundary =>
    refine State.Tame.after (State.tame_startOrHold _) ?_
    exact State.tame_of_rest (State.zonesSteady_of rfl) rfl id rfl rfl id
  | heldWindowStart => exact s.tame_windowStart
  | windowEndHeld => exact State.tame_of_rest (State.zonesSteady_of rfl) rfl id rfl rfl id
  | windowEnd => exact State.tame_of_rest (State.zonesSteady_arriveStopped _) rfl id rfl rfl id
  | buildEnded => exact State.tame_of_rest (s.zonesSteady_endBuild _) rfl id rfl rfl id
  | aired =>
    refine State.Tame.after (State.tame_afterAiring _) ?_
    exact State.tame_of (by simp) (by simp) (by simp) (by simp) (by simp) (by simp)
  | walked | waitExpired | holdEnded | readWaitEnded | visited =>
    exact State.tame_of (by simp) (by simp) (by simp) (by simp) (by simp) (by simp)

theorem State.Tame.answer (h : s.Tame t) {lines : List OutLine} : s.Tame (t.answer lines) :=
  h.trans (State.tame_of rfl rfl rfl rfl rfl rfl)

theorem State.tame_restarted (s : State) : s.Tame s.restarted := by
  refine ⟨State.zonesSteady_map (f := ZoneCell.restarted) (fun c => ⟨fun _ => ?_, id⟩) rfl, id, id, id,
    fun _ => Rxi.cold_sized, fun _ => ⟨show 0 < 64 by decide, fun k hk => nomatch hk⟩⟩
  exact ZoneCell.sized_zero ⟨rfl, rfl, rfl, rfl⟩

theorem State.tame_modPlan (s : State) (p : PlanNo) (fs : List RawField) :
    s.Tame { s with plans := s.plans.set p (s.plans[p].updated fs) } := by
  refine ⟨State.zonesSteady_of rfl, fun h q => ?_, id, id, id, id⟩
  have hq : (s.plans.set p (s.plans[p].updated fs))[q] = if p = q then s.plans[p].updated fs else s.plans[q] := by
    simp [Vector.getElem_set, Fin.ext_iff]
  show (s.plans.set p (s.plans[p].updated fs))[q].Ranged
  rw [hq]
  split
  · exact (h p).updated fs
  · exact h q

theorem State.Effect.tame (he : s.Effect u) : s.Tame u := by
  cases he with
  | planSet tag hc => exact State.Tame.answer (s.tame_modPlan _ _)
  | @zoneSet tag fs z hc =>
    refine State.Tame.answer ?_
    have updated : ∀ c : ZoneCell, (c.Sized → c.Sized) ∧ (c.settings.Ranged → (c.settings.updated fs).Ranged) :=
      fun c => ⟨id, fun h => h.updated fs⟩
    refine State.tame_of_rest ?_ rfl id rfl rfl id
    exact State.zonesSteady_modZone s z (f := fun c => { c with settings := c.settings.updated fs }) updated rfl
  | zoneGet tag fs =>
    unfold applyZoneGet
    split
    · simp only
      split
      · refine State.tame_of_rest ?_ rfl id rfl rfl id
        have cleared : ∀ c : ZoneCell, (c.Sized → c.cleared.Sized) ∧ (c.settings.Ranged → c.cleared.settings.Ranged) :=
          fun c => ⟨fun _ => ZoneCell.sized_zero ⟨rfl, rfl, rfl, rfl⟩, id⟩
        exact State.zonesSteady_modZone s _ cleared rfl
      · exact State.tame_of rfl rfl rfl rfl rfl rfl
    · exact State.tame_of rfl rfl rfl rfl rfl rfl
  | @tariffLoad tag fs a hc =>
    unfold applyTariffLoad
    simp only
    split
    · refine State.tame_of_rest (State.zonesSteady_of rfl) rfl (fun h => ?_) rfl rfl id
      exact ⟨h.1.updated fs, fun _ _ hn => nomatch hn⟩
    · refine State.tame_of_rest (State.zonesSteady_of rfl) rfl (fun h => ⟨h.1, fun t a ht => ?_⟩) rfl rfl id
      cases ht
      exact h.1.updated fs
  | bandSet tag b =>
    unfold applyBandSet
    split <;> exact State.tame_of_rest (State.zonesSteady_of rfl) rfl id rfl rfl id
  | @officeSet tag fs hc =>
    refine State.Tame.answer ?_
    simp only
    have taken : s.Tame { s with office := s.office.updated fs } :=
      ⟨State.zonesSteady_of rfl, id, id, fun h => h.updated fs, id, id⟩
    have judged : ∀ v : State, v.Tame v.judgeCongestion := fun v =>
      State.tame_of (by simp) (by simp) (by simp) (by simp) (by simp) (by simp)
    (repeat' split)
    · exact taken
    · exact taken.trans (judged _)
    · exact taken.trans (State.tame_restartDetector _)
    · exact (taken.trans (State.tame_restartDetector _)).trans (judged _)
  | restart tag hc => exact State.Tame.answer s.tame_restarted
  | status tag fs =>
    unfold applyStatus
    simp only
    split
    · exact State.tame_of rfl rfl rfl rfl rfl rfl
    · exact ⟨State.zonesSteady_of rfl, id, id, id, fun h => ⟨h.1, Nat.zero_le _, Nat.zero_le _, h.2.2.2⟩, id⟩
  | airStart tag hc =>
    refine State.Tame.answer ?_
    exact State.tame_of_rest (State.zonesSteady_of rfl) rfl id rfl rfl id
  | airStop tag hc =>
    unfold applyAirStop
    simp only
    have stopping : ∀ h : HeldWork, s.Tame { s.withdrawImage with
        aclk := { s.withdrawImage.aclk with air := .stopping, holding := h } } := fun h =>
      s.tame_withdrawImage.trans (State.tame_of_rest (State.zonesSteady_of rfl) rfl id rfl rfl id)
    split
    · exact .refl s
    · exact State.Tame.answer (s.tame_withdrawImage.trans (State.tame_arriveStopped _))
    · refine State.Tame.answer ?_
      unfold stopRunning
      simp only
      (repeat' split)
      · exact stopping _
      · exact s.tame_withdrawImage.trans (State.tame_arriveStopped _)
      · exact stopping _
    · exact State.tame_of rfl rfl rfl rfl rfl rfl
  | denied => exact State.tame_of (by simp) (by simp) (by simp) (by simp) (by simp) (by simp)
  | submit tag hc =>
    obtain ⟨_, _, _, hrxi, htxi, haclk, hplans, hoffice, _, _, hrate⟩ := applySubmit_frame tag _ s
    exact State.tame_of htxi hplans hrate hoffice hrxi haclk
  | cancel =>
    unfold applyCancel
    split <;> exact State.tame_of (by simp) (by simp) (by simp) (by simp) (by simp) (by simp)
  | money =>
    unfold applyMoney
    (repeat' split) <;> exact State.tame_of (by simp) (by simp) (by simp) (by simp) (by simp) (by simp)
  | billRead =>
    unfold applyBillRead
    simp only
    (repeat' split) <;> exact State.tame_of rfl rfl rfl rfl rfl rfl
  | billRewind =>
    unfold applyBillRewind
    (repeat' split) <;> exact State.tame_of (by simp) (by simp) (by simp) (by simp) (by simp) (by simp)
  | noticeLevels =>
    unfold applyLevels
    split <;> exact State.tame_of rfl rfl rfl rfl rfl rfl
  | subSet =>
    unfold applySubSet State.floorTests
    simp only
    (repeat' split) <;> exact State.tame_of (by simp) (by simp) (by simp) (by simp) (by simp) (by simp)
  | answered | subAdd | subState | periodCloseAll => exact State.tame_of rfl rfl rfl rfl rfl rfl
  | subRemove =>
    unfold applySubRemove
    exact State.tame_of (by simp) (by simp) (by simp) (by simp) (by simp) (by simp)
  | heldRelease =>
    unfold applyHeldRelease
    exact State.tame_of (by simp) (by simp) (by simp) (by simp) (by simp) (by simp)
  | periodClose =>
    unfold applyPeriodClose
    exact State.tame_of (by simp) (by simp) (by simp) (by simp) (by simp) (by simp)

/-! ### After a cold start -/

theorem State.reset_canonical : State.reset.Canonical := ⟨rfl, rfl, rfl, fun _ hc => nomatch hc⟩

theorem Plan.cold_ranged : Plan.cold.Ranged := by unfold Plan.Ranged; decide

theorem Tariff.cold_ranged : Tariff.cold.Ranged := by unfold Tariff.Ranged; decide

theorem State.reset_ranged : State.reset.Ranged := by
  refine ⟨fun z => ?_, fun p => ?_, Tariff.cold_ranged, fun _ _ h => (nomatch h), ?_⟩
  · have hz : State.reset.txi[z] = ZoneCell.cold := by simp [State.reset]
    rw [hz]
    exact (by decide : 2 ≤ 7 ∧ 1 ≤ 7 ∧ 4 ≤ 31)
  · have hp : State.reset.plans[p] = Plan.cold := by simp [State.reset]
    rw [hp]
    exact Plan.cold_ranged
  · exact (by decide : (1 ≤ 4 ∧ 4 ≤ 15) ∧ 8 ≤ 255 ∧ 3 ≤ 15 ∧ (1 ≤ 16 ∧ 16 ≤ 255) ∧ 0 ≤ 65535 ∧ 128 ≤ 2047 ∧ 1 ≤ 768 ∧ 768 ≤ 1024)

theorem State.reset_sized : State.reset.Sized := by
  refine ⟨⟨Nat.zero_le _, Nat.zero_le _, Nat.zero_le _, Nat.zero_le _⟩, Rxi.cold_sized,
    ⟨Nat.zero_le _, Nat.zero_le _, Nat.zero_le _, Nat.zero_le _⟩, fun z => ?_, ⟨show 0 < 64 by decide, fun _ h => nomatch h⟩,
    ⟨Nat.zero_le _, Nat.zero_le _⟩, Nat.zero_le _, ?_,
    ⟨fun _ hc => (nomatch hc), fun _ hc => (nomatch hc), Nat.zero_le _⟩⟩
  · have hz : State.reset.txi[z] = ZoneCell.cold := by simp [State.reset]
    rw [hz]
    exact ZoneCell.sized_zero ⟨rfl, rfl, rfl, rfl⟩
  · exact fun _ hc => nomatch hc

theorem State.reset_inOrder : State.reset.hlc.InOrder := ⟨.nil, .nil, fun _ hn => nomatch hn⟩

/-! ### The first parts of O57 -/

/-- The line that leaves the buffer leaves the queues and counters of the host line as they were. -/
theorem Hlc.steady_lineOff {v : State} {l : CmdLine} {rest : List CmdLine} (hb : v.hlc.buffer = l :: rest) :
    v.hlc.Steady (v.lineOff rest).hlc := by
  refine ⟨fun ⟨h1, h2⟩ => ⟨?_, h2⟩, id⟩
  rw [hb] at h1
  exact Nat.le_of_succ_le h1

theorem State.canonical_kept (hs : s.Canonical) (h : step s = .next t) : t.Canonical :=
  step_keeps (P := State.Canonical) (Q := State.Canonical) h hs (fun _ _ hv => hv) (fun _ hv => hv)
    (fun _ => State.reset_canonical) (fun _ _ _ _ hv => hv) (fun _ _ hv he => he.canonical hv)
    (fun _ _ hv he => hv.of he.follows he.steady) (fun _ hv => hv)

theorem State.Ranged.tame (h : s.Ranged) (ht : s.Tame t) : t.Ranged := by
  obtain ⟨hzones, hplans, hactive, hpending, hoffice⟩ := h
  obtain ⟨hactive', hpending'⟩ := ht.rate ⟨hactive, hpending⟩
  exact ⟨fun z => (ht.zones z).2 (hzones z), ht.plans hplans, hactive', hpending', ht.office hoffice⟩

theorem State.ranged_kept (hs : s.Ranged) (h : step s = .next t) : t.Ranged :=
  step_keeps (P := State.Ranged) (Q := State.Ranged) h hs (fun _ _ hv => hv) (fun _ hv => hv)
    (fun _ => State.reset_ranged) (fun _ _ _ _ hv => hv) (fun _ _ hv he => hv.tame he.tame)
    (fun _ _ hv he => hv.tame he.tame) (fun _ hv => hv)

theorem State.Sized.of (h : s.Sized) (hh : s.hlc.Steady t.hlc) (ht : s.Tame t) (hm : s.rmat.Sized → t.rmat.Sized)
    (ha : s.acct.Sized → t.acct.Sized)
    (hd : s.wsch.deferrals ≤ Config.counterTop → t.wsch.deferrals ≤ Config.counterTop)
    (he : s.EntriesSized → t.EntriesSized) (hx : s.store.Sized → t.store.Sized) : t.Sized := by
  obtain ⟨h1, h2, h3, h4, h5, h6, h7, h8, h9⟩ := h
  exact ⟨hh.1 h1, ht.rxi h2, hm h3, fun z => (ht.zones z).1 (h4 z), ht.aclk h5, ha h6, hd h7, he h8, hx h9⟩

theorem State.Effect.sized (hc : s.Canonical) (hr : s.Ranged) (h : s.Sized) (he : s.Effect u) : u.Sized := by
  have entries : s.EntriesSized → u.EntriesSized := fun hn => he.entriesSized hn hr
  rcases he.steady with hx | ⟨tag, fs, a, hsub, rfl⟩
  · exact h.of hx.hlc he.tame hx.rmat hx.acct hx.deferrals entries (fun hn => hn.steady hc.2.1 hx.store)
  · obtain ⟨hacct, hrmat, hdeferrals, _⟩ := applySubmit_frame tag a s
    exact h.of (applySubmit_hlc tag a s) he.tame (by rw [hrmat]; exact id) (by rw [hacct]; exact id)
      (by rw [hdeferrals]; exact id) entries (fun hn => applySubmit_storeSized tag hn hc.2.1 hsub)

theorem State.Event.sized (hc : s.Canonical) (h : s.Sized) (he : s.Event u) : u.Sized :=
  h.of he.steady.hlc he.tame he.steady.rmat he.steady.acct he.steady.deferrals (fun hn => hn.follows he.follows)
    (fun hn => hn.steady hc.2.1 he.steady.store)

theorem State.Sized.hlc (h : s.Sized) (hh : s.hlc.Steady t.hlc) (ht : { s with hlc := t.hlc } = t) : t.Sized := by
  rw [← ht]
  exact ⟨hh.1 h.1, h.2⟩

theorem State.sized_kept (hc : s.Canonical) (hr : s.Ranged) (hs : s.Sized) (h : step s = .next t) : t.Sized :=
  step_keeps (P := fun v => v.Canonical ∧ v.Ranged ∧ v.Sized) (Q := State.Sized) h ⟨hc, hr, hs⟩ (fun _ _ hv => hv)
    (fun _ hv => hv.2.2) (fun _ => State.reset_sized)
    (fun _ _ _ hb hv => ⟨hv.1, hv.2.1, hv.2.2.hlc (Hlc.steady_lineOff hb) rfl⟩)
    (fun _ _ hv he => he.sized hv.1 hv.2.1 hv.2.2) (fun _ _ hv he => he.sized hv.1 hv.2.2)
    (fun v hv => hv.hlc v.hlc.steady_settle rfl)

theorem State.inOrder_kept (hs : s.hlc.InOrder) (h : step s = .next t) : t.hlc.InOrder :=
  step_keeps (P := fun v => v.hlc.InOrder) (Q := fun v => v.hlc.InOrder) h hs (fun _ _ hv => hv) (fun _ hv => hv)
    (fun _ => State.reset_inOrder) (fun _ _ _ hb hv => (Hlc.steady_lineOff hb).2 hv)
    (fun _ _ hv he => by
      rcases he.steady with hx | ⟨tag, fs, a, _, rfl⟩
      · exact hx.hlc.2 hv
      · exact (applySubmit_hlc tag a _).2 hv)
    (fun _ _ hv he => he.steady.hlc.2 hv) (fun v hv => v.hlc.steady_settle.2 hv)

/-! ### Addresses (R3) -/

/-- No two subscribers have one address. -/
def State.AddressesApart (s : State) : Prop :=
  ∀ c ∈ s.subs.cells, ∀ d ∈ s.subs.cells, c.2.addr = d.2.addr → c.1 = d.1

theorem State.addressesDiffer_iff (hw : s.subs.wf = true) : s.AddressesDiffer ↔ s.AddressesApart := by
  have rising : s.subs.cells.Pairwise (fun c d => c.1 < d.1) := by
    unfold Table.wf at hw
    exact List.pairwise_map.mp (of_decide_eq_true hw)
  have differ : s.AddressesDiffer ↔ (s.subs.cells.map fun c => c.2.addr).Nodup := by
    unfold State.AddressesDiffer Table.values
    rw [List.map_map]
    rfl
  rw [differ]
  constructor
  · intro h c hc d hd heq
    rw [List.inj_on_of_nodup_map h hc hd heq]
  · intro h
    refine List.pairwise_map.mpr (rising.imp_of_mem fun hc hd hlt heq => ?_)
    exact Nat.ne_of_lt hlt (h _ hc _ hd heq)

theorem State.AddressesApart.follows (h : s.AddressesApart) (hf : s.Follows t) : t.AddressesApart := by
  intro c hc d hd heq
  obtain ⟨e, he, hec⟩ := hf.2 c hc
  obtain ⟨x, hx, hxd⟩ := hf.2 d hd
  exact h (c.1, e) he (d.1, x) hx (hec.addr.symm.trans (heq.trans hxd.addr))

theorem State.AddressesApart.set (h : s.AddressesApart) {n : Nat} {x : Entry}
    (hx : ∀ d ∈ s.subs.cells, d.2.addr = x.addr → d.1 = n) (ht : t.subs = s.subs.set n x) : t.AddressesApart := by
  intro c hc d hd heq
  rw [ht] at hc hd
  rcases Table.mem_cells_set hc with rfl | hc <;> rcases Table.mem_cells_set hd with rfl | hd
  · rfl
  · exact (hx d hd heq.symm).symm
  · exact hx c hc heq
  · exact h c hc d hd heq

theorem State.AddressesApart.setSame (h : s.AddressesApart) {n : Nat} {e x : Entry} (he : s.sub? n = some e)
    (hx : x.addr = e.addr) (ht : t.subs = s.subs.set n x) : t.AddressesApart :=
  h.set (fun d hd heq => h d hd _ (Table.mem_of_get? he) (heq.trans hx)) ht

theorem State.holderOf_eq_none {a : BitVec 22} (h : s.holderOf a = none) : ∀ d ∈ s.subs.cells, d.2.addr ≠ a := by
  simpa [State.holderOf] using h

theorem State.AddressesApart.holderOf (h : s.AddressesApart) {a : BitVec 22} {n : Nat} (hn : s.holderOf a = some n) :
    ∀ d ∈ s.subs.cells, d.2.addr = a → d.1 = n := by
  intro d hd hda
  obtain ⟨c, hc, rfl⟩ := Option.map_eq_some_iff.mp hn
  have hca : c.2.addr = a := by simpa using List.find?_some hc
  exact h d hd c (List.mem_of_find?_eq_some hc) (hda.trans hca.symm)

theorem State.Effect.addressesApart (h : s.AddressesApart) (he : s.Effect u) : u.AddressesApart := by
  rcases he.entries with ⟨fs, a, hc, hu⟩ | ⟨fs, ⟨a, e⟩, hc, hu⟩ | ⟨fs, a, e, _, he, hu⟩ | hu
  · exact h.set (fun d hd heq => absurd heq (State.holderOf_eq_none (checkSubAdd_eq_ok hc).2.2.1 d hd)) hu
  · obtain ⟨he, _, htaken, _⟩ := checkSubSet_eq_ok hc
    refine State.AddressesApart.follows (s := s.setSub a.sub (a.entry e)) ?_ hu
    cases ha : a.addr with
    | none => exact h.setSame he (by simp [SubSetArgs.entry, ha]) rfl
    | some x =>
      have hx : (a.entry e).addr = x := by simp [SubSetArgs.entry, ha]
      refine h.set (n := a.sub) (fun d hd heq => ?_) rfl
      rw [hx] at heq
      simp only [ha, State.addressTaken] at htaken
      cases hm : s.holderOf x with
      | none => exact absurd heq (State.holderOf_eq_none hm d hd)
      | some m =>
        rw [hm] at htaken
        rw [h.holderOf hm d hd heq]
        simpa using htaken
  · exact h.setSame he (x := { e with live := e.live + 1, money := _ }) rfl hu
  · exact h.follows hu

theorem State.addressesDiffer_kept (hc : s.Canonical) (hs : s.AddressesDiffer) (h : step s = .next t) :
    t.AddressesDiffer := by
  refine (State.addressesDiffer_iff (State.canonical_kept hc h).1).mpr ?_
  exact step_keeps (P := State.AddressesApart) (Q := State.AddressesApart) h ((State.addressesDiffer_iff hc.1).mp hs)
    (fun _ _ hv => hv) (fun _ hv => hv) (fun _ _ hx => nomatch hx) (fun _ _ _ _ hv => hv)
    (fun _ _ hv he => he.addressesApart hv) (fun _ _ hv he => hv.follows he.follows) (fun _ hv => hv)

end Sys2Proof.Machine
end

section
/-! Entries, records and places in agreement (R7, R8, R20, R29, R147): that every command and event keeps it, the
sixth part of O57. -/

namespace Sys2Proof.Machine

variable {s t u : State} {fs : List RawField}

/-- Entries, records and places in agreement, over the records that stand in the images there are. -/
def State.Sound (s : State) : Prop := s.SoundIn s.inImages

theorem State.inImages_congr (hb : t.wsch.build = s.wsch.build) (ho : t.wsch.onAir = s.wsch.onAir) :
    t.inImages = s.inImages := by
  unfold State.inImages
  rw [hb, ho]

theorem State.Sound.of (h : t.SoundIn s.inImages) (hb : t.wsch.build = s.wsch.build)
    (ho : t.wsch.onAir = s.wsch.onAir) : t.Sound := by
  unfold State.Sound
  rw [State.inImages_congr hb ho]
  exact h

theorem State.Sound.kept (h : s.Sound) (k : s.Kept t) (hb : t.wsch.build = s.wsch.build)
    (ho : t.wsch.onAir = s.wsch.onAir) : t.Sound := .of (State.SoundIn.kept h k) hb ho

theorem State.Sound.same (h : s.Sound) (hs : t.subs = s.subs) (hx : t.store.records = s.store.records)
    (hw : t.wsch = s.wsch) (ha : t.rmat.awaiting = s.rmat.awaiting) : t.Sound :=
  h.kept (State.kept_of hs hx (by rw [hw]) ha) (by rw [hw]) (by rw [hw])

theorem State.Sound.answer (h : s.Sound) {lines : List OutLine} : (s.answer lines).Sound := h.same rfl rfl rfl rfl

/-! ### The images of the air clock -/

/-- With no airing under way, STOPPED retires an image whose records have aired. -/
theorem State.arriveStopped_inImages (ha : s.airingUnderWay = false) : s.arriveStopped.inImages = s.inImages := by
  unfold State.airingUnderWay at ha
  unfold State.inImages State.arriveStopped
  cases ho : s.wsch.onAir with
  | none => rfl
  | some o =>
    rw [ho] at ha
    simp only [Bool.not_eq_false', List.isEmpty_iff] at ha
    simp [ha]

theorem State.Sound.arriveStopped (h : s.Sound) (ha : s.airingUnderWay = false) : s.arriveStopped.Sound := by
  unfold State.Sound
  rw [State.arriveStopped_inImages ha]
  exact State.SoundIn.kept h (State.kept_of rfl rfl rfl rfl)

theorem State.Sound.startOrHold (h : s.Sound) : s.startOrHold.Sound := by
  unfold State.startOrHold
  split
  · next hr => exact State.SoundIn.windowStart h hr
  · exact h.same rfl rfl rfl rfl

theorem State.Sound.afterAiring (h : s.Sound) : s.afterAiring.Sound := by
  unfold State.afterAiring
  split
  · exact h
  · next ha =>
    have ha := Bool.eq_false_iff.mpr ha
    split
    · exact State.Sound.arriveStopped (s := { s with aclk := s.aclk.advance }) (h.same rfl rfl rfl rfl) ha
    · exact h.arriveStopped ha
    · exact h
    · exact h

theorem checkAirStart_stopped (h : checkAirStart s fs = .ok ()) : s.aclk.air = .stopped := by
  unfold checkAirStart at h
  obtain ⟨_, _, h⟩ := Except.bind_eq_ok_iff.mp h
  simpa using refuseIf_eq_ok_iff.mp h

/-- In STOPPED no record stands in an image. -/
theorem State.AirShape.inImages_stopped (h : s.AirShape) (hs : s.aclk.air = .stopped) : s.inImages = [] := by
  unfold State.AirShape at h
  rw [hs] at h
  unfold State.inImages
  rw [h.1, h.2.1]
  rfl

theorem applyAirStart_inImages (tag : Nat) (h : s.AirShape) (hc : checkAirStart s fs = .ok ()) :
    (applyAirStart tag s).inImages = s.inImages := by
  have hs := checkAirStart_stopped hc
  rw [h.inImages_stopped hs]
  unfold State.AirShape at h
  rw [hs] at h
  unfold State.inImages
  rw [show (applyAirStart tag s).wsch.onAir = none from h.2.1]
  rfl

theorem applyAirStart_sound (tag : Nat) (h : s.Sound) (hshape : s.AirShape) (hc : checkAirStart s fs = .ok ()) :
    (applyAirStart tag s).Sound := by
  unfold State.Sound
  rw [applyAirStart_inImages tag hshape hc]
  exact State.SoundIn.kept h (State.kept_of rfl rfl rfl rfl)

theorem State.withdrawImage_airing (s : State) : s.withdrawImage.airingUnderWay = s.airingUnderWay := by
  unfold State.airingUnderWay
  rw [s.withdrawImage_images.2]

theorem stopRunning_sound (h : s.Sound) : (stopRunning s).Sound := by
  have withdrawn : s.withdrawImage.Sound := State.SoundIn.withdrawImage h
  unfold stopRunning
  simp only
  split
  · split
    · exact withdrawn.same rfl rfl rfl rfl
    · next ha => exact withdrawn.arriveStopped (by rw [s.withdrawImage_airing]; exact Bool.eq_false_iff.mpr ha)
  · exact withdrawn.same rfl rfl rfl rfl

/-- In STARTING nothing airs, before the withdrawal of the build and after it. -/
theorem State.AirShape.withdrawn_starting (h : s.AirShape) (hs : s.aclk.air = .starting) :
    s.withdrawImage.airingUnderWay = false := by
  unfold State.AirShape at h
  rw [hs] at h
  rw [s.withdrawImage_airing]
  unfold State.airingUnderWay
  rw [h.2.1]

theorem stopStarting_sound (h : s.Sound) (hshape : s.AirShape) (hs : s.aclk.air = .starting) : (stopStarting s).Sound := by
  have withdrawn : s.withdrawImage.Sound := State.SoundIn.withdrawImage h
  exact withdrawn.arriveStopped (hshape.withdrawn_starting hs)

/-! ### Every event -/

theorem without_middle {m : MsgId} {l l' : List MsgId} (h : (l ++ m :: l').Nodup) :
    Without m (l ++ m :: l') (l ++ l') := by
  have hm : m ∉ l ++ l' := (List.nodup_middle.mp h).notMem
  refine ⟨List.Sublist.append_left (List.sublist_cons_self m l') l, fun x => ⟨fun hx => ⟨?_, fun hxm => hm (hxm ▸ hx)⟩, ?_⟩⟩
  · rcases List.mem_append.mp hx with hx | hx
    · exact List.mem_append_left _ hx
    · exact List.mem_append_right _ (List.mem_cons_of_mem _ hx)
  · rintro ⟨hx, hne⟩
    simpa [hne] using hx

/-- The record the walk comes to stands in a queue. -/
theorem State.Sound.nextOfWalk (h : s.Sound) {b : Build} {r : PageRec} (hr : s.nextOfWalk b = some r) :
    s.rec? r.id = some r ∧ (r.state = .queued ∨ r.state = .retryWait) := by
  obtain ⟨m, hm, hrec⟩ := List.mem_filterMap.mp (List.mem_of_find?_eq_some hr)
  obtain rfl := State.rec?_id hrec
  obtain ⟨e, he⟩ := State.SoundIn.entry h hrec
  exact ⟨hrec, (((State.SoundIn.inPlace h hrec he).1 _).mp hm).1⟩

theorem State.kept_sweepOn (s : State) (cursor closed : Nat) : s.Kept (s.sweepOn cursor closed) :=
  State.kept_of (by simp) (by simp) (by simp) (by simp)

theorem State.kept_visit (s : State) (w : Sweep) : s.Kept (s.visit w) := by
  unfold State.visit
  split
  · exact s.kept_sweepOn _ _
  · next e he =>
    split
    · exact State.kept_of rfl rfl rfl rfl
    · exact (State.kept_closePeriod he).trans (State.kept_sweepOn _ _ _)

theorem State.unlock_queues (s : State) : s.unlock.wsch.queues = s.wsch.queues := by
  unfold State.unlock State.raiseLock
  simp only
  split <;> rfl

theorem State.restartDetector_queues (s : State) : s.restartDetector.wsch.queues = s.wsch.queues := by
  unfold State.restartDetector
  exact State.unlock_queues _

theorem State.countStrobe_queues (s : State) (good : Bool) : (s.countStrobe good).wsch.queues = s.wsch.queues := by
  unfold State.countStrobe
  simp only
  (repeat' split) <;> simp [State.unlock_queues]

theorem State.Event.sound (h : s.Sound) (he : s.Event u) : u.Sound := by
  cases he with
  | offered | badLine | lineSent => exact h.same rfl rfl rfl rfl
  | received l bytes =>
    obtain ⟨hsubs, _, hstore, _, hwsch, _, hrmat, _⟩ := s.received_frame l bytes
    exact h.same hsubs (by rw [hstore]) hwsch (by rw [hrmat])
  | @reportTaken p rest hp =>
    refine State.Sound.of (s := { s with rxi := { s.rxi with replies := rest } }) ?_ (by simp) (by simp)
    have taken : State.Sound { s with rxi := { s.rxi with replies := rest } } := h.same rfl rfl rfl rfl
    exact State.SoundIn.takeReport taken p
  | strobe good =>
    exact h.kept (State.kept_of (by simp) (by simp) (s.countStrobe_queues good) (by simp)) (by simp) (by simp)
  | leadInEnd | windowBoundary =>
    refine State.Sound.startOrHold ?_
    exact h.same rfl rfl rfl rfl
  | heldWindowStart hs hw hr => exact State.SoundIn.windowStart h hr
  | windowEndHeld => exact h.same rfl rfl rfl rfl
  | windowEnd hs hw ha =>
    exact State.Sound.arriveStopped (s := { s with aclk := s.aclk.advance }) (h.same rfl rfl rfl rfl) ha
  | walked hb he hr =>
    obtain ⟨hrec, hstate⟩ := h.nextOfWalk hr
    exact State.SoundIn.walk h hb rfl hrec hstate
  | @buildEnded b hb he hr =>
    have himages : (s.endBuild b).inImages = s.inImages := by
      rw [State.inImages_some hb]
      rfl
    unfold State.Sound
    rw [himages]
    exact State.SoundIn.kept h (State.kept_of rfl rfl rfl rfl)
  | @aired im m rest ho =>
    refine State.Sound.afterAiring ?_
    have off : State.SoundIn { s with wsch := { s.wsch with onAir := some { image := im, toAir := rest } } } s.inImages :=
      State.SoundIn.kept h (State.kept_of rfl rfl rfl rfl)
    obtain ⟨_, _, _, _, ⟨hnodup, _⟩, _⟩ := h
    have himages : s.inImages = (s.wsch.build.elim [] fun b => b.image.order) ++ m :: rest := by
      unfold State.inImages
      cases s.wsch.build <;> simp [ho]
    have hrest : State.inImages { s with wsch := { s.wsch with onAir := some { image := im, toAir := rest } } } =
        (s.wsch.build.elim [] fun b => b.image.order) ++ rest := by
      unfold State.inImages
      cases s.wsch.build <;> rfl
    refine State.Sound.of (s := { s with wsch := { s.wsch with onAir := some { image := im, toAir := rest } } }) ?_
      (by simp) (by simp)
    rw [hrest]
    rw [himages] at off hnodup
    exact off.airOne (by simp) (without_middle hnodup) im
  | waitExpired hr =>
    obtain ⟨hrec, hm, hp⟩ := State.found hr
    simp only [Bool.and_eq_true, beq_iff_eq] at hp
    exact State.Sound.of (State.SoundIn.expire h hrec hp.1) (by simp) (by simp)
  | holdEnded hr hs hw =>
    have hrec := (State.holds_of_rec? hr) h.1
    refine State.Sound.of (State.SoundIn.freeRec h hrec (by simp [hs]) (by simp [hs]) _) ?_ ?_
    · exact (State.freeRec_images _ _ _).1
    · exact (State.freeRec_images _ _ _).2
  | readWaitEnded hr =>
    obtain ⟨hrec, hm, hp⟩ := State.found hr
    simp only [Bool.and_eq_true, beq_iff_eq] at hp
    refine State.Sound.of (State.SoundIn.freeRec h hrec (by simp [hp.1]) (fun _ => hm) _) ?_ ?_
    · exact (State.freeRec_images _ _ _).1
    · exact (State.freeRec_images _ _ _).2
  | visited hw => exact h.kept (s.kept_visit _) (by simp) (by simp)

/-! ### Every command -/

theorem State.Sound.floorTests (h : s.Sound) (n : Nat) (old : Int) (given : Option Int) :
    (s.floorTests n old given).Sound := by
  unfold State.floorTests
  (repeat' split)
  · exact h.kept (s.kept_barTest n) (by simp) (by simp)
  · exact h.kept (s.kept_unbarTest n) (by simp) (by simp)
  · exact h
  · exact h

theorem applyCancel_sound (tag : Nat) {r : PageRec} (h : s.Sound) (hr : s.rec? r.id = some r) :
    (applyCancel tag r s).Sound := by
  have freed : r.state ≠ .placed → r.state ≠ .delivered → (s.freeRec r .cancelled).Sound := fun h1 h2 =>
    State.Sound.of (State.SoundIn.freeRec h hr h1 (fun hd => absurd hd h2) _) (State.freeRec_images _ _ _).1
      (State.freeRec_images _ _ _).2
  have hwhole := State.SoundIn.whole h hr
  unfold applyCancel
  split
  case h_1 hs | h_2 hs | h_6 hs => exact (freed (by simp [hs]) (by simp [hs])).answer
  case h_3 | h_5 => exact h.answer
  case h_4 hs =>
    refine State.Sound.answer ?_
    refine State.Sound.of (s := s) ?_ rfl rfl
    exact State.SoundIn.putRec h hr (PageRec.sameLinks_of rfl rfl rfl rfl rfl)
      (hwhole.of hwhole.1 hwhole.2.1 Iff.rfl rfl ⟨rfl, rfl⟩ hwhole.2.2.2.2) (.inl rfl)

/-- An entry changes beside what it says of its records; its home window only while it has none. -/
theorem applySubSet_sound (tag : Nat) {ae : SubSetArgs × Entry} (h : s.Sound) (hc : checkSubSet s fs = .ok ae) :
    (applySubSet tag ae s).Sound := by
  obtain ⟨a, e⟩ := ae
  obtain ⟨he, hlive, _⟩ := checkSubSet_eq_ok hc
  have hhome : (a.entry e).home = e.home ∨ e.live = 0 := by
    cases ha : a.home with
    | none => exact .inl (by simp [SubSetArgs.entry, ha])
    | some w =>
      by_cases hw : w = e.home
      · exact .inl (by simp [SubSetArgs.entry, ha, hw])
      · exact .inr (hlive (by simp [ha, changes, hw]))
  have set : (s.setSub a.sub (a.entry e)).Sound :=
    State.Sound.of (State.SoundIn.setSub h he ⟨rfl, rfl, rfl, rfl, hhome⟩) rfl rfl
  exact (set.floorTests _ _ _).answer

/-- What a SUB REMOVE that passes its checks has found (R19). -/
theorem checkSubRemove_eq_ok {ne : Nat × Entry} (h : checkSubRemove s fs = .ok ne) :
    s.sub? ne.1 = some ne.2 ∧ ne.2.live = 0 ∧ s.journalFull = false := by
  unfold checkSubRemove at h
  obtain ⟨⟨n, e⟩, hne, h⟩ := Except.bind_eq_ok_iff.mp h
  obtain ⟨_, hlive, h⟩ := Except.bind_eq_ok_iff.mp h
  obtain ⟨_, hfull, h⟩ := Except.bind_eq_ok_iff.mp h
  cases h
  exact ⟨(namedEntry_eq_ok hne).2, by simpa using refuseIf_eq_ok_iff.mp hlive, refuseIf_eq_ok_iff.mp hfull⟩

/-- What a PERIOD CLOSE that passes its checks has found (R164). -/
theorem checkPeriodClose_eq_ok {ne : Nat × Entry} (h : checkPeriodClose s fs = .ok ne) :
    s.sub? ne.1 = some ne.2 ∧ s.acct.sweep = none ∧ s.journalFull = false := by
  unfold checkPeriodClose at h
  obtain ⟨_, _, h⟩ := Except.bind_eq_ok_iff.mp h
  obtain ⟨n, _, h⟩ := Except.bind_eq_ok_iff.mp h
  obtain ⟨_, hsweep, h⟩ := Except.bind_eq_ok_iff.mp h
  obtain ⟨e, he, h⟩ := Except.bind_eq_ok_iff.mp h
  obtain ⟨_, hfull, h⟩ := Except.bind_eq_ok_iff.mp h
  cases h
  exact ⟨presentEntry_eq_ok_iff.mp he, by simpa using refuseIf_eq_ok_iff.mp hsweep, refuseIf_eq_ok_iff.mp hfull⟩

theorem applySubRemove_sound (tag : Nat) {ne : Nat × Entry} (h : s.Sound) (hc : checkSubRemove s fs = .ok ne) :
    (applySubRemove tag ne s).Sound := by
  obtain ⟨n, e⟩ := ne
  obtain ⟨he, h0, _⟩ := checkSubRemove_eq_ok hc
  have written : (s.writeRec (closeRec s n e)).Sound := h.kept (s.kept_writeRec _) (by simp) (by simp)
  refine State.Sound.answer ?_
  refine State.Sound.of (s := s.writeRec (closeRec s n e)) ?_ rfl rfl
  exact State.SoundIn.removeSub written (by rw [State.sub?_congr (s := s) (by simp)]; exact he) h0

theorem State.Effect.sound (h : s.Sound) (hshape : s.AirShape) (he : s.Effect u) : u.Sound := by
  cases he with
  | denied tag d => exact h.same (by simp) (by simp) (by simp) (by simp)
  | subAdd tag hc =>
    refine State.Sound.answer ?_
    refine State.Sound.of (s := s) ?_ rfl rfl
    exact State.SoundIn.addSub h (checkSubAdd_eq_ok hc).2.1 ⟨rfl, rfl, rfl, rfl⟩
  | subSet tag hc => exact applySubSet_sound tag h hc
  | subState tag st hc =>
    refine State.Sound.answer ?_
    refine State.Sound.of (s := s) ?_ rfl rfl
    exact State.SoundIn.setSub h (namedEntry_eq_ok hc).2 ⟨rfl, rfl, rfl, rfl, .inl rfl⟩
  | subRemove tag hc => exact applySubRemove_sound tag h hc
  | @submit tag fs a hc =>
    obtain ⟨e, he, _, _, hroom⟩ := checkSubmit_eq_ok hc
    obtain ⟨_, _, _, _, _, _, _, _, hbuild, honAir, _⟩ := applySubmit_frame tag a s
    exact State.Sound.of (State.SoundIn.submit h he hroom tag) hbuild honAir
  | cancel tag hc => exact applyCancel_sound tag h (namedRecord_eq_ok hc)
  | heldRelease tag hc =>
    refine State.Sound.answer (State.Sound.of (s := s) ?_ (by simp) (by simp))
    exact State.SoundIn.recoverAll h _
  | airStart tag hc => exact applyAirStart_sound tag h hshape hc
  | airStop tag hc =>
    unfold applyAirStop
    simp only
    split
    · exact h
    · next hs => exact (stopStarting_sound h hshape hs).answer
    · exact (stopRunning_sound h).answer
    · exact h.answer
  | tariffLoad tag hc =>
    unfold applyTariffLoad
    simp only
    split <;> exact h.same rfl rfl rfl rfl
  | bandSet tag b =>
    unfold applyBandSet
    split <;> exact h.same rfl rfl rfl rfl
  | zoneGet tag fs =>
    unfold applyZoneGet
    simp only
    (repeat' split) <;> exact h.same rfl rfl rfl rfl
  | money tag hk hc =>
    unfold applyMoney
    simp only
    split
    · exact h
    · split
      · exact (h.kept (s.kept_postCredit _ _ _) (by simp) (by simp)).answer
      · exact (h.kept (s.kept_postCharge _ _ _) (by simp) (by simp)).answer
  | billRead tag count =>
    unfold applyBillRead
    simp only
    (repeat' split) <;> exact h.same rfl rfl rfl rfl
  | billRewind tag hc =>
    unfold applyBillRewind
    split <;> exact h.same (by simp) (by simp) (by simp) (by simp)
  | periodClose tag hc =>
    exact (State.Sound.kept h (State.kept_closePeriod (checkPeriodClose_eq_ok hc).1) (by simp) (by simp)).answer
  | noticeLevels tag fs =>
    unfold applyLevels
    split <;> exact h.same rfl rfl rfl rfl
  | status tag fs =>
    unfold applyStatus
    simp only
    split <;> exact h.kept (State.kept_of rfl rfl rfl rfl) rfl rfl
  | officeSet tag hc =>
    refine State.Sound.answer ?_
    simp only
    (repeat' split) <;>
      exact h.kept (State.kept_of (by simp) (by simp) (by simp [State.restartDetector_queues]) (by simp)) (by simp) (by simp)
  | restart tag hc => exact State.Sound.answer (State.SoundIn.restarted s)
  | answered | planSet | zoneSet | periodCloseAll => exact h.same rfl rfl rfl rfl

theorem State.reset_sound (p : List Instr) : State.Sound { State.reset with pending := p } := State.SoundIn.reset p

/-- Agreement, as a step keeps it. -/
theorem State.sound_kept (h : s.Sound) (hshape : s.AirShape) (hstep : step s = .next t) : t.Sound :=
  step_keeps (P := fun v => v.Sound ∧ v.AirShape) (Q := State.Sound) hstep ⟨h, hshape⟩
    (fun _ _ hv => ⟨hv.1.same rfl rfl rfl rfl, hv.2.congr (State.sameAir_of rfl rfl rfl rfl)⟩) (fun _ hv => hv.1)
    State.reset_sound
    (fun _ _ _ _ hv => ⟨hv.1.same rfl rfl rfl rfl, hv.2.congr (State.sameAir_of rfl rfl rfl rfl)⟩)
    (fun _ _ hv he => he.sound hv.1 hv.2) (fun _ _ hv he => he.sound hv.1) (fun _ hv => hv.same rfl rfl rfl rfl)

theorem State.linked_kept (hc : s.Canonical) (hs : s.Sized) (hshape : s.AirShape) (h : s.Linked)
    (hstep : step s = .next t) : t.Linked := by
  have ht := State.sound_kept ((State.soundIn_iff (State.keyed_of hc hs)).mpr h) hshape hstep
  exact (State.soundIn_iff ht.1).mp ht

end Sys2Proof.Machine
end

section
/-! The journal's room for what is in the images (R157, R159), the seventh part of O57, what the agreement of records and
places says of the lengths of the lists, and O57 itself. -/

namespace Sys2Proof.Machine

variable {s t u : State} {fs : List RawField} {n : Nat}

theorem State.Roomy.iff (h : s.Roomy) : s.RoomFor s.inImages.length := (State.roomy_iff s).mp h

theorem State.RoomFor.roomy (h : t.RoomFor n) (hi : t.inImages.length = n) : t.Roomy :=
  (State.roomy_iff t).mpr (by rw [hi]; exact h)

/-- Neither images nor journal nor its mode change. -/
theorem State.Roomy.of (h : s.Roomy) (hb : t.wsch.build = s.wsch.build) (ho : t.wsch.onAir = s.wsch.onAir)
    (ha : t.acct = s.acct) (hm : t.office = s.office) : t.Roomy :=
  (h.iff.congr (by rw [hm]) (by rw [ha]) (by rw [ha])).roomy (by rw [State.inImages_congr hb ho])

/-- As many records are in images, and journal and mode stand. -/
theorem State.Roomy.moved (h : s.Roomy) (hi : t.inImages.length = s.inImages.length) (ha : t.acct = s.acct)
    (hm : t.office = s.office) : t.Roomy :=
  (h.iff.congr (by rw [hm]) (by rw [ha]) (by rw [ha])).roomy hi

/-- The images stand, and the journal has the room it had for them. -/
theorem State.RoomFor.same (h : t.RoomFor s.inImages.length) (hb : t.wsch.build = s.wsch.build)
    (ho : t.wsch.onAir = s.wsch.onAir) : t.Roomy := h.roomy (by rw [State.inImages_congr hb ho])

/-- Fewer unread records leave the room there was. -/
theorem State.RoomFor.fewer (h : s.RoomFor n) (ho : t.office.journalMode = s.office.journalMode)
    (ha : t.acct.airReserved = s.acct.airReserved) (hu : t.acct.unread ≤ s.acct.unread) : t.RoomFor n := by
  unfold State.RoomFor at h ⊢
  rw [ho, ha]
  cases hm : s.office.journalMode with
  | hold =>
    rw [hm] at h
    exact ⟨h.1, Nat.le_trans (Nat.add_le_add_right hu n) h.2⟩
  | overwrite =>
    rw [hm] at h
    exact h

/-- Without reservations there is room for no placement in either mode, with the unread records in the ring. -/
theorem State.roomFor_zero (ha : t.acct.airReserved = 0) (hu : t.acct.unread ≤ Config.journal) : t.RoomFor 0 := by
  unfold State.RoomFor
  cases t.office.journalMode with
  | hold => exact ⟨ha, hu⟩
  | overwrite => exact ha

theorem Acct.Ordered.unread_le {a : Acct} (h : a.Ordered) : a.unread ≤ Config.journal := Nat.le_trans h.2.1 h.1

theorem State.RoomFor.judgeJournalHigh (h : s.RoomFor n) : s.judgeJournalHigh.RoomFor n := by
  refine h.congr (by simp) ?_ ?_ <;> rw [State.judgeJournalHigh_acct]
  rfl

/-! ### Reports, expiries and the sweep -/

theorem State.RoomFor.readRec (h : s.RoomFor n) (r : PageRec) : (s.readRec r).RoomFor n := by
  unfold State.readRec
  split
  · exact h
  · simp only
    split
    · exact h.congr (by simp) (by simp) (by simp)
    · next e _ _ =>
      have posted : (s.postCharge r.sub (s.plan e.plan).receiptFee
          { blankRec s .receipt r.sub with msg := some r.id }).RoomFor n := h.postCharge _ _ (by simp [blankRec])
      exact posted.congr (by simp) (by simp) (by simp)

theorem State.RoomFor.deliverRead (h : s.RoomFor n) (r : PageRec) (p : Report) : (s.deliverRead r p).RoomFor n := by
  unfold State.deliverRead
  refine State.RoomFor.readRec ?_ _
  split <;> exact h.congr (by simp) (by simp) (by simp)

theorem State.RoomFor.readReport (h : s.RoomFor n) (k : Nat) (p : Report) : (s.readReport k p).RoomFor n := by
  unfold State.readReport
  split
  · exact h
  · next r _ =>
    split
    · split
      · exact h.congr (by simp) (by simp) (by simp)
      · exact h.deliverRead r p
    · exact h.deliverRead r p
    · exact h.congr (by simp) (by simp) (by simp)
    · split
      · exact h.readRec r
      · exact h
    · exact h
    · exact h

theorem State.RoomFor.takeReport (h : s.RoomFor n) (p : Report) : (s.takeReport p).RoomFor n := by
  unfold State.takeReport
  split
  · exact h
  · split
    · exact h
    · split
      · exact h
      · simp only [State.byKind]
        split
        · exact h.congr (by simp) (by simp) (by simp)
        · exact State.RoomFor.readReport (h.congr (by simp) (by simp) (by simp)) _ p
        · exact h.congr (by simp) (by simp) (by simp)
        · split <;> exact h.congr (by simp) (by simp) (by simp)

theorem State.RoomFor.postRefund (h : s.RoomFor n) (r : PageRec) : (s.postRefund r).1.RoomFor n := by
  unfold State.postRefund
  split
  · exact h
  · split
    · exact h
    · exact h.postCredit _ _ (by simp [blankRec])

theorem State.RoomFor.expire (h : s.RoomFor n) (r : PageRec) : (s.expire r).RoomFor n := by
  unfold State.expire
  split
  · exact h.congr (by simp) (by simp) (by simp)
  · split
    · exact h.congr (by simp) (by simp) (by simp)
    · unfold State.miss
      exact State.RoomFor.postRefund (h.congr (by simp) (by simp) (by simp)) r

theorem State.RoomFor.sweepOn (h : s.RoomFor n) (cursor closed : Nat) : (s.sweepOn cursor closed).RoomFor n := by
  unfold State.sweepOn
  split <;> exact h.congr rfl rfl rfl

theorem State.RoomFor.visit (h : s.RoomFor n) (w : Sweep) : (s.visit w).RoomFor n := by
  unfold State.visit
  split
  · exact h.sweepOn _ _
  · split
    · exact h.congr rfl rfl rfl
    · next hfull => exact (h.closePeriod (Bool.eq_false_iff.mpr hfull) _ _).sweepOn _ _

/-! ### Images that change -/

theorem State.windowStart_inImages (hr : s.windowReady = true) : s.windowStart.inImages = s.inImages := by
  have key : s.windowStart.wsch.onAir = s.wsch.build.map (fun b => { image := b.image, toAir := b.image.order }) ∧
      s.windowStart.wsch.build.map (fun b => b.image.order) = some [] := by
    unfold State.windowStart
    by_cases hw : s.aclk.window = 0 <;> simp [hw, State.beginBuild, Wsch.putOnAir]
  obtain ⟨hair, hbuild⟩ := key
  obtain ⟨b', hb', hempty⟩ := Option.map_eq_some_iff.mp hbuild
  unfold State.windowReady at hr
  unfold State.inImages
  rw [hair, hb']
  cases hb : s.wsch.build with
  | none => simp [hb] at hr
  | some b =>
    cases ho : s.wsch.onAir with
    | none => simp [hempty]
    | some o =>
      rw [hb, ho] at hr
      simp only [Bool.and_eq_true, List.isEmpty_iff] at hr
      simp [hempty, hr.2]

theorem State.Roomy.windowStart (h : s.Roomy) (hr : s.windowReady = true) : s.windowStart.Roomy :=
  (h.iff.congr (by simp) (by simp) (by simp)).roomy (by rw [State.windowStart_inImages hr])

theorem State.Roomy.startOrHold (h : s.Roomy) : s.startOrHold.Roomy := by
  unfold State.startOrHold
  split
  · next hr => exact h.windowStart hr
  · exact h.of rfl rfl rfl rfl

theorem State.Roomy.arriveStopped (h : s.Roomy) (ha : s.airingUnderWay = false) : s.arriveStopped.Roomy :=
  h.moved (by rw [State.arriveStopped_inImages ha]) rfl rfl

theorem State.Roomy.afterAiring (h : s.Roomy) : s.afterAiring.Roomy := by
  unfold State.afterAiring
  split
  · exact h
  · next ha =>
    have ha := Bool.eq_false_iff.mpr ha
    split
    · exact State.Roomy.arriveStopped (s := { s with aclk := s.aclk.advance }) (h.of rfl rfl rfl rfl) ha
    · exact h.arriveStopped ha
    · exact h
    · exact h

/-- A withdrawn image gives back the reservations of its records. -/
theorem State.Roomy.withdrawImage (h : s.Roomy) : s.withdrawImage.Roomy := by
  have hroom := h.iff
  cases hb : s.wsch.build with
  | none =>
    unfold State.withdrawImage
    rw [hb]
    exact h
  | some b =>
    obtain ⟨hbuild, honAir⟩ := s.withdrawImage_images
    have himages : s.inImages.length = b.image.order.length + s.withdrawImage.inImages.length := by
      unfold State.inImages
      rw [hbuild, honAir, hb]
      simp
    have hunread : s.withdrawImage.acct.unread = s.acct.unread := by
      unfold State.withdrawImage
      rw [hb]
      unfold Acct.unread
      simp [State.foldl_withdrawRec_frame]
    have hreserved : s.withdrawImage.acct.airReserved = s.acct.airReserved -
        (match s.office.journalMode with | .hold => b.image.order.length | .overwrite => 0) := by
      unfold State.withdrawImage
      rw [hb]
      simp only [State.foldl_withdrawRec_frame] <;> rfl
    refine (State.roomy_iff _).mpr ?_
    unfold State.RoomFor at hroom ⊢
    rw [show s.withdrawImage.office = s.office by simp, hunread, hreserved]
    cases hm : s.office.journalMode with
    | hold =>
      rw [hm] at hroom
      simp only at hroom ⊢
      omega
    | overwrite =>
      rw [hm] at hroom
      simp only at hroom ⊢
      omega

/-- The walk reserves for the record it places, where it found room. -/
theorem State.Roomy.offer (h : s.Roomy) {b : Build} (hb : s.wsch.build = some b) (r : PageRec) (e : Entry) :
    (s.offer b r e).Roomy := by
  have deferred : (s.deferRec r).Roomy := h.of rfl rfl rfl rfl
  unfold State.offer
  simp only
  split
  · exact deferred
  · split
    · exact deferred
    · split
      · exact deferred
      · split
        · refine h.moved ?_ rfl rfl
          rw [State.inImages_some hb]
          rfl
        · next hfull =>
          have hroom : s.roomToPlace = true := by simpa using hfull
          split
          · refine h.of (s.deferOversize_images r).1 (s.deferOversize_images r).2 ?_ ?_ <;> simp
          · split
            · exact deferred
            · refine ((h.iff.reserveAir hroom).congr ?_ ?_ ?_).roomy ?_
              · simp
              · rw [State.acct_placeRec]
              · rw [State.acct_placeRec]
              · obtain ⟨hbuild, honAir⟩ := s.placeRec_images b r e _ _
                rw [State.inImages_some hbuild, State.inImages_some hb, honAir]
                simp only [imagesOf, Image.placed, List.length_append, List.length_singleton]
                omega

theorem State.Roomy.walk (h : s.Roomy) {b : Build} (hb : s.wsch.build = some b) (r : PageRec) : (s.walk b r).Roomy := by
  have reached : (s.setBuild { b with reached := some r.queuePlace }).Roomy := by
    refine h.moved ?_ rfl rfl
    rw [State.inImages_some hb]
    rfl
  unfold State.walk
  simp only
  split
  · exact reached
  · split
    · exact reached
    · split
      · exact reached.of rfl rfl rfl rfl
      · exact State.Roomy.offer reached rfl r _

/-! ### Every event -/

theorem State.RoomFor.airOne (h : s.RoomFor (n + 1)) {m : MsgId} {r : PageRec} {e : Entry} (hr : s.rec? m = some r)
    (he : s.sub? r.sub = some e) (im : Image) : (s.airOne im m).RoomFor n := by
  unfold State.airOne
  rw [hr]
  simp only [he]
  exact (h.airPost im r he).congr (by simp) (by simp) (by simp)

theorem State.Event.roomy (hs : s.Sound) (h : s.Roomy) (he : s.Event u) : u.Roomy := by
  cases he with
  | offered | badLine | lineSent | windowEndHeld => exact h.of rfl rfl rfl rfl
  | received l bytes =>
    obtain ⟨_, _, _, _, hwsch, _, _, _, hacct, hoffice, _⟩ := s.received_frame l bytes
    exact h.of (by rw [hwsch]) (by rw [hwsch]) hacct hoffice
  | @reportTaken p rest hp =>
    refine State.RoomFor.same (s := s) ?_ (by simp) (by simp)
    refine State.RoomFor.takeReport ?_ p
    exact h.iff
  | strobe good => exact h.of (by simp) (by simp) (by simp) (by simp)
  | leadInEnd | windowBoundary =>
    refine State.Roomy.startOrHold ?_
    exact h.of rfl rfl rfl rfl
  | heldWindowStart _ _ hr => exact h.windowStart hr
  | windowEnd _ _ ha =>
    exact State.Roomy.arriveStopped (s := { s with aclk := s.aclk.advance }) (h.of rfl rfl rfl rfl) ha
  | walked hb => exact h.walk hb _
  | buildEnded hb =>
    refine h.moved ?_ rfl rfl
    rw [State.inImages_some hb]
    rfl
  | @aired im m rest ho =>
    refine State.Roomy.afterAiring ?_
    have himages : s.inImages.length =
        (State.inImages { s with wsch := { s.wsch with onAir := some { image := im, toAir := rest } } }).length + 1 := by
      unfold State.inImages
      simp only [ho, List.length_append, List.length_cons]
      omega
    have hm : m ∈ s.inImages := by
      unfold State.inImages
      simp [ho]
    obtain ⟨_, _, _, _, hlists, _⟩ := id hs
    obtain ⟨r, hr, _⟩ := State.SoundIn.rec_of_lists hs hlists hm
    obtain ⟨e, he⟩ := State.SoundIn.entry hs hr
    have hroom := h.iff
    rw [himages] at hroom
    refine State.RoomFor.same (s := { s with wsch := { s.wsch with onAir := some { image := im, toAir := rest } } }) ?_
      (by simp) (by simp)
    exact State.RoomFor.airOne (s := { s with wsch := { s.wsch with onAir := some { image := im, toAir := rest } } })
      hroom hr he im
  | waitExpired => exact (h.iff.expire _).same (by simp) (by simp)
  | holdEnded | readWaitEnded =>
    exact h.of (State.freeRec_images _ _ _).1 (State.freeRec_images _ _ _).2 (by simp) (by simp)
  | visited => exact (h.iff.visit _).same (by simp) (by simp)

/-! ### Every command -/

theorem applyAirStart_roomy (tag : Nat) (h : s.Roomy) (hshape : s.AirShape) (hc : checkAirStart s fs = .ok ()) :
    (applyAirStart tag s).Roomy :=
  h.moved (by rw [applyAirStart_inImages tag hshape hc]) rfl rfl

theorem stopRunning_roomy (h : s.Roomy) : (stopRunning s).Roomy := by
  unfold stopRunning
  simp only
  split
  · split
    · exact h.withdrawImage.of rfl rfl rfl rfl
    · next ha =>
      exact h.withdrawImage.arriveStopped (by rw [s.withdrawImage_airing]; exact Bool.eq_false_iff.mpr ha)
  · exact h.withdrawImage.of rfl rfl rfl rfl

theorem stopStarting_roomy (h : s.Roomy) (hshape : s.AirShape) (hs : s.aclk.air = .starting) :
    (stopStarting s).Roomy := h.withdrawImage.arriveStopped (hshape.withdrawn_starting hs)

/-- A rewind that passes its checks finds the room (R163). -/
theorem applyBillRewind_roomy (tag : Nat) {r : Rewind} (h : s.Roomy) (ho : s.acct.Ordered)
    (hc : checkBillRewind s fs = .ok r) : (applyBillRewind tag r s).Roomy := by
  cases r with
  | stay =>
    refine State.RoomFor.same (s := s) ?_ (by simp [applyBillRewind]) (by simp [applyBillRewind])
    refine State.RoomFor.judgeJournalHigh ?_
    exact h.iff
  | back seq =>
    obtain ⟨i, hp, hi, hroom⟩ := checkBillRewind_back hc
    have hunread : (s.acct.nextSeq - seq).toNat = s.acct.ring.length - i := (ho.rewind hp).1
    have hin := ho.2.1
    have back : State.RoomFor { s with acct := { s.acct with cursor := seq } } s.inImages.length := by
      have hs := h.iff
      unfold State.RoomFor at hs ⊢
      unfold Acct.unreadFrom at hi hroom
      cases hm : s.office.journalMode with
      | hold =>
        rw [hm] at hs
        simp only [hm, true_and, Config.journal, Config.reserve] at hs hroom ⊢
        refine ⟨hs.1, ?_⟩
        unfold Acct.unread at hin hi hroom ⊢
        simp only
        omega
      | overwrite =>
        rw [hm] at hs
        exact hs
    refine State.RoomFor.same (s := s) ?_ (by simp [applyBillRewind]) (by simp [applyBillRewind])
    refine State.RoomFor.judgeJournalHigh ?_
    exact back

/-- A mode given finds the air in STOPPED (R178). -/
theorem checkOfficeSet_mode (hc : checkOfficeSet s fs = .ok ()) :
    (s.office.updated fs).journalMode = s.office.journalMode ∨ s.aclk.air = .stopped := by
  unfold checkOfficeSet at hc
  obtain ⟨_, _, hc⟩ := Except.bind_eq_ok_iff.mp hc
  obtain ⟨_, _, hc⟩ := Except.bind_eq_ok_iff.mp hc
  have hc := refuseIf_eq_ok_iff.mp hc
  cases hk : hasKey fs "JOURNALMODE" with
  | false =>
    refine .inl ?_
    unfold Office.updated
    simp only [fieldOf_of_not_hasKey _ hk, Option.getD_none]
  | true => exact .inr (by simpa [hk] using hc)

theorem applyOfficeSet_frame (tag : Nat) (fs : List RawField) (s : State) :
    (applyOfficeSet tag fs s).office = s.office.updated fs ∧ (applyOfficeSet tag fs s).acct = s.acct ∧
      (applyOfficeSet tag fs s).wsch.build = s.wsch.build ∧ (applyOfficeSet tag fs s).wsch.onAir = s.wsch.onAir := by
  unfold applyOfficeSet
  simp only
  (repeat' split) <;> simp

/-- The mode is given in STOPPED only, where there is no placement and no reservation (R159, R178). -/
theorem applyOfficeSet_roomy (tag : Nat) (h : s.Roomy) (hshape : s.AirShape) (ho : s.acct.Ordered)
    (hc : checkOfficeSet s fs = .ok ()) : (applyOfficeSet tag fs s).Roomy := by
  obtain ⟨hoffice, hacct, hbuild, honAir⟩ := applyOfficeSet_frame tag fs s
  rcases checkOfficeSet_mode hc with hmode | hstopped
  · exact (h.iff.congr (by rw [hoffice, hmode]) (by rw [hacct]) (by rw [hacct])).same hbuild honAir
  · have hnone := hshape.inImages_stopped hstopped
    have hzero : s.acct.airReserved = 0 := by
      have hs := h.iff
      rw [hnone] at hs
      unfold State.RoomFor at hs
      cases hm : s.office.journalMode with
      | hold => rw [hm] at hs; exact hs.1
      | overwrite => rw [hm] at hs; exact hs
    refine State.RoomFor.roomy (State.roomFor_zero (by rw [hacct]; exact hzero) (by rw [hacct]; exact ho.unread_le)) ?_
    rw [State.inImages_congr hbuild honAir, hnone]
    rfl

theorem State.Effect.roomy (hshape : s.AirShape) (ho : s.acct.Ordered) (h : s.Roomy) (he : s.Effect u) : u.Roomy := by
  cases he with
  | denied tag d => exact h.of (by simp) (by simp) (by simp) (by simp)
  | subSet tag hc =>
    unfold applySubSet State.floorTests
    simp only
    (repeat' split) <;> exact h.of (by simp) (by simp) (by simp) (by simp)
  | subRemove tag hc =>
    refine State.RoomFor.same (s := s) ?_ (by simp [applySubRemove]) (by simp [applySubRemove])
    exact h.iff.writeRec (checkSubRemove_eq_ok hc).2.2 _
  | @submit tag fs a hc =>
    obtain ⟨hacct, _, _, _, _, _, _, hoffice, hbuild, honAir, _⟩ := applySubmit_frame tag a s
    exact h.of hbuild honAir hacct hoffice
  | cancel tag hc =>
    unfold applyCancel
    split <;> exact h.of (by simp [State.freeRec_images]) (by simp [State.freeRec_images]) (by simp) (by simp)
  | heldRelease tag hc =>
    unfold applyHeldRelease
    exact h.of (by simp) (by simp) (by simp) (by simp)
  | airStart tag hc => exact applyAirStart_roomy tag h hshape hc
  | airStop tag hc =>
    unfold applyAirStop
    simp only
    split
    · exact h
    · next hs => exact (stopStarting_roomy h hshape hs).of rfl rfl rfl rfl
    · exact (stopRunning_roomy h).of rfl rfl rfl rfl
    · exact h.of rfl rfl rfl rfl
  | tariffLoad tag hc =>
    unfold applyTariffLoad
    simp only
    split <;> exact h.of rfl rfl rfl rfl
  | bandSet tag b =>
    unfold applyBandSet
    split <;> exact h.of rfl rfl rfl rfl
  | zoneGet tag fs =>
    unfold applyZoneGet
    simp only
    (repeat' split) <;> exact h.of rfl rfl rfl rfl
  | @money tag read k fs a hk hc =>
    unfold applyMoney
    simp only
    split
    · exact h
    · have notAir : k ≠ .air := by rcases hk with rfl | rfl <;> simp
      split
      · refine State.RoomFor.same (s := s) (h.iff.postCredit _ _ ?_) (by simp) (by simp)
        exact notAir
      · refine State.RoomFor.same (s := s) (h.iff.postCharge _ _ ?_) (by simp) (by simp)
        exact notAir
  | billRead tag count =>
    obtain ⟨hring, hnext, hreserved, hcursor⟩ := applyBillRead_acct tag count s
    have hk : (s.acct.unreadRecs.take count).length ≤ s.acct.unread := by
      rw [List.length_take, ho.length_unreadRecs]
      omega
    have himages : (applyBillRead tag count s).wsch = s.wsch ∧ (applyBillRead tag count s).office = s.office := by
      unfold applyBillRead
      simp only
      (repeat' split) <;> exact ⟨rfl, rfl⟩
    refine State.RoomFor.same (s := s) (h.iff.fewer (by rw [himages.2]) hreserved ?_) (by rw [himages.1]) (by rw [himages.1])
    rw [(ho.read hk hring hcursor hnext).2]
    exact Nat.sub_le _ _
  | billRewind tag hc => exact applyBillRewind_roomy tag h ho hc
  | periodClose tag hc =>
    refine State.RoomFor.same (s := s) ?_ (by simp [applyPeriodClose]) (by simp [applyPeriodClose])
    exact h.iff.closePeriod (checkPeriodClose_eq_ok hc).2.2 _ _
  | noticeLevels tag fs =>
    unfold applyLevels
    split <;> exact h.of rfl rfl rfl rfl
  | status tag fs =>
    unfold applyStatus
    simp only
    split
    · exact h.of rfl rfl rfl rfl
    · exact State.RoomFor.same (s := s) (h.iff.congr rfl rfl rfl) rfl rfl
  | officeSet tag hc => exact applyOfficeSet_roomy tag h hshape ho hc
  | restart tag hc => exact State.RoomFor.roomy (n := 0) (State.roomFor_zero rfl ho.unread_le) rfl
  | periodCloseAll => exact State.RoomFor.same (s := s) (h.iff.congr rfl rfl rfl) rfl rfl
  | answered | subAdd | subState | planSet | zoneSet => exact h.of rfl rfl rfl rfl

theorem State.reset_roomy (p : List Instr) : State.Roomy { State.reset with pending := p } :=
  ⟨rfl, show Acct.cold.unread + 0 ≤ Config.journal by decide⟩

theorem State.roomy_kept (hsound : s.Sound) (hshape : s.AirShape) (ho : s.acct.Ordered) (h : s.Roomy)
    (hstep : step s = .next t) : t.Roomy :=
  step_keeps (P := fun v => v.Sound ∧ v.AirShape ∧ v.acct.Ordered ∧ v.Roomy) (Q := State.Roomy) hstep
    ⟨hsound, hshape, ho, h⟩
    (fun _ _ ⟨h1, h2, h3, h4⟩ =>
      ⟨h1.same rfl rfl rfl rfl, h2.congr (State.sameAir_of rfl rfl rfl rfl), h3, h4.of rfl rfl rfl rfl⟩)
    (fun _ hv => hv.2.2.2) State.reset_roomy
    (fun _ _ _ _ ⟨h1, h2, h3, h4⟩ =>
      ⟨h1.same rfl rfl rfl rfl, h2.congr (State.sameAir_of rfl rfl rfl rfl), h3, h4.of rfl rfl rfl rfl⟩)
    (fun _ _ ⟨_, h2, h3, h4⟩ he => he.roomy h2 h3 h4) (fun _ _ ⟨h1, _, _, h4⟩ he => he.roomy h1 h4)
    (fun _ hv => hv.of rfl rfl rfl rfl)

/-! ### The lengths of the lists -/

/-- Rising numbers below a bound are at most as many as the bound. -/
theorem Table.count_le {α : Type} {x : Table α} (hw : x.wf = true) {k : Nat} (h : ∀ c ∈ x.cells, c.1 < k) :
    x.cells.length ≤ k := by
  have rising : (x.cells.map Prod.fst).Pairwise (· < ·) := of_decide_eq_true hw
  have below : (x.cells.map Prod.fst) ⊆ List.range k := fun n hn => by
    obtain ⟨c, hc, rfl⟩ := List.mem_map.mp hn
    exact List.mem_range.mpr (h c hc)
  have nodup : (x.cells.map Prod.fst).Nodup := rising.imp fun hlt => Nat.ne_of_lt hlt
  simpa using (nodup.subperm below).length_le

theorem State.length_live (hc : s.Canonical) (hs : s.Sized) : s.live.length ≤ Config.slots := by
  obtain ⟨_, _, _, _, _, _, _, _, hcells, _⟩ := hs
  have := Table.count_le hc.2.1 fun c hm => (hcells c hm).1
  simpa [State.live, Table.values] using this

/-- Ids of live records, each once, are at most as many as there are live records. -/
theorem Lists.length_le {live : List PageRec} {l : List MsgId} (h : Lists live l) : l.length ≤ live.length := by
  simpa using (h.1.subperm h.2).length_le

/-- The held records of an entry are live records of its subscriber. -/
theorem State.Sound.length_held (h : s.Sound) {e : Entry} (he : s.sub? n = some e) : e.held.length ≤ e.live := by
  have hlist : Lists (s.live.filter fun r => r.sub == n) e.held := by
    obtain ⟨_, _, _, _, _, _, hheld⟩ := id h
    obtain ⟨hnodup, hlive⟩ := hheld n e he
    refine ⟨hnodup, fun m hm => ?_⟩
    obtain ⟨r, hr, rfl⟩ := List.mem_map.mp (hlive m hm)
    refine List.mem_map.mpr ⟨r, List.mem_filter.mpr ⟨hr, ?_⟩, rfl⟩
    have hrec := h.1.rec?_of_mem hr
    obtain ⟨x, hx⟩ := State.SoundIn.entry h hrec
    have := (((State.SoundIn.inPlace h hrec hx).2.2.2 n e he).mp hm).2
    simp [this]
  obtain ⟨_, hagrees, _⟩ := h
  rw [(hagrees.1 n e he).1]
  exact hlist.length_le

theorem State.lengths (hc : s.Canonical) (hs : s.Sized) (h : s.Linked) :
    s.rmat.awaiting.length ≤ 2048 ∧ s.inImages.length ≤ 2048 ∧ (∀ w : Window, (s.queue w).length ≤ 2048) ∧
      ∀ n e, s.sub? n = some e → e.held.length ≤ 64 := by
  have hlive := State.length_live hc hs
  have hsound : s.Sound := (State.soundIn_iff (State.keyed_of hc hs)).mpr h
  have hplaced := hsound.2.2
  obtain ⟨_, hqueues, himages, hawaiting, _⟩ := hplaced
  refine ⟨hawaiting.length_le.trans hlive, himages.length_le.trans hlive, fun w => (hqueues w).length_le.trans hlive,
    fun n e he => (hsound.length_held he).trans ?_⟩
  obtain ⟨_, _, _, _, _, _, _, hentries, _⟩ := hs
  exact (hentries _ (Table.mem_of_get? he)).2.1

/-- Settles O57: each part is kept by every command and event for itself, the agreement and the room on the strength of
the air states and of the journal's order; the lengths are those of lists of live records, each once. -/
theorem capacitiesKept : Obligations.CapacitiesKept := by
  unfold Obligations.CapacitiesKept
  refine ⟨fun s t h => ⟨fun hc => State.canonical_kept hc h, fun hr => State.ranged_kept hr h,
    fun hc hr hs => State.sized_kept hc hr hs h, fun hi => State.inOrder_kept hi h,
    fun hc ha => State.addressesDiffer_kept hc ha h, fun hc hs hshape hl => State.linked_kept hc hs hshape hl h,
    fun hc hs hshape hl ho hroom => ?_⟩, fun s hc hs hl => State.lengths hc hs hl⟩
  exact State.roomy_kept ((State.soundIn_iff (State.keyed_of hc hs)).mpr hl) hshape ho hroom h

/-- Settles O56: a cold start leaves the tables, queues and images empty and every setting at its first value. -/
theorem invariantsHoldAtReset : Obligations.InvariantsHoldAtReset := by
  unfold Obligations.InvariantsHoldAtReset
  have hsound : State.reset.Sound := State.reset_sound []
  refine ⟨State.reset_sized, State.reset_canonical, State.reset_ranged, fun _ he => (nomatch he), Acct.cold_ordered,
    ⟨rfl, rfl, rfl, fun z => ?_⟩, State.reset_inOrder, .nil, (State.soundIn_iff hsound.1).mp hsound,
    State.reset_roomy []⟩
  simp [State.reset, ZoneCell.cold]

end Sys2Proof.Machine
end

section
/-! The queue of rows and the cold start (O1 to O3). -/

namespace Sys2Proof.Machine

variable {s t u : State}

/-! ### The queue of rows -/

theorem State.Event.pending (he : s.Event u) : u.pending = s.pending := by
  cases he with
  | received l bytes => exact (s.received_frame l bytes).2.2.2.2.2.2.2.2.2.2.2
  | offered | badLine | lineSent | windowEndHeld | windowEnd | buildEnded => rfl
  | reportTaken | strobe | leadInEnd | windowBoundary | heldWindowStart | walked | aired | waitExpired | holdEnded
  | readWaitEnded | visited => simp

theorem State.Effect.pending (he : s.Effect u) : u.pending = s.pending := by
  cases he with
  | answered | subAdd | subState | planSet | airStart | zoneSet | periodCloseAll | restart => rfl
  | denied => simp
  | subSet =>
    unfold applySubSet State.floorTests
    simp only
    (repeat' split) <;> simp
  | subRemove => simp [applySubRemove]
  | submit =>
    unfold applySubmit State.allocate
    split <;> simp
  | cancel =>
    unfold applyCancel
    split <;> simp
  | heldRelease => simp [applyHeldRelease]
  | airStop =>
    unfold applyAirStop stopStarting stopRunning
    simp only
    (repeat' split) <;> simp
  | zoneGet =>
    unfold applyZoneGet
    simp only
    (repeat' split) <;> rfl
  | tariffLoad =>
    unfold applyTariffLoad
    simp only
    split <;> simp
  | bandSet =>
    unfold applyBandSet
    split <;> rfl
  | money =>
    unfold applyMoney
    simp only
    (repeat' split) <;> simp
  | billRead =>
    unfold applyBillRead
    simp only
    (repeat' split) <;> rfl
  | billRewind =>
    unfold applyBillRewind
    split <;> simp
  | periodClose => simp [applyPeriodClose]
  | noticeLevels =>
    unfold applyLevels
    split <;> rfl
  | status =>
    unfold applyStatus
    simp only
    split <;> rfl
  | officeSet =>
    unfold applyOfficeSet
    simp only
    (repeat' split) <;> simp

theorem State.Moved.pending (h : s.Moved t) : t.pending = s.pending := by
  rcases h with rfl | rfl | ⟨l, rest, u, _, he, rfl⟩ | ⟨u, he, rfl⟩
  · rfl
  · rfl
  · exact he.pending
  · exact he.pending

/-- Settles O1, by the definition of a step. -/
theorem stepTakesFrontCommand : Obligations.StepTakesFrontCommand := by
  unfold Obligations.StepTakesFrontCommand
  intro c rest s h
  unfold step
  rw [h]

/-- Settles O2: every row leaves a state it moves to, and nothing a row does touches the queue of rows. -/
theorem everyRowEndsInNextState : Obligations.EveryRowEndsInNextState := by
  unfold Obligations.EveryRowEndsInNextState
  intro c s
  have h := exec_moved c s
  cases ht : exec c s with
  | next t =>
    rw [ht] at h
    exact ⟨t, rfl, State.Moved.pending h⟩
  | _ => rw [ht] at h; exact h.elim

/-! ### The cold start -/

/-- Settles O3: the row gives the one cold state, whose parts are read off. -/
theorem coldStartValues : Obligations.ColdStartValues := by
  unfold Obligations.ColdStartValues
  intro s
  refine ⟨{ State.reset with pending := s.pending }, rfl, rfl, rfl, rfl, rfl, rfl, rfl, rfl, rfl, fun k => ?flags, rfl, rfl,
    rfl, rfl, rfl, ?levels, fun _ => rfl, fun _ => rfl, fun p => ?plans, fun _ => rfl, fun _ => rfl, rfl, rfl, rfl, ?chunks,
    ⟨rfl, rfl, rfl, rfl, rfl, rfl, rfl⟩, Wsch.cold_queue, rfl, rfl, rfl, rfl, fun z => ?zones, fun l => ?links, rfl, rfl, rfl,
    rfl, rfl, rfl, rfl, rfl, ⟨rfl, rfl, rfl, rfl, rfl⟩, ⟨rfl, rfl, rfl, rfl, rfl, rfl, rfl, rfl⟩, rfl⟩
  case flags => simp [State.reset, Hlc.cold]
  case levels => simp [State.reset, Hlc.cold, Hlc.level, coldLevels, NoticeKind.index]
  case plans => simp [State.reset, Plan.cold]
  case chunks => rfl
  case zones => simp [State.reset, ZoneCell.cold]
  case links => simp [State.reset, Rxi.cold]

end Sys2Proof.Machine
end

section
/-! The rows of the host commands (R169, R170): a line at the head of the buffer is carried out, by its checks and then
its effect, on the state without that line; a line whose checks come to a refusal is answered with that refusal alone. -/

namespace Sys2Proof.Machine

variable {s : State} {l : CmdLine} {rest : List CmdLine}

@[simp] theorem carry_ok {α : Type} (tag : Nat) (a : α) (effect : α → State → State) (s : State) :
    carry tag (.ok a) effect s = effect a s := rfl

@[simp] theorem carry_error {α : Type} (tag : Nat) (d : Denial) (effect : α → State → State) (s : State) :
    carry tag (.error d) effect s = s.deny tag d := rfl

/-! ### Subscribers and plans (chapter 1) -/

theorem exec_subAdd_of_heads (h : s.Heads .subAdd l rest) :
    exec .subAdd s = .next (carry l.tag (checkSubAdd (s.lineOff rest) l.fields)
      (applySubAdd l.tag) (s.lineOff rest)).settle := by
  show execSubAdd s = _
  unfold execSubAdd
  exact takeLine_of_heads _ h

theorem exec_subSet_of_heads (h : s.Heads .subSet l rest) :
    exec .subSet s = .next (carry l.tag (checkSubSet (s.lineOff rest) l.fields)
      (applySubSet l.tag) (s.lineOff rest)).settle := by
  show execSubSet s = _
  unfold execSubSet
  exact takeLine_of_heads _ h

theorem exec_subGet_of_heads (h : s.Heads .subGet l rest) :
    exec .subGet s = .next (carry l.tag (namedEntry (s.lineOff rest) l.fields)
      (fun ne u => u.report l.tag (subLines ne.1 ne.2) []) (s.lineOff rest)).settle := by
  show execSubGet s = _
  unfold execSubGet
  exact takeLine_of_heads _ h

theorem exec_subSuspend_of_heads (h : s.Heads .subSuspend l rest) :
    exec .subSuspend s = .next (carry l.tag (namedEntry (s.lineOff rest) l.fields)
      (applyState l.tag .suspended) (s.lineOff rest)).settle := by
  show execSubSuspend s = _
  unfold execSubSuspend
  exact takeLine_of_heads _ h

theorem exec_subResume_of_heads (h : s.Heads .subResume l rest) :
    exec .subResume s = .next (carry l.tag (namedEntry (s.lineOff rest) l.fields)
      (applyState l.tag .active) (s.lineOff rest)).settle := by
  show execSubResume s = _
  unfold execSubResume
  exact takeLine_of_heads _ h

theorem exec_subRemove_of_heads (h : s.Heads .subRemove l rest) :
    exec .subRemove s = .next (carry l.tag (checkSubRemove (s.lineOff rest) l.fields)
      (applySubRemove l.tag) (s.lineOff rest)).settle := by
  show execSubRemove s = _
  unfold execSubRemove
  exact takeLine_of_heads _ h

theorem exec_planSet_of_heads (h : s.Heads .planSet l rest) :
    exec .planSet s = .next (carry l.tag (checkPlanSet l.fields) (applyPlanSet l.tag l.fields) (s.lineOff rest)).settle := by
  show execPlanSet s = _
  unfold execPlanSet
  exact takeLine_of_heads _ h

theorem exec_planGet_of_heads (h : s.Heads .planGet l rest) :
    exec .planGet s = .next (carry l.tag (checkForm [keyForm "PLAN" (readFin 8)] [] l.fields)
      (fun _ u => u.report l.tag (planLines u l.fields) []) (s.lineOff rest)).settle := by
  show execPlanGet s = _
  unfold execPlanGet
  exact takeLine_of_heads _ h

/-! ### Pages (chapter 2) -/

theorem exec_submit_of_heads (h : s.Heads .submit l rest) :
    exec .submit s = .next (carry l.tag (checkSubmit (s.lineOff rest) l.fields)
      (applySubmit l.tag) (s.lineOff rest)).settle := by
  show execSubmit s = _
  unfold execSubmit
  exact takeLine_of_heads _ h

theorem exec_cancel_of_heads (h : s.Heads .cancel l rest) :
    exec .cancel s = .next (carry l.tag (namedRecord (s.lineOff rest) l.fields)
      (applyCancel l.tag) (s.lineOff rest)).settle := by
  show execCancel s = _
  unfold execCancel
  exact takeLine_of_heads _ h

theorem exec_pageGet_of_heads (h : s.Heads .pageGet l rest) :
    exec .pageGet s = .next (carry l.tag (namedRecord (s.lineOff rest) l.fields)
      (fun r u => u.report l.tag (pageLines r) []) (s.lineOff rest)).settle := by
  show execPageGet s = _
  unfold execPageGet
  exact takeLine_of_heads _ h

theorem exec_heldList_of_heads (h : s.Heads .heldList l rest) :
    exec .heldList s = .next (carry l.tag (namedEntry (s.lineOff rest) l.fields)
      (applyHeldList l.tag) (s.lineOff rest)).settle := by
  show execHeldList s = _
  unfold execHeldList
  exact takeLine_of_heads _ h

theorem exec_heldRelease_of_heads (h : s.Heads .heldRelease l rest) :
    exec .heldRelease s = .next (carry l.tag (namedEntry (s.lineOff rest) l.fields)
      (applyHeldRelease l.tag) (s.lineOff rest)).settle := by
  show execHeldRelease s = _
  unfold execHeldRelease
  exact takeLine_of_heads _ h

/-! ### The air and the zones (chapters 4 and 6) -/

theorem exec_airStart_of_heads (h : s.Heads .airStart l rest) :
    exec .airStart s = .next (carry l.tag (checkAirStart (s.lineOff rest) l.fields)
      (fun _ => applyAirStart l.tag) (s.lineOff rest)).settle := by
  show execAirStart s = _
  unfold execAirStart
  exact takeLine_of_heads _ h

theorem exec_airStop_of_heads (h : s.Heads .airStop l rest) :
    exec .airStop s = .next (carry l.tag (checkAirStop (s.lineOff rest) l.fields)
      (fun _ => applyAirStop l.tag) (s.lineOff rest)).settle := by
  show execAirStop s = _
  unfold execAirStop
  exact takeLine_of_heads _ h

theorem exec_zoneSet_of_heads (h : s.Heads .zoneSet l rest) :
    exec .zoneSet s = .next (carry l.tag (checkZoneSet l.fields) (applyZoneSet l.tag l.fields) (s.lineOff rest)).settle := by
  show execZoneSet s = _
  unfold execZoneSet
  exact takeLine_of_heads _ h

theorem exec_zoneGet_of_heads (h : s.Heads .zoneGet l rest) :
    exec .zoneGet s = .next (carry l.tag (checkForm (zoneGetForms l.fields) [] l.fields)
      (fun _ => applyZoneGet l.tag l.fields) (s.lineOff rest)).settle := by
  show execZoneGet s = _
  unfold execZoneGet
  exact takeLine_of_heads _ h

/-! ### Money (chapters 8 and 9) -/

theorem exec_tariffLoad_of_heads (h : s.Heads .tariffLoad l rest) :
    exec .tariffLoad s = .next (carry l.tag (checkTariffLoad l.fields)
      (applyTariffLoad l.tag l.fields) (s.lineOff rest)).settle := by
  show execTariffLoad s = _
  unfold execTariffLoad
  exact takeLine_of_heads _ h

theorem exec_bandSet_of_heads (h : s.Heads .bandSet l rest) :
    exec .bandSet s = .next (carry l.tag (checkBandSet l.fields) (applyBandSet l.tag) (s.lineOff rest)).settle := by
  show execBandSet s = _
  unfold execBandSet
  exact takeLine_of_heads _ h

theorem exec_tariffGet_of_heads (h : s.Heads .tariffGet l rest) :
    exec .tariffGet s = .next (carry l.tag (checkNoFields l.fields)
      (fun _ u => u.report l.tag (tariffLines u.rate) []) (s.lineOff rest)).settle := by
  show execTariffGet s = _
  unfold execTariffGet
  exact takeLine_of_heads _ h

theorem exec_credit_of_heads (h : s.Heads .credit l rest) :
    exec .credit s = .next (carry l.tag (checkMoney readCredit (s.lineOff rest) l.fields)
      (applyMoney .credit l.tag) (s.lineOff rest)).settle := by
  show execCredit s = _
  unfold execCredit
  exact takeLine_of_heads _ h

theorem exec_adjust_of_heads (h : s.Heads .adjust l rest) :
    exec .adjust s = .next (carry l.tag (checkMoney readAdjust (s.lineOff rest) l.fields)
      (applyMoney .adjust l.tag) (s.lineOff rest)).settle := by
  show execAdjust s = _
  unfold execAdjust
  exact takeLine_of_heads _ h

theorem exec_billRead_of_heads (h : s.Heads .billRead l rest) :
    exec .billRead s = .next (carry l.tag (checkForm [keyForm "COUNT" (readIn 1 8)] [] l.fields)
      (fun _ => applyBillRead l.tag ((fieldOf l.fields "COUNT" (readIn 1 8)).getD 1)) (s.lineOff rest)).settle := by
  show execBillRead s = _
  unfold execBillRead
  exact takeLine_of_heads _ h

theorem exec_billRewind_of_heads (h : s.Heads .billRewind l rest) :
    exec .billRewind s = .next (carry l.tag (checkBillRewind (s.lineOff rest) l.fields)
      (applyBillRewind l.tag) (s.lineOff rest)).settle := by
  show execBillRewind s = _
  unfold execBillRewind
  exact takeLine_of_heads _ h

theorem exec_periodClose_of_heads (h : s.Heads .periodClose l rest) :
    exec .periodClose s = .next (carry l.tag (checkPeriodClose (s.lineOff rest) l.fields)
      (applyPeriodClose l.tag) (s.lineOff rest)).settle := by
  show execPeriodClose s = _
  unfold execPeriodClose
  exact takeLine_of_heads _ h

theorem exec_periodCloseAll_of_heads (h : s.Heads .periodCloseAll l rest) :
    exec .periodCloseAll s = .next (carry l.tag (checkPeriodCloseAll (s.lineOff rest) l.fields)
      (fun _ => applyPeriodCloseAll l.tag) (s.lineOff rest)).settle := by
  show execPeriodCloseAll s = _
  unfold execPeriodCloseAll
  exact takeLine_of_heads _ h

/-! ### The host line itself (chapter 10) -/

theorem exec_noticeLevels_of_heads (h : s.Heads .noticeLevels l rest) :
    exec .noticeLevels s = .next (carry l.tag (checkForm levelForms [] l.fields)
      (fun _ => applyLevels l.tag l.fields) (s.lineOff rest)).settle := by
  show execNoticeLevels s = _
  unfold execNoticeLevels
  exact takeLine_of_heads _ h

theorem exec_status_of_heads (h : s.Heads .status l rest) :
    exec .status s = .next (carry l.tag (checkForm [yesForm "CLEAR"] [] l.fields)
      (fun _ => applyStatus l.tag l.fields) (s.lineOff rest)).settle := by
  show execStatus s = _
  unfold execStatus
  exact takeLine_of_heads _ h

theorem exec_officeGet_of_heads (h : s.Heads .officeGet l rest) :
    exec .officeGet s = .next (carry l.tag (checkNoFields l.fields)
      (fun _ u => u.report l.tag [officeFields u.office] []) (s.lineOff rest)).settle := by
  show execOfficeGet s = _
  unfold execOfficeGet
  exact takeLine_of_heads _ h

theorem exec_restart_of_heads (h : s.Heads .restart l rest) :
    exec .restart s = .next (carry l.tag (checkRestart (s.lineOff rest) l.fields)
      (fun _ => applyRestart l.tag) (s.lineOff rest)).settle := by
  show execRestart s = _
  unfold execRestart
  exact takeLine_of_heads _ h

/-! ### Refusals -/

theorem refusalOf_eq_some {α : Type} {x : Except Denial α} {d : Denial} (h : refusalOf x = some d) : x = .error d := by
  cases x with
  | error e => exact congrArg Except.error (Option.some.inj h)
  | ok a => cases h

/-- A row that carries a command out answers the refusal its checks come to. -/
theorem row_of_refusal {α : Type} {x : Except Denial α} {effect : α → State → State} {tag : Nat} {u : State}
    {o : Host.Outcome State Fault Refusal} (ho : o = .next (carry tag x effect u).settle) {d : Denial}
    (hd : refusalOf x = some d) : o = .next (u.deny tag d).settle := by
  rw [ho, refusalOf_eq_some hd, carry_error]

/-- A command whose checks come to a refusal is answered with it. -/
theorem exec_row_of_refusal {c : HostCommand} (h : s.Heads c l rest) {d : Denial}
    (hd : c.refusal (s.lineOff rest) l.fields = some d) :
    exec c.row s = .next ((s.lineOff rest).deny l.tag d).settle := by
  cases c with
  | subAdd => exact row_of_refusal (exec_subAdd_of_heads h) hd
  | subSet => exact row_of_refusal (exec_subSet_of_heads h) hd
  | subGet => exact row_of_refusal (exec_subGet_of_heads h) hd
  | subSuspend => exact row_of_refusal (exec_subSuspend_of_heads h) hd
  | subResume => exact row_of_refusal (exec_subResume_of_heads h) hd
  | subRemove => exact row_of_refusal (exec_subRemove_of_heads h) hd
  | planSet => exact row_of_refusal (exec_planSet_of_heads h) hd
  | planGet => exact row_of_refusal (exec_planGet_of_heads h) hd
  | submit => exact row_of_refusal (exec_submit_of_heads h) hd
  | cancel => exact row_of_refusal (exec_cancel_of_heads h) hd
  | pageGet => exact row_of_refusal (exec_pageGet_of_heads h) hd
  | heldList => exact row_of_refusal (exec_heldList_of_heads h) hd
  | heldRelease => exact row_of_refusal (exec_heldRelease_of_heads h) hd
  | airStart => exact row_of_refusal (exec_airStart_of_heads h) hd
  | airStop => exact row_of_refusal (exec_airStop_of_heads h) hd
  | zoneSet => exact row_of_refusal (exec_zoneSet_of_heads h) hd
  | zoneGet => exact row_of_refusal (exec_zoneGet_of_heads h) hd
  | tariffLoad => exact row_of_refusal (exec_tariffLoad_of_heads h) hd
  | bandSet => exact row_of_refusal (exec_bandSet_of_heads h) hd
  | tariffGet => exact row_of_refusal (exec_tariffGet_of_heads h) hd
  | credit => exact row_of_refusal (exec_credit_of_heads h) hd
  | adjust => exact row_of_refusal (exec_adjust_of_heads h) hd
  | billRead => exact row_of_refusal (exec_billRead_of_heads h) hd
  | billRewind => exact row_of_refusal (exec_billRewind_of_heads h) hd
  | periodClose => exact row_of_refusal (exec_periodClose_of_heads h) hd
  | periodCloseAll => exact row_of_refusal (exec_periodCloseAll_of_heads h) hd
  | noticeLevels => exact row_of_refusal (exec_noticeLevels_of_heads h) hd
  | status => exact row_of_refusal (exec_status_of_heads h) hd
  | officeGet => exact row_of_refusal (exec_officeGet_of_heads h) hd
  | restart => exact row_of_refusal (exec_restart_of_heads h) hd
  | officeSet => exact row_of_refusal (exec_officeSet_of_heads h) hd

theorem State.deny_badField (s : State) (tag : Nat) (key : Text) :
    s.deny tag (.badField key) = s.answer [.final tag (.refused .badField) [(str "FIELD", .word key)]] := rfl

theorem State.deny_refusal (s : State) (tag : Nat) (code : Code) (fs : List Field) :
    s.deny tag (.refusal code fs) = s.answer [.final tag (.refused code) fs] := rfl

/-! ### What a line without fields leaves of the checks -/

theorem checkNoFields_of_nil {fs : List RawField} (h : fs = []) : checkNoFields fs = .ok () := by rw [h]; rfl

theorem checkNoFields_of_cons {fs more : List RawField} {f : RawField} (h : fs = f :: more) :
    checkNoFields fs = .error (.badField f.key) := by rw [h]; rfl

end Sys2Proof.Machine
end

section
/-! What goes next on the host line (O6), conditions and their notices (O8), and the notice levels (O9). -/

namespace Sys2Proof.Machine

/-! ### What goes next (R171) -/

theorem exec_lineSent_of_sending {s : State} {l : OutLine} (h : s.hlc.sending = some l) :
    exec .lineSent s = .next { s with hlc := { s.hlc with sending := none } }.settle := by
  show execLineSent s = _
  unfold execLineSent
  rw [h]
  rfl

/-- An idle line takes what the controller chooses. -/
theorem Hlc.settle_idle {h : Hlc} (hs : h.sending = none) : h.settle = h.choose := by
  unfold Hlc.settle
  rw [hs]
  rfl

theorem State.settle_of_sending {s : State} {l : OutLine} (h : s.hlc.sending = some l) : s.settle = s := by
  have hs : s.hlc.settle = s.hlc := s.hlc.settle_busy (by rw [h]; rfl)
  unfold State.settle
  rw [hs]

theorem Hlc.choose_of_underWay {h : Hlc} {x : OutLine} {xs : List OutLine} (hu : h.underWay = x :: xs) :
    h.choose = { h with sending := some x, underWay := xs, sent := h.sent ++ [x] } := by
  simp [Hlc.choose, Hlc.begin, hu]

theorem Hlc.choose_of_busy {h : Hlc} {tag : Nat} {tags : List Nat} (hu : h.underWay = []) (hb : h.busy = tag :: tags) :
    h.choose = { h with
      sending := some (.final tag (.refused .busyLine) []), busy := tags
      sent := h.sent ++ [.final tag (.refused .busyLine) []] } := by
  simp [Hlc.choose, Hlc.begin, hu, hb]

theorem Hlc.choose_of_answers {h : Hlc} {x : OutLine} {xs : List OutLine} {more : List (List OutLine)}
    (hu : h.underWay = []) (hb : h.busy = []) (ha : h.answers = (x :: xs) :: more) :
    h.choose = { h with sending := some x, underWay := xs, answers := more, sent := h.sent ++ [x] } := by
  simp [Hlc.choose, Hlc.begin, hu, hb, ha]

theorem Hlc.choose_of_notices {h : Hlc} {n : Notice} {ns : List Notice} (hu : h.underWay = []) (hb : h.busy = [])
    (ha : h.answers = []) (hn : h.notices = n :: ns) :
    h.choose = { h with
      sending := some (.notice n.kind n.fields), notices := ns, sent := h.sent ++ [.notice n.kind n.fields] } := by
  simp [Hlc.choose, Hlc.begin, hu, hb, ha, hn]

theorem Hlc.choose_of_nothing {h : Hlc} (hu : h.underWay = []) (hb : h.busy = []) (ha : h.answers = [])
    (hn : h.notices = []) : h.choose = { h with sending := none } := by
  simp [Hlc.choose, hu, hb, ha, hn]

/-- Settles O6: the line is free, and the controller's choice is taken case by case. -/
theorem lineSentChoosesNext : Obligations.LineSentChoosesNext := by
  unfold Obligations.LineSentChoosesNext
  intro s l h
  have hnext : exec .lineSent s =
      .next { s with hlc := Hlc.choose { s.hlc with sending := none } } := by
    rw [exec_lineSent_of_sending h, State.settle, Hlc.settle_idle rfl]
  refine ⟨fun x xs hu => ?underWay, fun tag tags hu hb => ?busy, fun x xs more hu hb ha => ?answers,
    fun n ns hu hb ha hn => ?notices, fun hu hb ha hn => ?nothing, State.settle_of_sending h, fun t ht => ?idle⟩
  case underWay => rw [hnext, Hlc.choose_of_underWay (h := { s.hlc with sending := none }) hu]
  case busy => rw [hnext, Hlc.choose_of_busy (h := { s.hlc with sending := none }) hu hb]
  case answers => rw [hnext, Hlc.choose_of_answers (h := { s.hlc with sending := none }) hu hb ha]
  case notices => rw [hnext, Hlc.choose_of_notices (h := { s.hlc with sending := none }) hu hb ha hn]
  case nothing => rw [hnext, Hlc.choose_of_nothing (h := { s.hlc with sending := none }) hu hb ha hn]
  case idle =>
    rw [exec_lineSent_of_sending (s := { t with hlc := { t.hlc with sending := some l } }) rfl]
    show Host.Outcome.next (State.settle { t with hlc := { t.hlc with sending := none } }) = _
    rw [← ht]

/-! ### Conditions and the notice queue (R173, R175) -/

variable {h : Hlc} {k : NoticeKind}

theorem Hlc.raise_uncalled (h : Hlc) (k : NoticeKind) (fs : List Field) :
    h.raise k fs false = { h with flags := h.flags.set k.index true } := rfl

theorem Hlc.raise_of_level (hk : 0 < h.level k) (fs : List Field) : h.raise k fs true = (h.mark k).place k fs := by
  have hm : 0 < (h.mark k).level k := hk
  simp [Hlc.raise, hm]

theorem Hlc.raise_of_level_zero (hk : h.level k = 0) (fs : List Field) : h.raise k fs true = h.mark k := by
  have hm : (h.mark k).level k = 0 := hk
  simp [Hlc.raise, hm]

theorem Hlc.place_of_room (hr : h.notices.length < 32) (k : NoticeKind) (fs : List Field) :
    h.place k fs = { h with
      notices := insertNotice h.level { kind := k, fields := fs, stamp := h.nextStamp } h.notices
      nextStamp := h.nextStamp + 1 } := if_pos hr

/-- A full queue displaces a tail of lower level. -/
theorem Hlc.place_over {q : List Notice} {tail : Notice} (hn : h.notices = q ++ [tail]) (hf : 32 ≤ h.notices.length)
    (hl : h.level tail.kind < h.level k) (fs : List Field) :
    h.place k fs = { h with
      notices := insertNotice h.level { kind := k, fields := fs, stamp := h.nextStamp } q
      nextStamp := h.nextStamp + 1, dropped := min (h.dropped + 1) 65535 } := by
  have hq : ¬ q.length + 1 < 32 := by simpa [hn] using hf
  simp [Hlc.place, Config.notices, hn, hl, hq, riseTo, Config.counterTop]

/-- A full queue whose tail is of no lower level drops the new notice. -/
theorem Hlc.place_dropped {q : List Notice} {tail : Notice} (hn : h.notices = q ++ [tail]) (hf : 32 ≤ h.notices.length)
    (hl : h.level k ≤ h.level tail.kind) (fs : List Field) :
    h.place k fs = { h with dropped := min (h.dropped + 1) 65535 } := by
  have hq : ¬ q.length + 1 < 32 := by simpa [hn] using hf
  simp [Hlc.place, Config.notices, hn, Nat.not_lt.mpr hl, hq, riseTo, Config.counterTop]

/-- A new notice goes behind all those of its own and higher levels and ahead of those of lower levels. -/
theorem insertNotice_append {lv : NoticeKind → Nat} {n : Notice} {higher lower : List Notice}
    (hh : ∀ x ∈ higher, lv n.kind ≤ lv x.kind ∧ x.stamp < n.stamp) (hl : ∀ x ∈ lower, lv x.kind < lv n.kind) :
    insertNotice lv n (higher ++ lower) = higher ++ n :: lower := by
  induction higher with
  | nil =>
    cases lower with
    | nil => rfl
    | cons x xs => simp [insertNotice, hl x (List.mem_cons_self ..)]
  | cons x xs ih =>
    obtain ⟨hx, hs⟩ := hh x (List.mem_cons_self ..)
    have hstay : ¬ (lv x.kind < lv n.kind || (lv x.kind == lv n.kind && n.stamp < x.stamp)) = true := by
      simp
      omega
    rw [List.cons_append, insertNotice, if_neg hstay, ih fun y hy => hh y (List.mem_cons_of_mem _ hy)]
    rfl

theorem State.judgeCongestion_on {s : State} (hc : s.store.congested = false) (hf : s.freeRecords ≤ s.office.congestion) :
    s.judgeCongestion = { s with store := { s.store with congested := true } }.raise .congestion
      [(str "STATE", .word (str "ON")), (str "FREE", .num s.freeRecords)] := by
  simp [State.judgeCongestion, hc, hf, onOff]

theorem State.judgeCongestion_stays_off {s : State} (hc : s.store.congested = false)
    (hf : s.office.congestion < s.freeRecords) : s.judgeCongestion = s := by
  simp [State.judgeCongestion, hc, Nat.not_le.mpr hf]

theorem State.judgeCongestion_off {s : State} (hc : s.store.congested = true)
    (hf : s.office.congestion + 16 < s.freeRecords) :
    s.judgeCongestion = { s with store := { s.store with congested := false } }.raise .congestion
      [(str "STATE", .word (str "OFF")), (str "FREE", .num s.freeRecords)] := by
  simp [State.judgeCongestion, hc, hf, onOff]

theorem State.judgeCongestion_stays_on {s : State} (hc : s.store.congested = true)
    (hf : s.freeRecords ≤ s.office.congestion + 16) : s.judgeCongestion = s := by
  simp [State.judgeCongestion, hc, Nat.not_lt.mpr hf]

/-- Settles O8, from the cases of raising and placing. -/
theorem conditionRaised : Obligations.ConditionRaised := by
  unfold Obligations.ConditionRaised
  refine ⟨fun h k fs => ⟨by simp, rfl, rfl, fun hk => Hlc.raise_of_level hk fs, fun hk => ?silent, fun hk hr => ?room,
      fun q tail hk hn hf => ?full, fun hi => hi.raise k fs true⟩,
    fun s => ⟨fun _ _ => rfl, rfl, State.judgeCongestion_on, State.judgeCongestion_stays_off, State.judgeCongestion_off,
      State.judgeCongestion_stays_on⟩⟩
  case silent =>
    rw [Hlc.raise_of_level_zero hk]
    exact ⟨rfl, rfl⟩
  case room =>
    rw [Hlc.raise_of_level hk, Hlc.place_of_room (h := h.mark k) hr]
    refine ⟨insertNotice_perm _ _ _, rfl, fun higher lower hn hh hl hs => ?_⟩
    show insertNotice h.level _ h.notices = _
    rw [hn]
    exact insertNotice_append (fun x hx => ⟨hh x hx, hs x (hn ▸ List.mem_append_left _ hx)⟩) hl
  case full =>
    rw [Hlc.raise_of_level hk]
    by_cases hl : h.level tail.kind < h.level k
    · rw [Hlc.place_over (h := h.mark k) hn hf hl]
      exact ⟨rfl, fun _ => insertNotice_perm _ _ _, fun hle => absurd hl (Nat.not_lt.mpr hle)⟩
    · rw [Hlc.place_dropped (h := h.mark k) hn hf (Nat.not_lt.mp hl)]
      exact ⟨rfl, fun hlt => absurd hlt hl, fun _ => rfl⟩

/-! ### The notice levels (R174) -/

/-- A number below a bound is the number read. -/
theorem readFin_eq_some {n : Nat} {t : Text} {v : Fin n} (h : readFin n t = some v) : readNat t = some v.val := by
  unfold readFin at h
  split at h
  · next m hm =>
    split at h
    · cases h; exact hm
    · cases h
  · cases h

/-- What one field of a NOTICE LEVELS line asks for. -/
def levelChange (f : RawField) : Option (NoticeKind × Fin 4) :=
  match NoticeKind.ofName f.key, f.value.bind readLevel with
  | some k, some v => some (k, v)
  | _, _ => none

theorem levelChanges_eq (fs : List RawField) : levelChanges fs = fs.filterMap levelChange := rfl

theorem NoticeKind.ofName_name {t : Text} {k : NoticeKind} (h : NoticeKind.ofName t = some k) : k.name = t := by
  simpa using List.find?_some h

/-- The forms of NOTICE LEVELS name a kind each. -/
theorem levelForms_find {t : Text} {form : KeyForm} (h : levelForms.find? (fun k => k.1 == t) = some form) :
    ∃ k, NoticeKind.ofName t = some k ∧ form = (k.name, fun v => (readLevel v).isSome) := by
  unfold levelForms at h
  rw [List.find?_map, Option.map_eq_some_iff] at h
  obtain ⟨k, hk, rfl⟩ := h
  exact ⟨k, hk, rfl⟩

theorem levelChange_of_fault_free {f : RawField} (h : fieldAtFault levelForms f = false) :
    ∃ c : NoticeKind × Fin 4, levelChange f = some c ∧ f.key = c.1.name ∧
      ∃ v, f.value = some v ∧ readNat v = some c.2.val := by
  obtain ⟨v, form, hv, hform, hread⟩ := fieldAtFault_eq_false h
  obtain ⟨k, hk, rfl⟩ := levelForms_find hform
  obtain ⟨x, hx⟩ := Option.isSome_iff_exists.mp hread
  refine ⟨(k, x), ?_, (NoticeKind.ofName_name hk).symm, v, hv, readFin_eq_some hx⟩
  simp [levelChange, hk, hv, hx]

/-- Every field of a line without faults is one change, in the order of the line. -/
theorem levelChanges_forall₂ {fs : List RawField} (h : ∀ f ∈ fs, fieldAtFault levelForms f = false) :
    List.Forall₂ (fun (f : RawField) (c : NoticeKind × Fin 4) =>
      f.key = c.1.name ∧ ∃ v, f.value = some v ∧ readNat v = some c.2.val) fs (levelChanges fs) := by
  rw [levelChanges_eq]
  induction fs with
  | nil => exact .nil
  | cons f fs ih =>
    obtain ⟨c, hc, hf⟩ := levelChange_of_fault_free (h f (List.mem_cons_self ..))
    rw [List.filterMap_cons_some hc]
    exact .cons hf (ih fun x hx => h x (List.mem_cons_of_mem _ hx))

theorem applyLevels_of_fields (tag : Nat) {fs : List RawField} (h : fs ≠ []) (s : State) :
    applyLevels tag fs s =
      { s with hlc := (levelChanges fs).foldl (fun (h : Hlc) (c : NoticeKind × Fin 4) => h.setLevel c.1 c.2) s.hlc }.answer
        [.final tag .ok []] := by
  cases fs with
  | nil => exact absurd rfl h
  | cons f fs => rfl

variable {v : Fin 4}

theorem Hlc.setLevel_same (h : Hlc) (hv : h.levels[k.index] = v) : h.setLevel k v = h := if_pos hv

/-- A kind raised from level 0 with its flag set places its summary. -/
theorem Hlc.setLevel_summary (ho : h.levels[k.index] = 0) (hv : v ≠ 0) (hf : h.flags[k.index] = true) :
    h.setLevel k v = ({ h with levels := h.levels.set k.index v } : Hlc).place k [(str "SUMMARY", .yesNo true)] := by
  unfold Hlc.setLevel
  simp only [ho, if_neg hv.symm, hf, if_true]

theorem Hlc.setLevel_from_zero (ho : h.levels[k.index] = 0) (hv : v ≠ 0) (hf : h.flags[k.index] = false) :
    h.setLevel k v = { h with levels := h.levels.set k.index v } := by
  unfold Hlc.setLevel
  simp only [ho, if_neg hv.symm, hf, if_true, Bool.false_eq_true, if_false]

theorem Hlc.setLevel_to_zero (ho : h.levels[k.index] ≠ 0) :
    h.setLevel k 0 = { h with
      levels := h.levels.set k.index 0, notices := h.notices.filter (fun n => n.kind != k) } := by
  unfold Hlc.setLevel
  simp only [if_neg ho, if_true]

/-- The notices of a kind between two levels above 0 go to their new places. -/
def Hlc.relevelled (h : Hlc) (k : NoticeKind) (v : Fin 4) : List Notice :=
  (h.notices.filter (fun n => n.kind == k)).foldl
    (fun q n => insertNotice (Hlc.level { h with levels := h.levels.set k.index v }) n q)
    (h.notices.filter (fun n => n.kind != k))

theorem Hlc.setLevel_between (ho : h.levels[k.index] ≠ 0) (hv : v ≠ 0) (hn : h.levels[k.index] ≠ v) :
    h.setLevel k v = { h with levels := h.levels.set k.index v, notices := h.relevelled k v } := by
  unfold Hlc.setLevel
  simp only [if_neg ho, if_neg hv, if_neg hn]
  rfl

theorem foldl_insertNotice_perm (lv : NoticeKind → Nat) (own others : List Notice) :
    (own.foldl (fun q n => insertNotice lv n q) others).Perm (own ++ others) := by
  induction own generalizing others with
  | nil => exact .refl _
  | cons n own ih =>
    refine (ih (insertNotice lv n others)).trans (((insertNotice_perm lv n others).append_left own).trans ?_)
    exact List.perm_middle

theorem Hlc.relevelled_perm (h : Hlc) (k : NoticeKind) (v : Fin 4) : (h.relevelled k v).Perm h.notices := by
  refine (foldl_insertNotice_perm _ _ _).trans ?_
  exact List.filter_append_perm (fun n : Notice => n.kind == k) h.notices

/-- The cases of a change of one level. -/
theorem Hlc.setLevel_cases (h : Hlc) (k : NoticeKind) (v : Fin 4) :
    (h.levels[k.index] = v ∧ h.setLevel k v = h) ∨
    (h.levels[k.index] = 0 ∧ v ≠ 0 ∧ h.flags[k.index] = false ∧
      h.setLevel k v = { h with levels := h.levels.set k.index v }) ∨
    (h.levels[k.index] = 0 ∧ v ≠ 0 ∧ h.flags[k.index] = true ∧
      h.setLevel k v = ({ h with levels := h.levels.set k.index v } : Hlc).place k [(str "SUMMARY", .yesNo true)]) ∨
    (h.levels[k.index] ≠ 0 ∧ v = 0 ∧ h.setLevel k v = { h with
      levels := h.levels.set k.index v, notices := h.notices.filter (fun n => n.kind != k) }) ∨
    (h.levels[k.index] ≠ 0 ∧ v ≠ 0 ∧ h.levels[k.index] ≠ v ∧
      h.setLevel k v = { h with levels := h.levels.set k.index v, notices := h.relevelled k v }) := by
  by_cases hs : h.levels[k.index] = v
  · exact .inl ⟨hs, h.setLevel_same hs⟩
  by_cases ho : h.levels[k.index] = 0
  · have hv : v ≠ 0 := fun hv => hs (ho.trans hv.symm)
    cases hf : h.flags[k.index] with
    | false => exact .inr (.inl ⟨ho, hv, rfl, Hlc.setLevel_from_zero ho hv hf⟩)
    | true => exact .inr (.inr (.inl ⟨ho, hv, rfl, Hlc.setLevel_summary ho hv hf⟩))
  by_cases hv : v = 0
  · subst hv
    exact .inr (.inr (.inr (.inl ⟨ho, rfl, Hlc.setLevel_to_zero ho⟩)))
  · exact .inr (.inr (.inr (.inr ⟨ho, hv, hs, Hlc.setLevel_between ho hv hs⟩)))

/-- Settles O9: the two forms of the command, and one change of a level by its cases. -/
theorem noticeLevelsTaken : Obligations.NoticeLevelsTaken := by
  unfold Obligations.NoticeLevelsTaken
  refine ⟨fun s l rest hl => ⟨fun hf => ?report, fun hf hc => ?change⟩, fun h k v => ?level⟩
  case report =>
    rw [exec_noticeLevels_of_heads hl, hf, show checkForm levelForms [] [] = .ok () from rfl, carry_ok]
    rfl
  case change =>
    refine ⟨levelChanges l.fields, levelChanges_forall₂ (checkForm_eq_ok hc).1, ?_⟩
    rw [exec_noticeLevels_of_heads hl, hc, carry_ok, applyLevels_of_fields l.tag hf]
  case level =>
    refine ⟨?flags, h.setLevel_same, ?levels, ?toZero, ?dropped,
      fun ho hv hf => by rw [Hlc.setLevel_from_zero ho hv hf], Hlc.setLevel_summary, ?stay, fun hi => hi.setLevel k v⟩
    case toZero =>
      rintro ho rfl
      rw [Hlc.setLevel_to_zero ho]
    case stay =>
      intro ho hv
      by_cases hs : h.levels[k.index] = v
      · rw [h.setLevel_same hs]
      · rw [Hlc.setLevel_between ho hv hs]
        exact h.relevelled_perm k v
    all_goals
      rcases h.setLevel_cases k v with ⟨hs, he⟩ | ⟨ho, hv, hf, he⟩ | ⟨ho, hv, hf, he⟩ | ⟨ho, hv, he⟩ | ⟨ho, hv, hs, he⟩ <;>
      simp_all

end Sys2Proof.Machine
end

section
/-! STATUS (O10), OFFICE SET (O11) and RESTART (O13). -/

namespace Sys2Proof.Machine

/-! ### STATUS (R176, R177) -/

/-- The chunks in use are those the records of the table hold. -/
theorem State.freeChunks_eq (s : State) :
    s.freeChunks = 12288 - (s.store.records.cells.flatMap (fun c => c.2.chunks.getD [])).length := by
  simp [State.freeChunks, State.usedChunks, State.live, Table.values, Config.chunks, PageRec.chunkList,
    List.flatMap_map, List.length_flatMap]

/-- Settles O10: the two forms of the command, and the four lines written out. -/
theorem statusReportsAndClears : Obligations.StatusReportsAndClears := by
  unfold Obligations.StatusReportsAndClears
  refine ⟨fun s l rest hl => ⟨fun hf => ?plain, fun hf => ?clear⟩, fun _ _ _ _ => rfl, fun s => ?lines⟩
  case plain =>
    rw [exec_status_of_heads hl, hf, show checkForm [yesForm "CLEAR"] [] [] = .ok () from rfl, carry_ok]
    rfl
  case clear =>
    have hc : checkForm [yesForm "CLEAR"] [] [{ key := str "CLEAR", value := some (str "YES") }] = .ok () := by decide
    rw [exec_status_of_heads hl, hf, hc, carry_ok]
    rfl
  case lines =>
    intro unread
    rw [← State.freeChunks_eq]
    rfl

/-! ### OFFICE SET (R178) -/

theorem LockEdge.calls_gained (e : LockEdge) : e.calls true = decide (e = .gained ∨ e = .both) := by
  cases e <;> rfl

theorem LockEdge.calls_lost (e : LockEdge) : e.calls false = decide (e = .lost ∨ e = .both) := by
  cases e <;> rfl

/-- An exit from LOCKED. -/
theorem State.unlock_of_locked {s : State} (h : s.aclk.detector = .locked) :
    s.unlock = { s with
      aclk := { s.aclk with detector := .unlocked }, wsch := { s.wsch with oversize := [] }
      hlc := s.hlc.raise .lock
        [(str "STATE", .word (str "UNLOCKED")), (str "ROUND", .num s.aclk.round), (str "WINDOW", .num s.aclk.window)]
        (s.office.lockEdge = .lost ∨ s.office.lockEdge = .both) } := by
  unfold State.unlock State.raiseLock
  simp [h, LockEdge.calls_lost]

theorem State.unlock_of_not_locked {s : State} (h : s.aclk.detector ≠ .locked) :
    s.unlock = { s with aclk := { s.aclk with detector := .unlocked } } := by
  unfold State.unlock
  simp [h]

/-- What a change of AIR RATE does to the detector (R65, R67, R81). -/
theorem State.restartDetector_eq (s : State) :
    s.restartDetector =
      let fresh : Aclk := { s.aclk with detector := .unlocked, strobes := 0, badMark := false }
      if s.aclk.detector = .locked then
        { s with
          aclk := fresh, wsch := { s.wsch with oversize := [] }
          hlc := s.hlc.raise .lock
            [(str "STATE", .word (str "UNLOCKED")), (str "ROUND", .num s.aclk.round),
             (str "WINDOW", .num s.aclk.window)]
            (s.office.lockEdge = .lost ∨ s.office.lockEdge = .both) }
      else { s with aclk := fresh } := by
  by_cases h : s.aclk.detector = .locked
  · refine Eq.trans ?_ (if_pos h).symm
    exact State.unlock_of_locked (s := { s with aclk := { s.aclk with strobes := 0, badMark := false } }) h
  · refine Eq.trans ?_ (if_neg h).symm
    exact State.unlock_of_not_locked (s := { s with aclk := { s.aclk with strobes := 0, badMark := false } }) h

theorem hasKey_of_mem {fs : List RawField} {f : RawField} {key : String} (hf : f ∈ fs) (hk : f.key = str key) :
    hasKey fs key = true := List.any_eq_true.mpr ⟨f, hf, by simp [hk]⟩

/-- A line that gives a key of the forms gives one at least. -/
theorem checkSomeOf_of_key {forms : List KeyForm} {fs : List RawField} {key : String} (h : hasKey fs key = true)
    (hk : forms.any (fun k => k.1 == str key) = true) : checkSomeOf forms fs = .ok () := by
  unfold checkSomeOf
  rw [if_pos]
  obtain ⟨f, -, hmem, hkey⟩ := hasKey_eq_true h
  exact List.any_eq_true.mpr ⟨f, hmem, hkey ▸ hk⟩

/-- AIR RATE and JOURNAL MODE are set in STOPPED only. -/
theorem checkOfficeSet_running {s : State} {fs : List RawField} (hc : checkForm officeForms [] fs = .ok ())
    (hk : hasKey fs "AIRRATE" = true ∨ hasKey fs "JOURNALMODE" = true) (ha : s.aclk.air ≠ .stopped) :
    checkOfficeSet s fs = .error (.refusal .airRunning []) := by
  have hsome : checkSomeOf officeForms fs = .ok () := by
    rcases hk with hk | hk
    · exact checkSomeOf_of_key hk (by decide)
    · exact checkSomeOf_of_key hk (by decide)
  have hb : ((hasKey fs "AIRRATE" || hasKey fs "JOURNALMODE") && s.aclk.air != .stopped) = true := by
    simp [hk, ha]
  unfold checkOfficeSet
  rw [hc, hsome, hb]
  rfl

/-- The settings, then a detector restarted by a new AIR RATE, then congestion judged by a new CONGESTION (log 24). -/
theorem applyOfficeSet_eq (tag : Nat) (fs : List RawField) (s : State) :
    applyOfficeSet tag fs s =
      let new := s.office.updated fs
      let set : State := { s with office := new }
      let detected := if new.airRate = s.office.airRate then set else set.restartDetector
      (if new.congestion = s.office.congestion then detected else detected.judgeCongestion).answer
        [.final tag .ok []] := by
  have ho : (if (s.office.updated fs).airRate = s.office.airRate then { s with office := s.office.updated fs }
      else State.restartDetector { s with office := s.office.updated fs }).office = s.office.updated fs := by
    split <;> simp
  unfold applyOfficeSet
  simp only [ho]
  rfl

/-- Settles O11: the settings, then the detector, then congestion. -/
theorem officeSetTaken : Obligations.OfficeSetTaken := by
  unfold Obligations.OfficeSetTaken
  intro s l rest hl
  refine ⟨fun hc => ?taken, fun hc hk ha => ?refused⟩
  case taken =>
    rw [exec_officeSet_of_heads hl, hc, carry_ok, applyOfficeSet_eq]
    simp only [State.restartDetector_eq]
    rfl
  case refused =>
    rw [exec_officeSet_of_heads hl, checkOfficeSet_running (s := s.lineOff rest) hc hk ha]
    rfl

/-! ### RESTART (R180) -/

/-- The one key of RESTART: a line that passes the form check carries it or is empty. -/
theorem hasKey_force {fs : List RawField} {u : Unit} (h : checkForm [yesForm "FORCE"] [] fs = .ok u) :
    fs.isEmpty = !hasKey fs "FORCE" := by
  cases fs with
  | nil => rfl
  | cons f fs =>
    obtain ⟨v, form, -, hform, -⟩ := fieldAtFault_eq_false ((checkForm_eq_ok h).1 f (List.mem_cons_self ..))
    have hkey : str "FORCE" = f.key := by
      by_contra hne
      simp [yesForm, hne] at hform
    rw [hasKey_of_mem (List.mem_cons_self ..) hkey.symm]
    rfl

theorem checkRestart_eq (s : State) (fs : List RawField) :
    checkRestart s fs =
      match checkForm [yesForm "FORCE"] [] fs with
      | .error d => .error d
      | .ok _ =>
        if s.aclk.air ≠ .stopped then .error (.refusal .airRunning [])
        else if s.acct.sweep.isSome = true ∧ hasKey fs "FORCE" = false then .error (.refusal .sweepActive [])
        else .ok () := by
  unfold checkRestart
  cases hc : checkForm [yesForm "FORCE"] [] fs with
  | error d => rfl
  | ok u =>
    rw [hasKey_force hc]
    by_cases ha : s.aclk.air = .stopped
    · cases hs : s.acct.sweep.isSome <;> cases hk : hasKey fs "FORCE" <;> simp [refuseIf, ha] <;> rfl
    · simp [refuseIf, ha]
      rfl

/-- Settles O13: the checks in order, and the restarted state as the model gives it. -/
theorem restartClearsTraffic : Obligations.RestartClearsTraffic := by
  unfold Obligations.RestartClearsTraffic
  refine ⟨checkRestart_eq, fun s l rest hl hc => ?_⟩
  intro discarded cursor t
  refine ⟨?_, fun hs => ?_, fun hs hu hb ha => ?_⟩
  · rw [exec_restart_of_heads hl, hc, carry_ok]
    rfl
  · obtain ⟨x, hx⟩ := Option.isSome_iff_exists.mp hs
    exact State.settle_of_sending (l := x) hx
  · have ht : t.hlc.answers = [[.final l.tag .ok (discarded :: cursor)]] := by simp [t, ha]
    rw [State.settle_hlc, Hlc.settle_idle (h := t.hlc) hs, Hlc.choose_of_answers (h := t.hlc) hu hb ht]
    exact ⟨rfl, rfl⟩

end Sys2Proof.Machine
end

section
/-! The tests of an account and the postings (O51), and the writing of the journal (O52). -/

namespace Sys2Proof.Machine

/-! ### Tables -/

theorem insertCell_insertCell {α : Type} (k : Nat) (v w : α) (l : List (Nat × α)) :
    insertCell k w (insertCell k v l) = insertCell k w l := by
  induction l with
  | nil => simp [insertCell]
  | cons c cs ih =>
    by_cases hlt : k < c.1
    · simp [insertCell, hlt]
    · by_cases heq : k = c.1
      · simp [insertCell, heq]
      · simp [insertCell, hlt, heq, ih]

/-- Of two values put under one number the later stands. -/
theorem Table.set_set {α : Type} (t : Table α) (k : Nat) (v w : α) : (t.set k v).set k w = t.set k w :=
  congrArg Table.mk (insertCell_insertCell k v w t.cells)

/-! ### An account with its money fields and conditions changed -/

/-- The state with the money of one entry and the host line changed, and nothing else. -/
def State.withMoney (s : State) (n : Nat) (e : Entry) (m : Money) (h : Hlc) : State :=
  { s with subs := s.subs.set n { e with money := m }, hlc := h }

section
variable (s : State) (n : Nat) (e : Entry) (m : Money) (h : Hlc)

theorem State.sub?_withMoney (k : Nat) :
    (s.withMoney n e m h).sub? k = if k = n then some { e with money := m } else s.sub? k := Table.get?_set _ _ _ _

theorem State.sub?_withMoney_self : (s.withMoney n e m h).sub? n = some { e with money := m } := by
  rw [State.sub?_withMoney, if_pos rfl]

theorem State.setSub_eq_withMoney : s.setSub n { e with money := m } = s.withMoney n e m s.hlc := rfl

/-- Only the money of the entry and the host line differ. -/
theorem State.withMoney_frame : { s.withMoney n e m h with subs := s.subs, hlc := s.hlc } = s := rfl

theorem State.modMoney_withMoney (f : Money → Money) :
    (s.withMoney n e m h).modMoney n f = s.withMoney n e (f m) h := by
  unfold State.modMoney State.modSub
  rw [State.sub?_withMoney_self]
  exact congrArg (fun subs => { s with subs := subs, hlc := h }) (Table.set_set _ _ _ _)

/-- The bar test (R149). -/
theorem State.barTest_withMoney :
    let bars := decide (m.credit = .clear ∧ m.balance = m.floor)
    (s.withMoney n e m h).barTest n = s.withMoney n e { m with credit := if bars then .barred else m.credit }
      (if bars then h.raise .barred
        [(str "SUB", .num n), (str "BALANCE", .int m.balance), (str "FLOOR", .int m.floor)] true else h) := by
  intro bars
  unfold State.barTest
  rw [State.sub?_withMoney_self]
  by_cases hb : m.credit = .clear ∧ m.balance = m.floor
  · simp only [bars, hb, and_self, decide_true, if_true, State.modMoney_withMoney]
    rfl
  · simp only [bars, hb, decide_false, if_false, Bool.false_eq_true]

/-- The unbar test (R149). -/
theorem State.unbarTest_withMoney :
    let unbars := decide (m.credit = .barred ∧ (s.office.unbarMargin : Int) < m.balance - m.floor)
    (s.withMoney n e m h).unbarTest n = s.withMoney n e { m with credit := if unbars then .clear else m.credit }
      (if unbars then h.raise .unbarred [(str "SUB", .num n), (str "BALANCE", .int m.balance)] true else h) := by
  intro unbars
  unfold State.unbarTest
  rw [State.sub?_withMoney_self]
  show (if m.credit = .barred ∧ (s.office.unbarMargin : Int) < m.balance - m.floor then _ else _) = _
  by_cases hb : m.credit = .barred ∧ (s.office.unbarMargin : Int) < m.balance - m.floor
  · rw [if_pos hb]
    simp only [unbars, hb, and_self, decide_true, if_true, State.modMoney_withMoney]
    rfl
  · rw [if_neg hb]
    simp only [unbars, hb, decide_false, if_false, Bool.false_eq_true]

/-- The low-balance test (R150). -/
theorem State.lowTest_withMoney :
    let low := decide (m.lowArmed = true ∧ m.balance < m.low)
    (s.withMoney n e m h).lowTest n = s.withMoney n e { m with lowArmed := m.lowArmed && !low }
      (if low then h.raise .lowBalance
        [(str "SUB", .num n), (str "BALANCE", .int m.balance), (str "LOW", .int m.low)] true else h) := by
  intro low
  unfold State.lowTest
  rw [State.sub?_withMoney_self]
  by_cases hb : m.lowArmed = true ∧ m.balance < m.low
  · simp only [low, hb, and_self, decide_true, if_true, State.modMoney_withMoney]
    rfl
  · simp only [low, hb, decide_false, if_false, Bool.false_eq_true, Bool.not_false, Bool.and_true]

/-- The usage test (R151). -/
theorem State.usageTest_withMoney :
    let high := decide (m.usageArmed = true ∧ m.usage < m.periodCharges)
    (s.withMoney n e m h).usageTest n = s.withMoney n e { m with usageArmed := m.usageArmed && !high }
      (if high then h.raise .usageHigh
        [(str "SUB", .num n), (str "PCHARGES", .num m.periodCharges), (str "USAGE", .num m.usage)] true else h) := by
  intro high
  unfold State.usageTest
  rw [State.sub?_withMoney_self]
  by_cases hb : m.usageArmed = true ∧ m.usage < m.periodCharges
  · simp only [high, hb, and_self, decide_true, if_true, State.modMoney_withMoney]
    rfl
  · simp only [high, hb, decide_false, if_false, Bool.false_eq_true, Bool.not_false, Bool.and_true]

/-- The low-balance alarm armed again (R150). -/
theorem State.rearmLow_withMoney :
    (s.withMoney n e m h).rearmLow n =
      s.withMoney n e { m with lowArmed := m.lowArmed || decide (m.low ≤ m.balance) } h := by
  unfold State.rearmLow
  rw [State.modMoney_withMoney]
  by_cases hb : m.low ≤ m.balance
  · simp [hb]
  · simp [hb]

end

/-! ### The tests of one entry, written out -/

section
variable {s : State} {n : Nat} {e : Entry}

theorem State.barTest_eq (he : s.sub? n = some e) :
    s.barTest n =
      if e.money.credit = .clear ∧ e.money.balance = e.money.floor then
        { s with
          subs := s.subs.set n { e with money := { e.money with credit := .barred } }
          hlc := s.hlc.raise .barred
            [(str "SUB", .num n), (str "BALANCE", .int e.money.balance), (str "FLOOR", .int e.money.floor)] true }
      else s := by
  unfold State.barTest State.modMoney State.modSub
  rw [he]
  rfl

theorem State.unbarTest_eq (he : s.sub? n = some e) :
    s.unbarTest n =
      if e.money.credit = .barred ∧ (s.office.unbarMargin : Int) < e.money.balance - e.money.floor then
        { s with
          subs := s.subs.set n { e with money := { e.money with credit := .clear } }
          hlc := s.hlc.raise .unbarred [(str "SUB", .num n), (str "BALANCE", .int e.money.balance)] true }
      else s := by
  unfold State.unbarTest State.modMoney State.modSub
  rw [he]
  rfl

end

/-! ### Postings (R148, R152) -/

/-- The tests a charge is followed by, on the money it leaves. -/
theorem State.chargeTests_withMoney (s : State) (n : Nat) (e : Entry) (before m : Money) (h : Hlc) :
    let bars := decide (m.credit = .clear ∧ m.balance = m.floor)
    let low := decide (m.balance ≠ before.balance ∧ m.lowArmed = true ∧ m.balance < m.low)
    let high := decide (m.periodCharges ≠ before.periodCharges ∧ m.usageArmed = true ∧ m.usage < m.periodCharges)
    let h1 := if bars then h.raise .barred
      [(str "SUB", .num n), (str "BALANCE", .int m.balance), (str "FLOOR", .int m.floor)] true else h
    let h2 := if low then h1.raise .lowBalance
      [(str "SUB", .num n), (str "BALANCE", .int m.balance), (str "LOW", .int m.low)] true else h1
    (s.withMoney n e m h).chargeTests n before m =
      s.withMoney n e
        { m with
          credit := if bars then .barred else m.credit, lowArmed := m.lowArmed && !low
          usageArmed := m.usageArmed && !high }
        (if high then h2.raise .usageHigh
          [(str "SUB", .num n), (str "PCHARGES", .num m.periodCharges), (str "USAGE", .num m.usage)] true else h2) := by
  intro bars low high h1 h2
  unfold State.chargeTests
  rw [State.barTest_withMoney]
  by_cases hl : m.balance = before.balance
  · by_cases hu : m.periodCharges = before.periodCharges
    · simp [hl, hu, low, high, h2, h1, bars]
    · simp [hl, hu, low, high, h2, h1, bars, State.usageTest_withMoney]
  · by_cases hu : m.periodCharges = before.periodCharges
    · simp [hl, hu, low, high, h2, h1, bars, State.lowTest_withMoney]
    · simp [hl, hu, low, high, h2, h1, bars, State.lowTest_withMoney, State.usageTest_withMoney]

theorem State.postCharge_zero {s : State} {n : Nat} {e : Entry} (he : s.sub? n = some e) (j : JournalRec) :
    s.postCharge n 0 j = s.journal { j with amount := 0, short := 0, balance := e.money.balance } := by
  unfold State.postCharge
  rw [he]
  rfl

theorem State.postCharge_eq {s : State} {n a : Nat} {e : Entry} (he : s.sub? n = some e) (ha : 0 < a) (j : JournalRec) :
    s.postCharge n a j =
      ((s.withMoney n e (e.money.charged a) s.hlc).chargeTests n e.money (e.money.charged a)).journal
        { j with
          amount := a, short := a - e.money.chargeApplied a, balance := (e.money.charged a).balance
          clamped := decide (0 < a - e.money.chargeApplied a) } := by
  unfold State.postCharge
  rw [he]
  exact if_neg (by omega)

theorem State.postCredit_eq {s : State} {n a : Nat} {e : Entry} (he : s.sub? n = some e) (j : JournalRec) :
    let applied := e.money.creditApplied a
    let balance := e.money.balance + applied
    let credited := (s.withMoney n e { e.money with balance := balance } s.hlc).unbarTest n
    s.postCredit n a j =
      (if applied = 0 then credited else credited.rearmLow n).journal
        { j with amount := -(a : Int), short := a - applied, balance := balance, clamped := decide (0 < a - applied) } := by
  intro applied balance credited
  unfold State.postCredit
  rw [he]
  rfl

/-- Settles O51: the tests follow one another on the entry posted to. -/
theorem postingsApplied : Obligations.PostingsApplied := by
  unfold Obligations.PostingsApplied
  refine ⟨fun s n a j e he ha => ?charge, fun s n j e he => State.postCharge_zero he j, fun s n a j e he ha => ?credit⟩
  case charge =>
    intro m applied charges bars low high
    have hdecide : decide (0 < a - applied) = decide (applied < a) := decide_eq_decide.mpr (by omega)
    have hlow : decide ((m.charged a).balance ≠ m.balance ∧ m.lowArmed = true ∧ (m.charged a).balance < m.low) = low := by
      refine decide_eq_decide.mpr (and_congr_left fun _ => ?_)
      show m.balance - (applied : Int) ≠ m.balance ↔ 0 < applied
      omega
    refine ⟨s.withMoney n e
      { m with
        balance := m.balance - applied, periodCharges := charges, credit := if bars then .barred else m.credit
        lowArmed := m.lowArmed && !low, usageArmed := m.usageArmed && !high } _, ?_, State.sub?_withMoney_self _ _ _ _ _,
      fun k hk => by rw [State.sub?_withMoney, if_neg hk], State.withMoney_frame _ _ _ _ _, rfl⟩
    rw [State.postCharge_eq he ha, State.chargeTests_withMoney, ← hdecide, ← hlow]
    rfl
  case credit =>
    intro m applied unbars
    have hdecide : decide (0 < a - applied) = decide (applied < a) := decide_eq_decide.mpr (by omega)
    refine ⟨s.withMoney n e
      { m with
        balance := m.balance + applied, credit := if unbars then .clear else m.credit
        lowArmed := m.lowArmed || decide (0 < applied ∧ m.low ≤ m.balance + applied) } _, ?_,
      State.sub?_withMoney_self _ _ _ _ _, fun k hk => by rw [State.sub?_withMoney, if_neg hk],
      State.withMoney_frame _ _ _ _ _, rfl⟩
    rw [State.postCredit_eq he, State.unbarTest_withMoney, State.rearmLow_withMoney, ← hdecide]
    have hlow : (if applied = 0 then m.lowArmed else m.lowArmed || decide (m.low ≤ m.balance + applied)) =
        (m.lowArmed || decide (0 < applied ∧ m.low ≤ m.balance + applied)) := by
      by_cases h0 : applied = 0
      · rw [if_pos h0, decide_eq_false (by omega), Bool.or_false]
      · rw [if_neg h0, decide_eq_decide.mpr (and_iff_right (Nat.pos_of_ne_zero h0))]
    rw [← hlow]
    by_cases h0 : e.money.creditApplied a = 0
    · rw [if_pos h0, show (if applied = 0 then m.lowArmed else _) = m.lowArmed from if_pos h0]
      rfl
    · rw [if_neg h0, show (if applied = 0 then m.lowArmed else _) = _ from if_neg h0]
      rfl

/-! ### The writing of a record (R155, R157 to R159, R161) -/

theorem State.journalFull_iff (s : State) :
    s.journalFull = true ↔ s.office.journalMode = .hold ∧ s.acct.openEntries = 0 := by
  simp [State.journalFull]

theorem State.journal_lost {s : State} {j : JournalRec} (hk : j.kind ≠ .air) (hm : s.office.journalMode = .hold)
    (ho : s.acct.openEntries = 0) : s.journal j = s.loseRec j := if_pos ⟨hk, s.journalFull_iff.mpr ⟨hm, ho⟩⟩

theorem State.journal_written {s : State} {j : JournalRec}
    (h : j.kind = .air ∨ s.office.journalMode = .overwrite ∨ s.acct.openEntries ≠ 0) : s.journal j = s.writeRec j := by
  refine if_neg fun ⟨hk, hf⟩ => ?_
  obtain ⟨hm, ho⟩ := s.journalFull_iff.mp hf
  rcases h with h | h | h
  · exact hk h
  · rw [hm] at h
    cases h
  · exact h ho

theorem Acct.append_eq (a : Acct) (j : JournalRec) :
    let overwrites := decide (1024 ≤ a.ring.length ∧ 1024 ≤ a.unread)
    a.append j = { a with
      ring := (if a.ring.length < 1024 then a.ring else a.ring.tail) ++ [{ j with seq := a.nextSeq }]
      nextSeq := a.nextSeq + 1
      cursor := if overwrites then a.cursor + 1 else a.cursor
      overflow := if overwrites then min (a.overflow + 1) 255 else a.overflow } := by
  intro overwrites
  by_cases hr : a.ring.length < 1024
  · have ho : overwrites = false := decide_eq_false fun h => Nat.not_lt.mpr h.1 hr
    simp [Acct.append, Config.journal, hr, ho]
  · by_cases hu : 1024 ≤ a.unread
    · have ho : overwrites = true := decide_eq_true ⟨Nat.not_lt.mp hr, hu⟩
      simp [Acct.append, Config.journal, hr, hu, ho, riseTo, Config.overflowTop]
    · have ho : overwrites = false := decide_eq_false fun h => hu h.2
      simp [Acct.append, Config.journal, hr, hu, ho]

theorem State.judgeJournalHigh_eq (s : State) :
    let raised := s.hlc.raise .journalHigh
      [(str "UNREAD", .num s.acct.unread), (str "FREE", .num (1024 - s.acct.unread)),
       (str "MODE", .word s.office.journalMode.name)] true
    s.judgeJournalHigh =
      if s.acct.unread < s.office.journalHigh then { s with acct := { s.acct with highLatch := false } }
      else match s.office.highType with
        | .each => { s with hlc := raised }
        | .once =>
          if s.acct.highLatch = true then s
          else { s with acct := { s.acct with highLatch := true }, hlc := raised } := by
  intro raised
  unfold State.judgeJournalHigh
  by_cases hu : s.acct.unread < s.office.journalHigh
  · simp only [if_pos hu, if_neg (Nat.not_le.mpr hu)]
  · simp only [if_neg hu, if_pos (Nat.not_lt.mp hu)]
    cases s.office.highType with
    | each => rfl
    | once => rfl

/-- The judgement of JOURNAL_HIGH touches the host line and the latch. -/
theorem State.judgeJournalHigh_rest (s : State) :
    s.judgeJournalHigh = { s with
      hlc := s.judgeJournalHigh.hlc, acct := { s.acct with highLatch := s.judgeJournalHigh.acct.highLatch } } := by
  unfold State.judgeJournalHigh
  simp only
  (repeat' split) <;> rfl

/-- Settles O52: a record is lost, or written with the latch judged on what is then unread. -/
theorem journalWritten : Obligations.JournalWritten := by
  unfold Obligations.JournalWritten
  intro s j
  refine ⟨rfl, rfl, fun hk hm ho => State.journal_lost hk hm ho, fun h => ?_⟩
  intro overwrites a t raised
  have ht : t = State.judgeJournalHigh { s with acct := a } := by
    show s.journal j = _
    rw [State.journal_written h]
    unfold State.writeRec
    rw [Acct.append_eq]
  have hj := State.judgeJournalHigh_eq { s with acct := a }
  rw [← ht] at hj
  refine ⟨rfl, ?rest, fun hu => ?low, fun hu ho => ?once, fun hu he => ?each⟩
  case rest =>
    rw [ht]
    exact State.judgeJournalHigh_rest { s with acct := a }
  case low =>
    rw [hj.trans (if_pos hu)]
    exact ⟨rfl, rfl⟩
  case once =>
    replace hj := hj.trans (if_neg (Nat.not_lt.mpr hu))
    rw [show State.office { s with acct := a } = s.office from rfl, ho] at hj
    by_cases hl : s.acct.highLatch = true
    · rw [hj.trans (if_pos hl)]
      exact ⟨hl, fun _ => rfl, fun hf => absurd hl (by rw [hf]; decide)⟩
    · rw [hj.trans (if_neg hl)]
      exact ⟨rfl, fun ht => absurd ht hl, fun _ => rfl⟩
  case each =>
    replace hj := hj.trans (if_neg (Nat.not_lt.mpr hu))
    rw [show State.office { s with acct := a } = s.office from rfl, he] at hj
    rw [hj]
    exact ⟨rfl, rfl⟩

end Sys2Proof.Machine
end

section
/-! SUB ADD (O14), SUB SET (O15) and PLAN SET (O18): their checks, and what they set. -/

namespace Sys2Proof.Machine

variable {fs : List RawField}

/-! ### Checks made one after another -/

section
variable {α β : Type}

theorem ok_bind (a : α) (k : α → Except Denial β) : (Except.ok a >>= k) = k a := rfl

theorem error_bind (d : Denial) (k : α → Except Denial β) : (Except.error d >>= k) = .error d := rfl

theorem need_some_bind (a : α) (key : String) (k : α → Except Denial β) : (need (some a) key >>= k) = k a := rfl

theorem refuseIf_bind (cond : Bool) (code : Code) (k : Unit → Except Denial β) :
    (refuseIf cond code >>= k) = if cond = true then .error (.refusal code []) else k () := by
  cases cond <;> rfl

end

/-! ### The values of a line's fields -/

/-- A value read by one form is read by every weaker form. -/
theorem fieldOf_weaken {α : Type} {key : String} {read read' : Text → Option α}
    (hr : ∀ t v, read t = some v → read' t = some v) {v : α} (h : fieldOf fs key read = some v) :
    fieldOf fs key read' = some v := by
  unfold fieldOf at h ⊢
  obtain ⟨t, ht, hv⟩ := Option.bind_eq_some_iff.mp h
  exact Option.bind_eq_some_iff.mpr ⟨t, ht, hr t v hv⟩

theorem readInt_of_readIntIn {lo hi : Int} {t : Text} {i : Int} (h : readIntIn lo hi t = some i) : readInt t = some i := by
  unfold readIntIn at h
  split at h
  · next x hx =>
    split at h
    · cases h; exact hx
    · cases h
  · cases h

theorem readNat_of_readIn {lo hi : Nat} {t : Text} {n : Nat} (h : readIn lo hi t = some n) : readNat t = some n := by
  unfold readIn at h
  split at h
  · next x hx =>
    split at h
    · cases h; exact hx
    · cases h
  · cases h

/-- A required key on a line of the right form has a value. -/
theorem fieldOf_of_required {α : Type} {forms : List KeyForm} {required : List String} {key : String}
    {read : Text → Option α} {u : Unit} (h : checkForm forms required fs = .ok u)
    (hform : forms.find? (fun k => k.1 == str key) = some (keyForm key read)) (hk : key ∈ required) :
    ∃ v, fieldOf fs key read = some v :=
  fieldOf_isSome (checkForm_eq_ok h).1 hform ((checkForm_eq_ok h).2 key hk)

/-! ### The subscriber, judged first (R13, R14) -/

theorem subscriberFirst_missing (h : hasKey fs "SUB" = false) :
    subscriberFirst fs = .error (.missing (str "SUB") []) := by
  have hf : fs.find? (fun f => f.key == str "SUB") = none := by
    rw [List.find?_eq_none]
    exact fun f hf => (List.any_eq_false.mp h) f hf
  rw [subscriberFirst, hf]

theorem subscriberFirst_bad (hk : hasKey fs "SUB" = true) (h : fieldOf fs "SUB" readNat = none) :
    subscriberFirst fs = .error (.badField (str "SUB")) := by
  obtain ⟨f, hf, -, -⟩ := hasKey_eq_true hk
  rw [fieldOf, hf] at h
  rw [subscriberFirst, hf]
  simp only
  rw [show f.value.bind readNat = none from h]

theorem subscriberFirst_of_some {n : Nat} (h : fieldOf fs "SUB" readNat = some n) :
    subscriberFirst fs = if n < 4096 then .ok n else .error (.refusal .badSubscriber []) := by
  unfold fieldOf at h
  obtain ⟨v, hv, hn⟩ := Option.bind_eq_some_iff.mp h
  obtain ⟨f, hf, hfv⟩ := Option.bind_eq_some_iff.mp hv
  rw [subscriberFirst, hf]
  simp only
  rw [hfv, Option.bind_some, hn]

theorem fieldOf_of_subscriberFirst {n : Nat} (h : subscriberFirst fs = .ok n) :
    fieldOf fs "SUB" readNat = some n := by
  unfold subscriberFirst at h
  split at h
  · cases h
  · next f hf =>
    split at h
    · cases h
    · next m hm =>
      split at h
      · cases h
        rw [fieldOf, hf]
        exact hm
      · cases h

/-! ### The address index (R3) -/

theorem State.holderOf_eq_none_iff {s : State} {a : BitVec 22} :
    s.holderOf a = none ↔ ∀ c ∈ s.subs.cells, c.2.addr ≠ a := by
  simp [State.holderOf]

theorem State.holderOf_eq_some {s : State} {a : BitVec 22} {n : Nat} (h : s.holderOf a = some n) :
    ∃ e, (n, e) ∈ s.subs.cells ∧ e.addr = a := by
  unfold State.holderOf at h
  obtain ⟨c, hc, rfl⟩ := Option.map_eq_some_iff.mp h
  exact ⟨c.2, List.mem_of_find?_eq_some hc, by simpa using List.find?_some hc⟩

/-! ### SUB ADD (R13) -/

theorem leastOpening_eq {u : Unit}
    (h : checkForm (subAddForms fs) ["SUB", "ADDR", "KIND", "HOME", "ZONES", "PLAN"] fs = .ok u) :
    leastOpening fs = (fieldOf fs "FLOOR" readFloor).getD 0 := by
  unfold leastOpening
  split
  · next hk =>
    obtain ⟨v, hv⟩ := fieldOf_isSome (checkForm_eq_ok h).1 (key := "FLOOR") (read := readFloor) rfl hk
    rw [hv]
    rfl
  · next hk => rw [fieldOf_of_not_hasKey _ (Bool.eq_false_iff.mpr hk)]; rfl

/-- The checks of SUB ADD behind the form of its fields: the number, then the address. -/
theorem checkSubAdd_of_form {n : Nat} (hn : subscriberFirst fs = .ok n)
    (hform : checkForm (subAddForms fs) ["SUB", "ADDR", "KIND", "HOME", "ZONES", "PLAN"] fs = .ok ()) (s : State) :
    ∃ a : SubAddArgs, fieldOf fs "ADDR" readAddr = some a.addr ∧
      checkSubAdd s fs =
        if (s.sub? n).isSome = true then .error (.refusal .exists_ [])
        else if (s.holderOf a.addr).isSome = true then .error (.refusal .duplicateAddress [])
        else .ok a := by
  obtain ⟨addr, haddr⟩ := fieldOf_of_required hform (key := "ADDR") (read := readAddr) rfl (by simp)
  obtain ⟨kind, hkind⟩ := fieldOf_of_required hform (key := "KIND") (read := wordValue pagerKindWords) rfl (by simp)
  obtain ⟨home, hhome⟩ := fieldOf_of_required hform (key := "HOME") (read := readFin 32) rfl (by simp)
  obtain ⟨zones, hzones⟩ := fieldOf_of_required hform (key := "ZONES") (read := readZones) rfl (by simp)
  obtain ⟨plan, hplan⟩ := fieldOf_of_required hform (key := "PLAN") (read := readFin 8) rfl (by simp)
  refine ⟨{ sub := n, addr := addr, kind := kind, home := home, zones := zones, plan := plan
            floor := (fieldOf fs "FLOOR" readFloor).getD 0
            balance := (fieldOf fs "BALANCE" (readBalance (leastOpening fs))).getD 0
            low := (fieldOf fs "LOW" readLow).getD (-16777215)
            usage := (fieldOf fs "USAGE" readUsage).getD 2147483647 }, haddr, ?_⟩
  unfold checkSubAdd
  rw [hn, hform, haddr, hkind, hhome, hzones, hplan]
  simp only [ok_bind, need_some_bind, refuseIf_bind]

/-- A field that need not be given has its value in its range, or its default. -/
theorem optional_intIn {forms : List KeyForm} {key : String} {lo hi d : Int}
    (hfs : ∀ f ∈ fs, fieldAtFault forms f = false)
    (hform : forms.find? (fun k => k.1 == str key) = some (keyForm key (readIntIn lo hi))) :
    (hasKey fs key = true → fieldOf fs key readInt = some ((fieldOf fs key (readIntIn lo hi)).getD d) ∧
      lo ≤ (fieldOf fs key (readIntIn lo hi)).getD d ∧ (fieldOf fs key (readIntIn lo hi)).getD d ≤ hi) ∧
    (hasKey fs key = false → (fieldOf fs key (readIntIn lo hi)).getD d = d) := by
  refine ⟨fun hk => ?_, fun hk => by rw [fieldOf_of_not_hasKey _ hk]; rfl⟩
  obtain ⟨v, hv⟩ := fieldOf_isSome hfs hform hk
  obtain ⟨t, ht⟩ := fieldOf_eq_some hv
  rw [hv]
  exact ⟨fieldOf_weaken (fun _ _ => readInt_of_readIntIn) hv, readIntIn_eq_some ht⟩

/-- What a SUB ADD that passes its checks gives. -/
theorem checkSubAdd_values {s : State} {a : SubAddArgs} (h : checkSubAdd s fs = .ok a) :
    a.sub < 4096 ∧ s.sub? a.sub = none ∧ (∀ c ∈ s.subs.cells, c.2.addr ≠ a.addr) ∧
      fieldOf fs "SUB" readNat = some a.sub ∧ fieldOf fs "ADDR" readAddr = some a.addr ∧
      fieldOf fs "KIND" (wordValue pagerKindWords) = some a.kind ∧ fieldOf fs "HOME" (readFin 32) = some a.home ∧
      fieldOf fs "ZONES" readZones = some a.zones ∧ fieldOf fs "PLAN" (readFin 8) = some a.plan ∧
      (hasKey fs "FLOOR" = true → fieldOf fs "FLOOR" readInt = some a.floor) ∧
      (hasKey fs "BALANCE" = true → fieldOf fs "BALANCE" readInt = some a.balance) ∧
      (hasKey fs "LOW" = true → fieldOf fs "LOW" readInt = some a.low) ∧
      (hasKey fs "USAGE" = true → fieldOf fs "USAGE" readNat = some a.usage) ∧
      (hasKey fs "FLOOR" = false → a.floor = 0) ∧ (hasKey fs "BALANCE" = false → a.balance = 0) ∧
      (hasKey fs "LOW" = false → a.low = -16777215) ∧ (hasKey fs "USAGE" = false → a.usage = 2147483647) ∧
      -16777215 ≤ a.floor ∧ a.floor ≤ 0 ∧ a.floor ≤ a.balance ∧ a.balance ≤ 16777215 ∧
      -16777215 ≤ a.low ∧ a.low ≤ 16777215 ∧ a.usage ≤ 2147483647 := by
  obtain ⟨hsub, hvacant, hholder, ⟨hfloor0, hfloor1⟩, hbal0, hbal1⟩ := checkSubAdd_eq_ok h
  unfold checkSubAdd at h
  obtain ⟨n, hn, h⟩ := Except.bind_eq_ok_iff.mp h
  obtain ⟨_, hform, h⟩ := Except.bind_eq_ok_iff.mp h
  obtain ⟨addr, haddr, h⟩ := Except.bind_eq_ok_iff.mp h
  obtain ⟨kind, hkind, h⟩ := Except.bind_eq_ok_iff.mp h
  obtain ⟨home, hhome, h⟩ := Except.bind_eq_ok_iff.mp h
  obtain ⟨zones, hzones, h⟩ := Except.bind_eq_ok_iff.mp h
  obtain ⟨plan, hplan, h⟩ := Except.bind_eq_ok_iff.mp h
  obtain ⟨_, -, h⟩ := Except.bind_eq_ok_iff.mp h
  obtain ⟨_, -, h⟩ := Except.bind_eq_ok_iff.mp h
  cases h
  have hfs := (checkForm_eq_ok hform).1
  obtain ⟨floorGiven, floorDefault⟩ := optional_intIn (key := "FLOOR") (lo := -16777215) (hi := 0) (d := 0) hfs rfl
  obtain ⟨balanceGiven, balanceDefault⟩ :=
    optional_intIn (key := "BALANCE") (lo := leastOpening fs) (hi := 16777215) (d := 0) hfs rfl
  obtain ⟨lowGiven, lowDefault⟩ :=
    optional_intIn (key := "LOW") (lo := -16777215) (hi := 16777215) (d := -16777215) hfs rfl
  have husage : hasKey fs "USAGE" = true → fieldOf fs "USAGE" readNat = some ((fieldOf fs "USAGE" readUsage).getD 2147483647) := by
    intro hk
    obtain ⟨v, hv⟩ := fieldOf_isSome hfs (key := "USAGE") (read := readUsage) rfl hk
    rw [hv]
    exact fieldOf_weaken (fun _ _ => readNat_of_readIn) hv
  have hlow : -16777215 ≤ (fieldOf fs "LOW" readLow).getD (-16777215) ∧
      (fieldOf fs "LOW" readLow).getD (-16777215) ≤ 16777215 := by
    cases hk : hasKey fs "LOW" with
    | true => exact (lowGiven hk).2
    | false =>
      rw [show (fieldOf fs "LOW" readLow).getD (-16777215) = -16777215 from lowDefault hk]
      decide
  exact ⟨hsub, hvacant, State.holderOf_eq_none_iff.mp hholder, fieldOf_of_subscriberFirst hn, need_eq_ok_iff.mp haddr,
    need_eq_ok_iff.mp hkind, need_eq_ok_iff.mp hhome, need_eq_ok_iff.mp hzones, need_eq_ok_iff.mp hplan,
    fun hk => (floorGiven hk).1, fun hk => (balanceGiven hk).1, fun hk => (lowGiven hk).1, husage, floorDefault,
    balanceDefault, lowDefault, fun hk => by rw [fieldOf_of_not_hasKey _ hk]; rfl, hfloor0, hfloor1, hbal0, hbal1, hlow.1,
    hlow.2, fieldOf_getD_le (by decide)⟩

/-- Settles O14: the entry provisioned, what the checks make sure of, and their order. -/
theorem subAddProvisions : Obligations.SubAddProvisions := by
  unfold Obligations.SubAddProvisions
  refine ⟨fun s l rest a hl hc => ?taken, fun s fs a h => checkSubAdd_values h,
    fun s fs => ⟨fun hk => ?missing, fun hk hf => ?bad, fun n hn hge => ?range, fun n hn hlt => ?order⟩⟩
  case taken =>
    rw [exec_subAdd_of_heads hl, hc]
    rfl
  case missing =>
    rw [checkSubAdd, subscriberFirst_missing hk]
    rfl
  case bad =>
    rw [checkSubAdd, subscriberFirst_bad hk hf]
    rfl
  case range =>
    rw [checkSubAdd, subscriberFirst_of_some hn, if_neg (Nat.not_lt.mpr hge)]
    rfl
  case order =>
    have hfirst : subscriberFirst fs = .ok n := by rw [subscriberFirst_of_some hn, if_pos hlt]
    intro fields
    refine ⟨fun d hd => ?_, fun hok hpresent => ?_, fun hok hvacant => ?_⟩
    · rw [checkSubAdd, hfirst]
      show (fields >>= _) = _
      rw [hd]
      rfl
    · obtain ⟨a, -, ha⟩ := checkSubAdd_of_form hfirst hok s
      rw [ha, if_pos (Option.isSome_iff_ne_none.mpr hpresent)]
    · obtain ⟨a, haddr, ha⟩ := checkSubAdd_of_form hfirst hok s
      have hsub : ¬ (s.sub? n).isSome = true := by simp [hvacant]
      refine ⟨a.addr, haddr, fun ⟨c, hc, hca⟩ => ?_, fun hfree => ⟨a, ?_⟩⟩
      · have hheld : (s.holderOf a.addr).isSome = true :=
          Option.isSome_iff_ne_none.mpr fun hnone => State.holderOf_eq_none_iff.mp hnone c hc hca
        rw [ha, if_neg hsub, if_pos hheld]
      · rw [ha, if_neg hsub, State.holderOf_eq_none_iff.mpr hfree]
        rfl

/-! ### PLAN SET (R11) -/

/-- Settles O18: the plan named takes the values given. -/
theorem planSetChanges : Obligations.PlanSetChanges := by
  unfold Obligations.PlanSetChanges
  intro s l rest p hl hc
  constructor
  · unfold checkPlanSet at hc
    obtain ⟨_, -, hc⟩ := Except.bind_eq_ok_iff.mp hc
    obtain ⟨_, -, hc⟩ := Except.bind_eq_ok_iff.mp hc
    exact need_eq_ok_iff.mp hc
  · rw [exec_planSet_of_heads hl, hc]
    rfl

end Sys2Proof.Machine
end

section
/-! SUB SET (O15): its checks in their order and what it changes. -/

namespace Sys2Proof.Machine

variable {fs : List RawField}

theorem changes_iff {α : Type} [DecidableEq α] {given : Option α} {present : α} :
    changes given present = true ↔ given.getD present ≠ present := by
  cases given <;> simp [changes]

theorem State.addressTaken_iff {s : State} {n : Nat} {given : Option (BitVec 22)} :
    s.addressTaken n given = true ↔ ∃ x m, given = some x ∧ s.holderOf x = some m ∧ m ≠ n := by
  unfold State.addressTaken
  cases given with
  | none => simp
  | some x => cases hx : s.holderOf x <;> simp [hx]

/-- A floor above the balance. -/
theorem floorAbove_iff {given : Option Int} {balance : Int} :
    (match given with | some f => decide (balance < f) | none => false) = true ↔ balance < given.getD balance := by
  cases given <;> simp

/-- A line gives none of the keys of a command that needs one: the keys are missing. -/
theorem checkSomeOf_none {forms : List KeyForm} {key : Text} {form : Text → Bool} {more : List KeyForm}
    (hforms : forms = (key, form) :: more) (h : ∀ f ∈ fs, f.key ∉ forms.map Prod.fst) :
    checkSomeOf forms fs = .error (.missing key (more.map Prod.fst)) := by
  have hany : fs.any (fun f => forms.any (fun k => k.1 == f.key)) = false := by
    refine List.any_eq_false.mpr fun f hf hk => h f hf ?_
    obtain ⟨k, hk, he⟩ := List.any_eq_true.mp hk
    exact List.mem_map.mpr ⟨k, hk, by simpa using he⟩
  subst hforms
  unfold checkSomeOf
  rw [hany]
  rfl

theorem checkSomeOf_some {forms : List KeyForm} {f : RawField} (hf : f ∈ fs) (hk : f.key ∈ forms.map Prod.fst) :
    checkSomeOf forms fs = .ok () := by
  obtain ⟨k, hk, he⟩ := List.mem_map.mp hk
  exact if_pos (List.any_eq_true.mpr ⟨f, hf, List.any_eq_true.mpr ⟨k, hk, by simpa using he⟩⟩)

theorem subSetForms_keys : subSetForms.map Prod.fst =
    [str "ADDR", str "KIND", str "HOME", str "ZONES", str "PLAN", str "FLOOR", str "LOW", str "USAGE"] := rfl

/-- The values of a SUB SET line. -/
def subSetArgs (n : Nat) (fs : List RawField) : SubSetArgs :=
  { sub := n, addr := fieldOf fs "ADDR" readAddr, kind := fieldOf fs "KIND" (wordValue pagerKindWords)
    home := fieldOf fs "HOME" (readFin 32), zones := fieldOf fs "ZONES" readZones
    plan := fieldOf fs "PLAN" (readFin 8), floor := fieldOf fs "FLOOR" readFloor
    low := fieldOf fs "LOW" readLow, usage := fieldOf fs "USAGE" readUsage }

/-- The checks of SUB SET behind the form of its fields: the entry, its pages, the address, the floor. -/
theorem checkSubSet_of_form {n : Nat} (hn : subscriberFirst fs = .ok n)
    (hform : checkForm (keyForm "SUB" readNat :: subSetForms) [] fs = .ok ())
    (hsome : checkSomeOf subSetForms fs = .ok ()) (s : State) :
    checkSubSet s fs =
      match s.sub? n with
      | none => .error (.refusal .noSubscriber [])
      | some e =>
        let a := subSetArgs n fs
        if ((changes a.addr e.addr || changes a.kind e.kind || changes a.home e.home) && decide (0 < e.live)) = true then
          .error (.refusal .hasPages [])
        else if s.addressTaken n a.addr = true then .error (.refusal .duplicateAddress [])
        else if (match a.floor with | some f => decide (e.money.balance < f) | none => false) = true then
          .error (.refusal .floorAboveBalance [])
        else .ok (a, e) := by
  unfold checkSubSet
  rw [hn, hform, hsome]
  cases hs : s.sub? n with
  | none => simp only [presentEntry, hs, ok_bind, error_bind]
  | some e =>
    simp only [presentEntry, hs, ok_bind, refuseIf_bind]
    rfl

theorem checkSubSet_args {s : State} {a : SubSetArgs} {e : Entry} (h : checkSubSet s fs = .ok (a, e)) :
    s.sub? a.sub = some e := (checkSubSet_eq_ok h).1

/-- The tests of a new floor (R15, R149). -/
theorem State.floorTests_eq (s : State) (n : Nat) (old : Int) (given : Option Int) :
    s.floorTests n old given =
      if old < given.getD old then s.barTest n else if given.getD old < old then s.unbarTest n else s := by
  cases given <;> simp [State.floorTests]

/-- The entry a SUB SET leaves, with a change of address or kind as a value that differs. -/
theorem SubSetArgs.entry_eq (a : SubSetArgs) (e : Entry) :
    a.entry e =
      { e with
        addr := a.addr.getD e.addr, kind := a.kind.getD e.kind, home := a.home.getD e.home
        zones := a.zones.getD e.zones, plan := a.plan.getD e.plan
        heard := if a.addr.getD e.addr ≠ e.addr ∨ a.kind.getD e.kind ≠ e.kind then none else e.heard
        money := { e.money with
          floor := a.floor.getD e.money.floor, low := a.low.getD e.money.low
          lowArmed := if a.low.isSome then decide (a.low.getD 0 ≤ e.money.balance) else e.money.lowArmed
          usage := a.usage.getD e.money.usage, usageArmed := a.usage.isSome || e.money.usageArmed } } := by
  have hheard : (if (changes a.addr e.addr || changes a.kind e.kind) = true then none else e.heard) =
      if a.addr.getD e.addr ≠ e.addr ∨ a.kind.getD e.kind ≠ e.kind then none else e.heard := by
    simp only [Bool.or_eq_true, changes_iff]
  have hlow : (match a.low with | some l => decide (l ≤ e.money.balance) | none => e.money.lowArmed) =
      if a.low.isSome then decide (a.low.getD 0 ≤ e.money.balance) else e.money.lowArmed := by
    cases a.low <;> rfl
  rw [← hheard, ← hlow]
  rfl

/-- Settles O15: the entry set and the tests of its floor, the checks in their order, and the two tests. -/
theorem subSetChanges : Obligations.SubSetChanges := by
  unfold Obligations.SubSetChanges
  refine ⟨fun s l rest a e hl hc => ?taken, fun s fs => ⟨fun hk => ?missing, fun hk hf => ?bad, fun n hn hge => ?range,
    fun n hn hlt => ?order⟩, fun s n e he => ⟨State.barTest_eq he, State.unbarTest_eq he⟩⟩
  case taken =>
    intro e' set tested
    refine ⟨checkSubSet_args (s := s.lineOff rest) hc, ?_⟩
    have hset : (s.lineOff rest).setSub a.sub (a.entry e) = set := by rw [SubSetArgs.entry_eq]
    rw [exec_subSet_of_heads hl, hc, carry_ok]
    unfold applySubSet
    simp only [hset, State.floorTests_eq, State.reply_eq]
    rfl
  case missing =>
    rw [checkSubSet, subscriberFirst_missing hk]
    rfl
  case bad =>
    rw [checkSubSet, subscriberFirst_bad hk hf]
    rfl
  case range =>
    rw [checkSubSet, subscriberFirst_of_some hn, if_neg (Nat.not_lt.mpr hge)]
    rfl
  case order =>
    have hfirst : subscriberFirst fs = .ok n := by rw [subscriberFirst_of_some hn, if_pos hlt]
    intro fields some_
    have hsome : some_ → checkSomeOf subSetForms fs = .ok () := fun ⟨f, hf, hk⟩ => checkSomeOf_some hf hk
    refine ⟨fun d hd => ?_, fun hok hnone => ⟨str "ADDR", subSetForms.tail.map Prod.fst, ?_⟩, fun hok hs hvacant => ?_, fun e hok hs he => ?_⟩
    · rw [checkSubSet, hfirst]
      show (fields >>= _) = _
      rw [hd]
      rfl
    · have hmissing := checkSomeOf_none (fs := fs) (forms := subSetForms) rfl
        fun f hf hk => hnone ⟨f, hf, subSetForms_keys ▸ hk⟩
      rw [checkSubSet, hfirst, ok_bind]
      show (fields >>= _) = _
      rw [hok, ok_bind, hmissing]
      exact error_bind _ _
    · rw [checkSubSet_of_form hfirst hok (hsome hs), hvacant]
    · have hcheck := checkSubSet_of_form hfirst hok (hsome hs) s
      rw [he] at hcheck
      intro a pages taken
      have hpages : ((changes a.addr e.addr || changes a.kind e.kind || changes a.home e.home) &&
          decide (0 < e.live)) = true ↔ pages := by
        simp only [Bool.and_eq_true, Bool.or_eq_true, changes_iff, decide_eq_true_eq, pages, or_assoc]
        exact and_comm
      have htaken : s.addressTaken n a.addr = true ↔ taken := State.addressTaken_iff
      rw [hcheck]
      refine ⟨fun hp => if_pos (hpages.mpr hp), fun hp ht => ?_, fun hp ht hb => ?_, fun hp ht hb => ?_⟩
      · exact (if_neg (hp ∘ hpages.mp)).trans (if_pos (htaken.mpr ht))
      · exact (if_neg (hp ∘ hpages.mp)).trans ((if_neg (ht ∘ htaken.mp)).trans (if_pos (floorAbove_iff.mpr hb)))
      · exact (if_neg (hp ∘ hpages.mp)).trans ((if_neg (ht ∘ htaken.mp)).trans
          (if_neg (Int.not_lt.mpr hb ∘ floorAbove_iff.mp)))

end Sys2Proof.Machine
end

section
/-! Commands that name an entry or a record, and what they do: SUB SUSPEND, SUB RESUME and SUB REMOVE (O17), the commands
that only answer (O16) and CANCEL (O21). -/

namespace Sys2Proof.Machine

variable {fs : List RawField}

/-- Taking a line off the buffer changes the buffer. -/
@[simp] theorem State.lineOff_frame (s : State) (rest : List CmdLine) :
    (s.lineOff rest).subs = s.subs ∧ (s.lineOff rest).plans = s.plans ∧ (s.lineOff rest).store = s.store ∧
    (s.lineOff rest).aclk = s.aclk ∧ (s.lineOff rest).wsch = s.wsch ∧ (s.lineOff rest).txi = s.txi ∧
    (s.lineOff rest).rxi = s.rxi ∧ (s.lineOff rest).rmat = s.rmat ∧ (s.lineOff rest).rate = s.rate ∧
    (s.lineOff rest).acct = s.acct ∧ (s.lineOff rest).office = s.office ∧ (s.lineOff rest).fresh = s.fresh ∧
    (s.lineOff rest).pending = s.pending := ⟨rfl, rfl, rfl, rfl, rfl, rfl, rfl, rfl, rfl, rfl, rfl, rfl, rfl⟩

/-! ### A line of one field -/

/-- A line that gives the one key of its command. -/
theorem checkForm_single {α : Type} (key : String) (read : Text → Option α) (t : Text) :
    checkForm [keyForm key read] [key] [{ key := str key, value := some t }] =
      if (read t).isSome = true then .ok () else .error (.badField (str key)) := by
  cases hr : read t with
  | none => simp [checkForm, firstFault, fieldAtFault, keyForm, hr]
  | some v => simp [checkForm, firstFault, fieldAtFault, keyForm, hr]

theorem fieldOf_single {α : Type} (key : String) (read : Text → Option α) (t : Text) :
    fieldOf [{ key := str key, value := some t }] key read = read t := by
  simp [fieldOf]

/-! ### The entry a SUB names (R1, R16) -/

theorem presentEntry_eq (s : State) (n : Nat) :
    presentEntry s n = match s.sub? n with
      | none => .error (.refusal .noSubscriber [])
      | some e => .ok e := by
  unfold presentEntry
  cases s.sub? n <;> rfl

theorem subscriberNumber_of_some {n : Nat} (h : fieldOf fs "SUB" readNat = some n) :
    subscriberNumber fs = if n < 4096 then .ok n else .error (.refusal .badSubscriber []) := by
  rw [subscriberNumber, h]

theorem namedEntry_single (s : State) {n : Nat} (h : n < 100000000000000000000) :
    namedEntry s [{ key := str "SUB", value := some (showNat n) }] =
      if 4096 ≤ n then .error (.refusal .badSubscriber [])
      else match s.sub? n with
        | none => .error (.refusal .noSubscriber [])
        | some e => .ok (n, e) := by
  have hread := readNat_showNat h
  unfold namedEntry
  rw [checkForm_single, hread, subscriberNumber_of_some ((fieldOf_single _ _ _).trans hread)]
  by_cases hn : 4096 ≤ n
  · rw [if_pos hn, if_neg (Nat.not_lt.mpr hn)]
    rfl
  · rw [if_neg hn, if_pos (Nat.lt_of_not_le hn)]
    simp only [Option.isSome_some, if_true, ok_bind, presentEntry_eq]
    cases s.sub? n <;> rfl

/-! ### SUB REMOVE (R19) -/

theorem checkSubRemove_eq {s : State} {n : Nat} {e : Entry} (h : namedEntry s fs = .ok (n, e)) :
    checkSubRemove s fs =
      if 0 < e.live then .error (.refusal .hasPages [])
      else if s.office.journalMode = .hold ∧ s.acct.openEntries = 0 then .error (.refusal .journalFull [])
      else .ok (n, e) := by
  unfold checkSubRemove
  rw [h]
  simp only [ok_bind, refuseIf_bind, decide_eq_true_eq, State.journalFull_iff]

/-- A journal that is not full takes every record. -/
theorem State.journal_of_not_full {s : State} (h : s.journalFull = false) (j : JournalRec) :
    s.journal j = s.writeRec j := if_neg fun hf => absurd hf.2 (by rw [h]; decide)

/-- Settles O17: the two settings of a state, the finding of an entry, and the CLOSE record of an entry vacated. -/
theorem suspendResumeRemove : Obligations.SuspendResumeRemove := by
  unfold Obligations.SuspendResumeRemove
  refine ⟨fun s l rest n e hc => ⟨fun hl => ?suspend, fun hl => ?resume⟩, fun s n hn => namedEntry_single s hn,
    fun s l rest n e hl hc => ?remove, fun s fs n e h => checkSubRemove_eq h⟩
  case suspend =>
    rw [exec_subSuspend_of_heads hl, hc]
    rfl
  case resume =>
    rw [exec_subResume_of_heads hl, hc]
    rfl
  case remove =>
    have hfull : (s.lineOff rest).journalFull = false := (checkSubRemove_eq_ok hc).2.2
    obtain ⟨hring, hseq, -, -, -⟩ := State.writeRec_acct (s.lineOff rest) (closeRec (s.lineOff rest) n e)
    refine ⟨(applySubRemove l.tag (n, e) (s.lineOff rest)).settle,
      { closeRec (s.lineOff rest) n e with seq := s.acct.nextSeq }, ?_, ?_, ?_, fun m hm => ?_, hring, rfl, rfl, rfl, rfl,
      rfl, rfl, rfl, rfl, rfl, hseq, ?_⟩
    · rw [exec_subRemove_of_heads hl, hc, carry_ok]
    · rw [State.journal_of_not_full hfull]
      rfl
    · exact Table.get?_erase_self _ _
    · refine (Table.get?_erase_other _ hm).trans ?_
      exact congrArg (·.get? m) (State.writeRec_frame (s.lineOff rest) _).1
    · simp [applySubRemove]

/-! ### The record an MSG names (R27) -/

/-- Digits of a number sent. -/
theorem mem_showNat {n : Nat} {b : Byte} (h : b ∈ showNat n) : isDigit b = true :=
  List.all_eq_true.mp (all_isDigit_decimalDigits 20 n rfl) b h

theorem splitOn_of_not_mem {sep : Byte} {t : Text} (h : sep ∉ t) : splitOn sep t = [t] :=
  List.splitOn_eq_singleton h

theorem splitOn_append {sep : Byte} {t : Text} (h : sep ∉ t) (u : Text) :
    splitOn sep (t ++ sep :: u) = t :: splitOn sep u :=
  List.splitOn_append_cons_self_of_not_mem h u

/-- A message id is read as its slot and its generation, each in its range. -/
theorem readMsg_shown {slot gen : Nat} (hs : slot < 100000000000000000000) (hg : gen < 100000000000000000000) :
    readMsg (showNat slot ++ str "." ++ showNat gen) =
      if slot < 2048 ∧ gen < 65536 then some { slot := slot, gen := BitVec.ofNat 16 gen } else none := by
  have hno : ∀ n, periodChar ∉ showNat n := fun n h => absurd (mem_showNat h) (by decide)
  have hsplit : splitOn periodChar (showNat slot ++ str "." ++ showNat gen) = [showNat slot, showNat gen] := by
    rw [List.append_assoc]
    exact (splitOn_append (hno slot) _).trans (congrArg (List.cons _) (splitOn_of_not_mem (hno gen)))
  rw [readMsg, hsplit]
  simp only [readNat_showNat hs, readNat_showNat hg, Config.slots]

theorem State.rec?_eq (s : State) (m : MsgId) :
    s.rec? m = match s.store.records.get? m.slot with
      | none => none
      | some r => if r.id = m then some r else none := by
  unfold State.rec?
  cases s.store.records.get? m.slot <;> rfl

theorem State.namesRecord (s : State) : s.NamesRecord := by
  refine ⟨fun slot gen hs hg => ?_, fun fs r h => ?_⟩
  · unfold namedRecord
    have hread := readMsg_shown hs hg
    rw [checkForm_single, fieldOf_single]
    by_cases hr : slot < 2048 ∧ gen < 65536
    · rw [hread.trans (if_pos hr), if_neg (show ¬ (2048 ≤ slot ∨ 65536 ≤ gen) by omega)]
      simp only [Option.isSome_some, if_true, ok_bind, need_some_bind, State.rec?_eq]
      cases s.store.records.get? slot with
      | none => rfl
      | some r =>
        by_cases hid : r.id = { slot := slot, gen := BitVec.ofNat 16 gen }
        · simp only [if_pos hid]
        · simp only [if_neg hid]
    · rw [hread.trans (if_neg hr), if_pos (show 2048 ≤ slot ∨ 65536 ≤ gen by omega)]
      rfl
  · unfold namedRecord at h
    obtain ⟨_, -, h⟩ := Except.bind_eq_ok_iff.mp h
    obtain ⟨m, hm, h⟩ := Except.bind_eq_ok_iff.mp h
    split at h
    · next x hx =>
      cases h
      rw [State.rec?_id hx]
      exact ⟨need_eq_ok_iff.mp hm, get?_of_rec? hx⟩
    · cases h

/-! ### CANCEL (R33) -/

/-- Settles O21: one case for each state of the record. -/
theorem cancelByState : Obligations.CancelByState := by
  unfold Obligations.CancelByState
  refine ⟨State.namesRecord, fun s l rest r hl hc => ?_⟩
  intro found
  rw [exec_cancel_of_heads hl, hc, carry_ok]
  refine ⟨fun h => ?_, fun h => ?_, fun h => ?_, fun h => ?_⟩
  · rcases h with h | h | h <;> simp [applyCancel, cancelFields, found, h]
  · simp [applyCancel, h]
  · simp [applyCancel, cancelFields, found, h]
  · simp [applyCancel, h]

/-! ### Commands that only answer (R12, R16, R36, R37, R133) -/

theorem subLines_eq (n : Nat) (e : Entry) : subLines n e =
    [ [(str "SUB", .num n), (str "STATE", .word (if e.state = .active then str "ACTIVE" else str "SUSPENDED")),
       (str "ADDR", .num e.addr.toNat),
       (str "KIND", .word (if e.kind = .oneWay then str "ONE_WAY" else str "TWO_WAY")), (str "HOME", .num e.home),
       (str "ZONES", .nums (e.zones.map Fin.val)), (str "PLAN", .num e.plan)],
      (match e.heard with
        | some h => [(str "HEARD", .num h.zone), (str "AGE", .num h.age)]
        | none => [(str "HEARD", .none_)]) ++
        [(str "TAGS", .nums (e.tags.map Fin.val)), (str "LIVE", .num e.live), (str "HELD", .num e.held.length)],
      [(str "BALANCE", .int e.money.balance), (str "FLOOR", .int e.money.floor),
       (str "RESERVED", .num e.money.reserved),
       (str "HEADROOM", .int (e.money.balance - e.money.floor - e.money.reserved)),
       (str "CREDIT", .word (if e.money.credit = .clear then str "CLEAR" else str "BARRED")),
       (str "LOW", .int e.money.low), (str "USAGE", .num e.money.usage), (str "LOWARMED", .yesNo e.money.lowArmed),
       (str "USAGEARMED", .yesNo e.money.usageArmed), (str "PPAGES", .num e.money.periodPages),
       (str "PCHARGES", .num e.money.periodCharges)] ] := by
  have hstate : e.state.name = if e.state = .active then str "ACTIVE" else str "SUSPENDED" := by cases e.state <;> rfl
  have hkind : e.kind.name = if e.kind = .oneWay then str "ONE_WAY" else str "TWO_WAY" := by cases e.kind <;> rfl
  have hcredit : e.money.credit.name = if e.money.credit = .clear then str "CLEAR" else str "BARRED" := by
    cases e.money.credit <;> rfl
  rw [← hstate, ← hkind, ← hcredit]
  rfl

theorem Series.name_eq (x : Series) : x.name = if x = .first then str "FIRST" else str "RECOVERY" := by
  cases x <;> rfl

/-- Settles O16: the answers of the five commands, and their data lines written out. -/
theorem readingCommandsOnlyAnswer : Obligations.ReadingCommandsOnlyAnswer := by
  unfold Obligations.ReadingCommandsOnlyAnswer
  refine ⟨State.namesRecord, fun s l rest => ⟨fun n e hl hc => ?subGet, fun hl hc => ?planGet, fun r hl hc => ?pageGet,
    fun n e hl hc => ?heldList, fun hl hf => ?tariffGet⟩, subLines_eq, fun s fs => ⟨fun p hp => ?onePlan, fun hp => ?plans⟩,
    fun r => ?page, fun rate => ?tariff⟩
  case subGet => rw [exec_subGet_of_heads hl, hc, carry_ok]
  case planGet =>
    rw [exec_planGet_of_heads hl, hc, carry_ok]
    rfl
  case pageGet => rw [exec_pageGet_of_heads hl, hc, carry_ok]
  case heldList =>
    rw [exec_heldList_of_heads hl, hc, carry_ok]
    rfl
  case tariffGet =>
    rw [exec_tariffGet_of_heads hl, checkNoFields_of_nil hf, carry_ok, State.lineOff_rate]
  case onePlan =>
    rw [planLines, hp]
    rfl
  case plans =>
    rw [planLines, hp]
    rfl
  case page =>
    intro num state enc
    refine ⟨?_, rfl⟩
    rw [← Series.name_eq]
    rfl
  case tariff =>
    intro table
    cases hp : rate.pending with
    | none =>
      rw [tariffLines, hp]
      rfl
    | some ta =>
      obtain ⟨t, a⟩ := ta
      rw [tariffLines, hp]
      cases a <;> rfl

end Sys2Proof.Machine
end

section
/-! Tariffs, bands, zones and amounts: TARIFF LOAD and BAND SET (O38), ZONE SET and ZONE GET (O39), and what an airing and
a miss are charged and refunded (O37). -/

namespace Sys2Proof.Machine

variable {fs : List RawField}

/-! ### TARIFF LOAD and BAND SET (R129, R130, R132) -/

theorem checkTariffLoad_eq_ok {a : Activation} (h : checkTariffLoad fs = .ok a) :
    fieldOf fs "AT" readActivation = some a := by
  unfold checkTariffLoad at h
  obtain ⟨_, -, h⟩ := Except.bind_eq_ok_iff.mp h
  exact need_eq_ok_iff.mp h

theorem checkBandSet_eq_ok {b : Band} (h : checkBandSet fs = .ok b) : fieldOf fs "BAND" (readFin 4) = some b := by
  unfold checkBandSet at h
  obtain ⟨_, -, h⟩ := Except.bind_eq_ok_iff.mp h
  exact need_eq_ok_iff.mp h

/-- Settles O38: each command in STOPPED and outside it. -/
theorem tariffAndBandTaken : Obligations.TariffAndBandTaken := by
  unfold Obligations.TariffAndBandTaken
  refine ⟨fun s l rest a hl hc => ?tariff, fun s l rest b hl hc => ⟨checkBandSet_eq_ok hc, fun hs => ?bandNow, fun hs => ?bandNext⟩⟩
  case tariff =>
    intro old new
    refine ⟨checkTariffLoad_eq_ok hc, fun hn hs => ?_, fun hn => ?_⟩ <;> rw [exec_tariffLoad_of_heads hl, hc, carry_ok]
    · exact congrArg (fun u : State => Host.Outcome.next u.settle) (if_pos ⟨hn, hs⟩)
    · refine (congrArg (fun u : State => Host.Outcome.next u.settle)
        (if_neg fun h => hn.elim (fun hn => hn h.1) fun hs => hs h.2)).trans ?_
      cases a <;> rfl
  case bandNow =>
    rw [exec_bandSet_of_heads hl, hc, carry_ok]
    exact congrArg (fun u : State => Host.Outcome.next u.settle) (if_pos hs)
  case bandNext =>
    rw [exec_bandSet_of_heads hl, hc, carry_ok]
    exact congrArg (fun u : State => Host.Outcome.next u.settle) (if_neg hs)

/-! ### ZONE SET and ZONE GET (R91, R104) -/

theorem checkZoneSet_eq_ok {z : Zone} (h : checkZoneSet fs = .ok z) : fieldOf fs "ZONE" (readFin 8) = some z := by
  unfold checkZoneSet at h
  obtain ⟨_, -, h⟩ := Except.bind_eq_ok_iff.mp h
  obtain ⟨_, -, h⟩ := Except.bind_eq_ok_iff.mp h
  exact need_eq_ok_iff.mp h

/-- A denial that is answered BAD_FIELD. -/
def Denial.OfField (d : Denial) : Prop := (∃ key, d = .badField key) ∨ ∃ key more, d = .missing key more

theorem checkForm_error {forms : List KeyForm} {required : List String} {d : Denial}
    (h : checkForm forms required fs = .error d) : d.OfField := by
  unfold checkForm at h
  split at h
  · cases h
    exact .inl ⟨_, rfl⟩
  · split at h
    · cases h
    · cases h
      exact .inr ⟨_, _, rfl⟩

theorem checkSomeOf_error {forms : List KeyForm} {d : Denial} (h : checkSomeOf forms fs = .error d) : d.OfField := by
  unfold checkSomeOf at h
  split at h
  · cases h
  · split at h
    · cases h
      exact .inr ⟨_, _, rfl⟩
    · cases h

theorem need_error {α : Type} {v : Option α} {key : String} {d : Denial} (h : need v key = .error d) : d.OfField := by
  unfold need at h
  split at h
  · cases h
  · cases h
    exact .inr ⟨_, _, rfl⟩

/-- A check that fails has failed in its first part or, that part passed, in the rest. -/
theorem bind_eq_error {α β : Type} {x : Except Denial α} {f : α → Except Denial β} {d : Denial}
    (h : (x >>= f) = .error d) : x = .error d ∨ ∃ a, x = .ok a ∧ f a = .error d := by
  cases x with
  | error e =>
    cases h
    exact .inl rfl
  | ok a => exact .inr ⟨a, rfl, h⟩

theorem checkZoneSet_error {d : Denial} (h : checkZoneSet fs = .error d) : d.OfField := by
  unfold checkZoneSet at h
  obtain h | ⟨_, -, h⟩ := bind_eq_error h
  · exact checkForm_error h
  · obtain h | ⟨_, -, h⟩ := bind_eq_error h
    · exact checkSomeOf_error h
    · exact need_error h

theorem applyZoneGet_of_zone {z : Zone} (h : fieldOf fs "ZONE" (readFin 8) = some z) (tag : Nat) (s : State) :
    applyZoneGet tag fs s =
      if hasKey fs "CLEAR" = true then (s.report tag [zoneLine s z, zoneCountLine s z] []).modZone z ZoneCell.cleared
      else s.report tag [zoneLine s z, zoneCountLine s z] [] := by
  unfold applyZoneGet
  rw [h]

/-- Settles O39: the rows by their checks, and the two lines of a zone written out. -/
theorem zoneSettingsTaken : Obligations.ZoneSettingsTaken := by
  unfold Obligations.ZoneSettingsTaken
  refine ⟨fun s l rest z hl hc => ?set, fun fs d h => checkZoneSet_error h, fun s l rest z hl hz hf => ?one,
    fun s l rest hl hf => ?all, fun s z => ?lines⟩
  case set =>
    intro old
    refine ⟨checkZoneSet_eq_ok hc, ?_⟩
    rw [exec_zoneSet_of_heads hl, hc, carry_ok]
    rfl
  case one =>
    intro t
    rw [exec_zoneGet_of_heads hl, hf, carry_ok, applyZoneGet_of_zone hz]
    rfl
  case all =>
    rw [exec_zoneGet_of_heads hl, hf]
    rfl
  case lines =>
    intro order c
    refine ⟨?_, rfl⟩
    have hline : zoneLine s z =
        [(str "ZONE", .num z), (str "STATE", .word c.settings.state.name), (str "COLOR", .word c.settings.color.name),
         (str "LEAD", .num c.settings.lead), (str "TAIL", .num c.settings.tail), (str "GAP", .num c.settings.gap)] := rfl
    rw [hline]
    clear_value c
    obtain ⟨⟨state, color, lead, tail, gap⟩, -⟩ := c
    cases state <;> cases color <;> rfl

/-! ### What an airing is charged and a miss refunded (R85, R137 to R141) -/

/-- A share of at most the whole is at most the amount, rounded half up as it is. -/
theorem percentOf_le (amount : Nat) {pct : Nat} (h : pct ≤ 100) : percentOf amount pct ≤ amount := by
  have hle : amount * pct ≤ amount * 100 := Nat.mul_le_mul_left _ h
  unfold percentOf
  omega

section
variable (s : State) {r : PageRec} (e : Entry) (z : Nat)

theorem State.airingPrice_late (h : r.late = true) (cls : AttemptClass) :
    s.airingPrice r e cls z = { amount := 0, waived := false } := if_pos h

theorem State.airingPrice_recovery (h : r.late = false) :
    s.airingPrice r e .recovery z = { amount := 0, waived := false } := by simp [State.airingPrice, h]

theorem State.airingPrice_again (h : r.late = false) {cls : AttemptClass} (hc : cls = .retry ∨ cls = .repeat_) {f : Nat}
    (hf : r.firstCharge = some f) :
    s.airingPrice r e cls z = { amount := percentOf f r.terms.retryPct, waived := false } := by
  obtain rfl | rfl := hc <;> simp [State.airingPrice, h, hf]

theorem State.airingPrice_first_waived (h : r.late = false) :
    (s.airingPrice r e .first z).waived = true ↔ e.money.periodPages < s.plans[e.plan].included := by
  rw [s.airingPrice_first e z h]
  exact decide_eq_true_iff

end

theorem PageRec.refund_of_first {r : PageRec} (hs : r.series = .first) (hr : r.refunded = false) :
    r.refund = percentOf r.posted r.terms.refundPct := if_pos ⟨hs, hr⟩

theorem PageRec.refund_none {r : PageRec} (h : r.series = .recovery ∨ r.refunded = true) : r.refund = 0 := by
  refine if_neg fun ⟨hs, hr⟩ => ?_
  obtain h | h := h
  · rw [hs] at h
    cases h
  · rw [hr] at h
    cases h

theorem PageRec.refund_le {r : PageRec} (h : r.terms.refundPct ≤ 100) : r.refund ≤ r.posted := by
  unfold PageRec.refund
  split
  · exact percentOf_le _ h
  · exact Nat.zero_le _

/-- Settles O37: the four classes of an airing, their order in a series, and the refund. -/
theorem amountsOfAirings : Obligations.AmountsOfAirings := by
  unfold Obligations.AmountsOfAirings
  refine ⟨fun s r e cls z => ?airing, fun kind k => ⟨rfl, rfl, fun hk => ?again⟩,
    fun r => ⟨PageRec.refund_of_first, PageRec.refund_none, PageRec.refund_le⟩⟩
  case airing =>
    intro answer
    refine ⟨fun h => s.airingPrice_late e z h cls, fun h hc => ?_, fun h hc f hf => ?_, fun h hc => ?_⟩
    · subst hc
      exact s.airingPrice_recovery e z h
    · have hprice : answer = { amount := percentOf f r.terms.retryPct, waived := false } := s.airingPrice_again e z h hc hf
      refine ⟨hprice, fun hp => ?_⟩
      rw [hprice]
      exact percentOf_le f hp
    · subst hc
      refine ⟨s.airingPrice_first_waived e z h, ?_⟩
      show (s.airingPrice r e .first z).amount = charge _ (s.airingPrice r e .first z).waived _ _ _ _ _
      rw [s.airingPrice_first e z h]
  case again =>
    simp [attemptClass, hk]

end Sys2Proof.Machine
end

section
/-! The rows over money: CREDIT and ADJUST (O53), BILL READ and BILL REWIND (O54), and the close of periods (O55). -/

namespace Sys2Proof.Machine

variable {fs : List RawField}

/-! ### CREDIT and ADJUST (R153, R154) -/

theorem readCredit_eq_some {t : Text} {a : Int} (h : readCredit t = some a) : 0 < a ∧ a ≤ 16777215 := by
  unfold readCredit at h
  obtain ⟨n, hn, rfl⟩ := Option.map_eq_some_iff.mp h
  obtain ⟨hlo, hhi⟩ := readIn_eq_some hn
  exact ⟨Int.natCast_pos.mpr hlo, Int.ofNat_le.mpr hhi⟩

theorem readAdjust_eq_some {t : Text} {a : Int} (h : readAdjust t = some a) :
    a ≠ 0 ∧ -16777215 ≤ a ∧ a ≤ 16777215 := by
  unfold readAdjust at h
  split at h
  · next x hx =>
    split at h
    · cases h
    · next hne =>
      cases h
      exact ⟨hne, readIntIn_eq_some hx⟩
  · cases h

theorem checkMoney_amount {read : Text → Option Int} {s : State} {a : MoneyArgs} (h : checkMoney read s fs = .ok a) :
    ∃ t, read t = some a.amount := by
  unfold checkMoney at h
  obtain ⟨_, -, h⟩ := Except.bind_eq_ok_iff.mp h
  obtain ⟨amount, hamount, h⟩ := Except.bind_eq_ok_iff.mp h
  obtain ⟨n, -, h⟩ := Except.bind_eq_ok_iff.mp h
  obtain ⟨e, -, h⟩ := Except.bind_eq_ok_iff.mp h
  obtain ⟨_, -, h⟩ := Except.bind_eq_ok_iff.mp h
  cases h
  exact fieldOf_eq_some (need_eq_ok_iff.mp hamount)

theorem checkMoney_of_form {read : Text → Option Int} (s : State) {n : Nat} {amount : Int}
    (hform : checkForm [keyForm "SUB" readNat, keyForm "AMOUNT" read, keyForm "REF" (readIn 0 65535)] ["SUB", "AMOUNT"]
      fs = .ok ())
    (hn : fieldOf fs "SUB" readNat = some n) (ha : fieldOf fs "AMOUNT" read = some amount) :
    checkMoney read s fs =
      if 4096 ≤ n then .error (.refusal .badSubscriber [])
      else if s.sub? n = none then .error (.refusal .noSubscriber [])
      else if s.office.journalMode = .hold ∧ s.acct.openEntries = 0 then .error (.refusal .journalFull [])
      else .ok { sub := n, amount := amount, ref := (fieldOf fs "REF" (readIn 0 65535)).getD 0 } := by
  unfold checkMoney
  rw [hform, ha, subscriberNumber_of_some hn]
  simp only [ok_bind, need_some_bind]
  by_cases hlt : 4096 ≤ n
  · rw [if_pos hlt, if_neg (Nat.not_lt.mpr hlt)]
    rfl
  · rw [if_neg hlt, if_pos (Nat.lt_of_not_le hlt)]
    simp only [ok_bind, presentEntry_eq]
    cases s.sub? n with
    | none => rfl
    | some e => simp only [ok_bind, refuseIf_bind, State.journalFull_iff, reduceCtorEq, if_false]

section
variable {s : State} {a : MoneyArgs} {e : Entry} (he : s.sub? a.sub = some e) (k : JournalKind) (tag : Nat)
include he

theorem applyMoney_of_credit (ha : 0 ≤ a.amount) :
    applyMoney k tag a s =
      (s.postCredit a.sub a.amount.toNat { blankRec s k a.sub with ref := some a.ref }).reply tag .ok
        (moneyFields a.sub (e.money.creditApplied a.amount.toNat)
          (e.money.balance + e.money.creditApplied a.amount.toNat) s.acct.nextSeq) := by
  simp only [applyMoney, he, if_pos ha]

theorem applyMoney_of_charge (ha : a.amount < 0) :
    applyMoney k tag a s =
      (s.postCharge a.sub a.amount.natAbs { blankRec s k a.sub with ref := some a.ref }).reply tag .ok
        (moneyFields a.sub (-(e.money.chargeApplied a.amount.natAbs : Int))
          (e.money.balance - e.money.chargeApplied a.amount.natAbs) s.acct.nextSeq) := by
  simp only [applyMoney, he, if_neg (Int.not_le.mpr ha)]

end

/-- Settles O53: the checks in order, and the posting by the sign of the amount. -/
theorem creditAndAdjustPosted : Obligations.CreditAndAdjustPosted := by
  unfold Obligations.CreditAndAdjustPosted
  refine ⟨fun read s fs n amount hform hn ha => checkMoney_of_form s hform hn ha, fun s l rest a e he => ?_⟩
  intro made up down answered
  have he' : (s.lineOff rest).sub? a.sub = some e := he
  refine ⟨fun hl hc => ?credit, fun hl hc => ?adjust⟩
  case credit =>
    obtain ⟨t, ht⟩ := checkMoney_amount hc
    obtain ⟨hpos, hle⟩ := readCredit_eq_some ht
    refine ⟨hpos, hle, ?_⟩
    rw [exec_credit_of_heads hl, hc, carry_ok, applyMoney_of_credit he' _ _ (Int.le_of_lt hpos)]
    rfl
  case adjust =>
    obtain ⟨t, ht⟩ := checkMoney_amount hc
    obtain ⟨hne, hlo, hhi⟩ := readAdjust_eq_some ht
    refine ⟨hne, hlo, hhi, fun hpos => ?_, fun hneg => ?_⟩
    · rw [exec_adjust_of_heads hl, hc, carry_ok, applyMoney_of_credit he' _ _ (Int.le_of_lt hpos)]
      rfl
    · rw [exec_adjust_of_heads hl, hc, carry_ok, applyMoney_of_charge he' _ _ hneg]
      rfl

end Sys2Proof.Machine
end

section
/-! BILL READ and BILL REWIND (O54), and the close of periods (O55). -/

namespace Sys2Proof.Machine

variable {fs : List RawField}

/-! ### BILL READ (R162) -/

theorem JournalMode.name_eq (m : JournalMode) :
    m.name = match m with | .hold => str "HOLD" | .overwrite => str "OVERWRITE" := by cases m <;> rfl

theorem JournalKind.name_eq (k : JournalKind) :
    k.name = match k with
      | .air => str "AIR" | .refund => str "REFUND" | .receipt => str "RECEIPT" | .credit => str "CREDIT"
      | .adjust => str "ADJUST" | .period => str "PERIOD" | .close => str "CLOSE" := by cases k <;> rfl

theorem AttemptClass.name_eq (c : AttemptClass) :
    c.name = match c with
      | .first => str "FIRST" | .retry => str "RETRY" | .repeat_ => str "REPEAT" | .recovery => str "RECOVERY" := by
  cases c <;> rfl

/-- The latch cleared on a condition. -/
theorem State.ite_latch (s : State) (c : Prop) [Decidable c] :
    (if c then { s with acct := { s.acct with highLatch := false } } else s) =
      { s with acct := { s.acct with highLatch := if c then false else s.acct.highLatch } } := by split <;> rfl

/-- The flag of JOURNAL_HIGH cleared where CLEAR ON READ asks it. -/
theorem State.clearOnRead_eq (s : State) :
    (if s.office.clearOnRead = true then
      { s with hlc := { s.hlc with flags := s.hlc.flags.set NoticeKind.journalHigh.index false } } else s) =
      { s with hlc := { s.hlc with
        flags := if s.office.clearOnRead then s.hlc.flags.set NoticeKind.journalHigh.index false else s.hlc.flags } } := by
  split <;> rfl

theorem applyBillRead_eq (tag count : Nat) (s : State) :
    let sent := s.acct.unreadRecs.take count
    let cursor := s.acct.cursor + BitVec.ofNat 32 sent.length
    let unread := (s.acct.nextSeq - cursor).toNat
    applyBillRead tag count s = { s with
      acct := { s.acct with
        cursor := cursor, overflow := 0
        highLatch := if unread < s.office.journalHigh then false else s.acct.highLatch }
      hlc := { s.hlc with
        flags := if s.office.clearOnRead then s.hlc.flags.set NoticeKind.journalHigh.index false else s.hlc.flags } }.answer
      (sent.map (fun j => OutLine.data tag (journalFields j)) ++
        [OutLine.final tag .ok
          [(str "COUNT", .num sent.length), (str "UNREAD", .num unread), (str "OVERFLOW", .num s.acct.overflow)]]) := by
  intro sent cursor unread
  have hlines : (sent.map journalFields).map (OutLine.data tag) = sent.map (fun j => OutLine.data tag (journalFields j)) :=
    List.map_map
  rw [← hlines]
  refine (State.clearOnRead_eq _).trans ?_
  rw [State.ite_latch]
  rfl

/-! ### BILL REWIND (R163) -/

theorem Acct.place?_eq_none {a : Acct} {seq : BitVec 32} (h : ∀ j ∈ a.ring, j.seq ≠ seq) : a.place? seq = none := by
  unfold Acct.place?
  rw [List.findIdx?_eq_none_iff]
  exact fun j hj => by simpa using h j hj

theorem Acct.place?_of_split {a : Acct} {seq : BitVec 32} {before after : List JournalRec} {j : JournalRec}
    (hr : a.ring = before ++ j :: after) (hj : j.seq = seq) (hb : ∀ x ∈ before, x.seq ≠ seq) :
    a.place? seq = some before.length := by
  have hnone : before.findIdx? (fun x => x.seq == seq) = none := by
    rw [List.findIdx?_eq_none_iff]
    exact fun x hx => by simpa using hb x hx
  unfold Acct.place?
  rw [hr, List.findIdx?_append, hnone, List.findIdx?_cons, if_pos (by simpa using hj)]
  simp

theorem checkBillRewind_of_form (s : State) {seq : BitVec 32}
    (hform : checkForm [keyForm "SEQ" readSeq] ["SEQ"] fs = .ok ()) (hs : fieldOf fs "SEQ" readSeq = some seq) :
    checkBillRewind s fs = match s.acct.place? seq with
      | none => .error (.refusal .notRetained [])
      | some i =>
        if s.acct.unreadFrom ≤ i then .ok .stay
        else if s.office.journalMode = .hold ∧ 960 < s.acct.unreadFrom - i + s.acct.unread + s.acct.airReserved then
          .error (.refusal .noRoom [])
        else .ok (.back seq) := by
  unfold checkBillRewind
  rw [hform, hs]
  simp only [ok_bind, need_some_bind]
  rfl

/-- Settles O54: the two rows, the judgement of JOURNAL_HIGH, and the data line of each kind of record. -/
theorem journalReadAndRewound : Obligations.JournalReadAndRewound := by
  unfold Obligations.JournalReadAndRewound
  refine ⟨fun s l rest hl hf => ?read, fun s fs seq hform hs => ⟨fun h => ?gone, fun before j after hr hj hb => ?place⟩,
    fun s l rest hl => ⟨fun hc => ?stay, fun seq hc => ?back⟩, fun s => ?judge, fun j => ?line⟩
  case read =>
    intro count sent cursor unread
    rw [exec_billRead_of_heads hl, hf, carry_ok, applyBillRead_eq]
    rfl
  case gone => rw [checkBillRewind_of_form s hform hs, Acct.place?_eq_none h]
  case place =>
    intro read k
    rw [checkBillRewind_of_form s hform hs, Acct.place?_of_split hr hj hb]
    rfl
  case stay =>
    rw [exec_billRewind_of_heads hl, hc, carry_ok]
    rfl
  case back =>
    rw [exec_billRewind_of_heads hl, hc, carry_ok]
    rfl
  case judge =>
    intro unread raised
    refine (State.judgeJournalHigh_eq s).trans ?_
    simp only [JournalMode.name_eq]
    rfl
  case line =>
    intro kind flags first amounts
    have hkind : j.kind.name = kind := j.kind.name_eq
    have hline : journalFields j = first ++ (match j.msg with | some m => [(str "MSG", .msg m)] | none => []) ++
        (match j.air with | some a => [(str "CLASS", .word a.cls.name)] | none => []) ++ amounts ++
        (match j.air with
          | some a => [(str "Z", .num a.zones), (str "N", .num a.blocks), (str "VER", .num a.version.toNat),
              (str "ORIGIN", .num a.origin)]
          | none => []) ++
        (match j.ref with | some r => [(str "REF", .num r)] | none => []) ++
        (match j.period with | some p => [(str "PPAGES", .num p.1), (str "PCHARGES", .num p.2)] | none => []) := by
      simp only [first, ← hkind]
      rfl
    refine ⟨fun m a _ hm ha hr hp => ?_, fun m _ hm ha hr hp => ?_, fun ref _ hm ha hr hp => ?_,
      fun pages charges _ hm ha hr hp => ?_⟩ <;> rw [hline, hm, ha, hr, hp]
    · simp [AttemptClass.name_eq] <;> rfl
    all_goals simp

/-! ### The close of periods (R164 to R166) -/

/-- The PERIOD record is written where the journal is not full. -/
theorem State.closePeriod_of_not_full {s : State} (h : s.journalFull = false) (n : Nat) (e : Entry) :
    s.closePeriod n e = s.periodClosed n e :=
  (State.journal_of_not_full (s := s.setSub n
    { e with money := { e.money with periodPages := 0, periodCharges := 0, usageArmed := true } }) h _).symm

theorem checkPeriodClose_of_form (s : State) {n : Nat} (hform : checkForm [keyForm "SUB" readNat] ["SUB"] fs = .ok ())
    (hn : fieldOf fs "SUB" readNat = some n) :
    checkPeriodClose s fs =
      if 4096 ≤ n then .error (.refusal .badSubscriber [])
      else if s.acct.sweep ≠ none then .error (.refusal .sweepActive [])
      else match s.sub? n with
        | none => .error (.refusal .noSubscriber [])
        | some e =>
          if s.office.journalMode = .hold ∧ s.acct.openEntries = 0 then .error (.refusal .journalFull [])
          else .ok (n, e) := by
  unfold checkPeriodClose
  rw [hform, subscriberNumber_of_some hn]
  simp only [ok_bind]
  by_cases hlt : 4096 ≤ n
  · rw [if_pos hlt, if_neg (Nat.not_lt.mpr hlt)]
    rfl
  · rw [if_neg hlt, if_pos (Nat.lt_of_not_le hlt)]
    simp only [ok_bind, refuseIf_bind, Option.isSome_iff_ne_none, presentEntry_eq]
    cases s.sub? n with
    | none => rfl
    | some e => simp only [ok_bind, State.journalFull_iff]

theorem checkPeriodCloseAll_eq (s : State) :
    checkPeriodCloseAll s fs = match fs with
      | [] => if s.acct.sweep = none then .ok () else .error (.refusal .sweepActive [])
      | f :: _ => .error (.badField f.key) := by
  unfold checkPeriodCloseAll
  cases fs with
  | cons f more => rfl
  | nil => cases s.acct.sweep <;> rfl

/-- The cursor of the sweep moves on, or the sweep ends (R165). -/
theorem State.sweepOn_eq (s : State) (cursor closed : Nat) :
    s.sweepOn cursor closed =
      if cursor < 4095 then
        { s with acct := { s.acct with sweep := some { cursor := cursor + 1, closed := closed, paused := false } } }
      else
        { s with acct := { s.acct with sweep := none } }.raise .periodDone
          [(str "CLOSED", .num closed), (str "ROUND", .num s.aclk.round)] := by
  unfold State.sweepOn
  by_cases h : cursor < 4095
  · rw [if_pos h, if_pos (show cursor + 1 < 4096 by omega)]
  · rw [if_neg h, if_neg (show ¬ cursor + 1 < 4096 by omega)]

theorem exec_sweepVisit_of_sweep {s : State} {w : Sweep} (h : s.acct.sweep = some w) :
    exec .sweepVisit s = .next (s.visit w).settle := by
  show execSweepVisit s = _
  unfold execSweepVisit
  rw [h]
  rfl

/-- Settles O55: the checks in order, the two commands, and the three cases of a visit. -/
theorem periodsClosed : Obligations.PeriodsClosed := by
  unfold Obligations.PeriodsClosed
  refine ⟨fun s fs n hform hn => checkPeriodClose_of_form s hform hn, fun s l rest n e hl hc => ?one,
    fun s l rest hl => ⟨fun hf hw => ?all, fun hf hw => ?active, fun f fs hf => ?field⟩, fun s w hw => ?visit⟩
  case one =>
    have hfull : (s.lineOff rest).journalFull = false := (checkPeriodClose_eq_ok hc).2.2
    rw [exec_periodClose_of_heads hl, hc, carry_ok, ← State.closePeriod_of_not_full hfull]
    rfl
  case all =>
    rw [exec_periodCloseAll_of_heads hl, checkPeriodCloseAll_eq, hf]
    simp only [State.lineOff_frame, hw, if_true]
    rfl
  case active =>
    rw [exec_periodCloseAll_of_heads hl, checkPeriodCloseAll_eq, hf]
    simp only [State.lineOff_frame, hw, if_false]
    rfl
  case field =>
    rw [exec_periodCloseAll_of_heads hl, checkPeriodCloseAll_eq, hf]
    rfl
  case visit =>
    intro moved
    rw [exec_sweepVisit_of_sweep hw]
    refine ⟨fun he => ?_, fun e he hopen => ?_, fun e he hm ho => ?_⟩
    · simp only [State.visit, he, State.sweepOn_eq]
      rfl
    · have hfull : s.journalFull = false := by
        rw [Bool.eq_false_iff, ne_eq, State.journalFull_iff]
        rintro ⟨hm, ho⟩
        rcases hopen with h | h
        · rw [hm] at h; cases h
        · exact h ho
      have hclosed := State.closePeriod_of_not_full hfull w.cursor e
      have hvisit : s.visit w = (s.closePeriod w.cursor e).sweepOn w.cursor (w.closed + 1) := by
        simp only [State.visit, he, hfull, Bool.false_eq_true, if_false]
      have haclk : (s.periodClosed w.cursor e).aclk = s.aclk := by
        rw [← hclosed]
        simp
      rw [hvisit, hclosed, State.sweepOn_eq, congrArg Aclk.round haclk]
    · simp only [State.visit, he, s.journalFull_iff.mpr ⟨hm, ho⟩, if_true]

end Sys2Proof.Machine
end

section
/-! The air clock: AIR START and AIR STOP (O24), the window boundaries (O26) and the strobes (O28). -/

namespace Sys2Proof.Machine

variable {fs : List RawField}

/-! ### AIR START and AIR STOP (R59, R62) -/

theorem checkAirStart_eq (s : State) :
    checkAirStart s fs = match fs with
      | [] => if s.aclk.air = .stopped then .ok () else .error (.refusal .airRunning [])
      | f :: _ => .error (.badField f.key) := by
  unfold checkAirStart
  cases fs with
  | cons f more => rfl
  | nil => cases s.aclk.air <;> rfl

theorem checkAirStop_eq (s : State) :
    checkAirStop s fs = match fs with
      | [] => if s.aclk.air = .stopped then .error (.refusal .airStopped []) else .ok ()
      | f :: _ => .error (.badField f.key) := by
  unfold checkAirStop
  cases fs with
  | cons f more => rfl
  | nil => cases s.aclk.air <;> rfl

/-- An image begun now is LOCKED with the detector in lock (R68). -/
theorem Detector.layout_eq (d : Detector) : d.layout = if d = Detector.locked then .locked else .degraded := by
  cases d <;> rfl

theorem applyAirStart_eq (tag : Nat) (s : State) :
    applyAirStart tag s = { s with
      aclk := { s.aclk with air := .starting }
      wsch := { s.wsch with
        build := some
          { image :=
              { round := s.aclk.round, window := s.aclk.window
                layout := if s.aclk.detector = Detector.locked then Layout.locked else Layout.degraded
                view := s.txi.map ZoneCell.settings, pages := Vector.replicate 8 [], order := [] }
            reached := none, closed := false, ended := false } } }.answer
      [.final tag .ok
        [(str "STATE", .word (str "STARTING")), (str "ROUND", .num s.aclk.round),
         (str "WINDOW", .num s.aclk.window)]] := by
  rw [← Detector.layout_eq]
  rfl

/-- Whether the airing of the image on air is under way (R84). -/
theorem State.airingUnderWay_iff (s : State) :
    s.airingUnderWay = true ↔ ∃ o, s.wsch.onAir = some o ∧ o.toAir ≠ [] := by
  unfold State.airingUnderWay
  cases s.wsch.onAir with
  | none => simp
  | some o => simp

section
variable {s : State} (tag : Nat)

theorem applyAirStop_starting (h : s.aclk.air = .starting) :
    applyAirStop tag s = s.withdrawImage.arriveStopped.answer
      [.final tag .ok
        [(str "STATE", .word (str "STOPPED")), (str "ROUND", .num s.aclk.round), (str "WINDOW", .num s.aclk.window)]] := by
  have haclk : s.withdrawImage.aclk = s.aclk := s.withdrawImage_frame.2.1
  rw [← haclk]
  unfold applyAirStop
  rw [h]
  rfl

theorem applyAirStop_running (h : s.aclk.air = .running) :
    applyAirStop tag s = (stopRunning s).answer
      [.final tag .ok
        [(str "STATE", .word (stopRunning s).aclk.air.name), (str "ROUND", .num (stopRunning s).aclk.round),
         (str "WINDOW", .num (stopRunning s).aclk.window)]] := by
  unfold applyAirStop
  rw [h]
  rfl

theorem applyAirStop_stopping (h : s.aclk.air = .stopping) :
    applyAirStop tag s = s.answer [.final tag .ok [(str "STATE", .word (str "STOPPING"))]] := by
  unfold applyAirStop
  rw [h]
  rfl

theorem stopRunning_of_window_begun (h : s.aclk.holding ≠ .windowStart) :
    stopRunning s = { s.withdrawImage with aclk := { s.aclk with air := .stopping, holding := .none_ } } := by
  rw [← s.withdrawImage_frame.2.1]
  exact if_neg h

theorem stopRunning_of_airing (h : s.aclk.holding = .windowStart) (ha : s.airingUnderWay = true) :
    stopRunning s = { s.withdrawImage with aclk := { s.aclk with air := .stopping, holding := .stop } } := by
  rw [← s.withdrawImage_frame.2.1]
  exact (if_pos h).trans (if_pos ha)

theorem stopRunning_of_aired (h : s.aclk.holding = .windowStart) (ha : s.airingUnderWay = false) :
    stopRunning s = s.withdrawImage.arriveStopped :=
  (if_pos h).trans (if_neg (by rw [ha]; exact Bool.false_ne_true))

end

/-- Settles O24: the checks, and AIR STOP by the air state. -/
theorem airStartedAndStopped : Obligations.AirStartedAndStopped := by
  unfold Obligations.AirStartedAndStopped
  refine ⟨fun s l rest hl => ⟨fun hf ha => ?start, fun hf ha => ?running, fun f fs hf => ?startField⟩,
    fun s l rest hl hf => ?stop, fun s l rest hl f fs hf => ?stopField, fun s => ⟨s.airingUnderWay_iff, rfl⟩⟩
  case start =>
    rw [exec_airStart_of_heads hl, checkAirStart_eq, hf]
    simp only [State.lineOff_frame, ha, if_true, carry_ok, applyAirStart_eq]
  case running =>
    rw [exec_airStart_of_heads hl, checkAirStart_eq, hf]
    simp only [State.lineOff_frame, ha, if_false]
    rfl
  case startField =>
    rw [exec_airStart_of_heads hl, checkAirStart_eq, hf]
    rfl
  case stopField =>
    rw [exec_airStop_of_heads hl, checkAirStop_eq, hf]
    rfl
  case stop =>
    intro w answered
    have hgo : s.aclk.air ≠ .stopped → exec .airStop s = .next (applyAirStop l.tag (s.lineOff rest)).settle := fun ha => by
      rw [exec_airStop_of_heads hl, checkAirStop_eq, hf]
      simp only [State.lineOff_frame, ha, if_false, carry_ok]
    have hw : w.aclk = s.aclk := (s.lineOff rest).withdrawImage_frame.2.1
    refine ⟨fun ha => ?_, fun ha => ?_, fun ha hh => ?_, fun ha hh hu => ?_, fun ha hh hu => ?_, fun ha => ?_⟩
    · rw [exec_airStop_of_heads hl, checkAirStop_eq, hf]
      simp only [State.lineOff_frame, ha, if_true]
      rfl
    · rw [hgo (by rw [ha]; decide), applyAirStop_starting (s := s.lineOff rest) l.tag ha]
      rfl
    · rw [hgo (by rw [ha]; decide), applyAirStop_running (s := s.lineOff rest) l.tag ha,
        stopRunning_of_window_begun (s := s.lineOff rest) hh]
      rfl
    · rw [hgo (by rw [ha]; decide), applyAirStop_running (s := s.lineOff rest) l.tag ha,
        stopRunning_of_airing (s := s.lineOff rest) hh hu]
      rfl
    · rw [hgo (by rw [ha]; decide), applyAirStop_running (s := s.lineOff rest) l.tag ha,
        stopRunning_of_aired (s := s.lineOff rest) hh hu]
      show _ = Host.Outcome.next (w.arriveStopped.answer _).settle
      rw [← hw]
      rfl
    · rw [hgo (by rw [ha]; decide), applyAirStop_stopping (s := s.lineOff rest) l.tag ha]

/-! ### Boundaries (R56, R60, R61, R64) -/

theorem windowAfter_eq (r : Round) (w : Window) : windowAfter r w = (if w = 31 then r + 1 else r, w + 1) := by
  unfold windowAfter
  by_cases h : w = 31
  · subst h
    rfl
  · rw [if_neg h, if_neg h]

theorem Aclk.advance_eq (a : Aclk) :
    a.advance = { a with round := if a.window = 31 then a.round + 1 else a.round, window := a.window + 1 } := by
  unfold Aclk.advance
  rw [windowAfter_eq]

theorem State.windowReady_iff (s : State) :
    s.windowReady = true ↔
      (∃ b, s.wsch.build = some b ∧ b.ended = true) ∧ ∀ o, s.wsch.onAir = some o → o.toAir = [] := by
  unfold State.windowReady
  rw [Bool.and_eq_true]
  refine and_congr ?_ ?_
  · cases s.wsch.build <;> simp
  · cases s.wsch.onAir <;> simp

theorem State.startOrHold_ready {s : State} (h : s.windowReady = true) : s.startOrHold = s.windowStart := if_pos h

theorem State.startOrHold_not_ready {s : State} (h : s.windowReady = false) :
    s.startOrHold = { s with aclk := { s.aclk with holding := .windowStart } } :=
  if_neg (by rw [h]; exact Bool.false_ne_true)

theorem exec_leadInEnd_of_starting {s : State} (h : s.aclk.air = .starting) :
    exec .leadInEnd s = .next ({ s with aclk := { s.aclk with air := .running } } : State).startOrHold.settle := by
  show execLeadInEnd s = _
  unfold execLeadInEnd
  rw [h]
  rfl

theorem exec_windowBoundary_of_running {s : State} (ha : s.aclk.air = .running) (hh : s.aclk.holding = .none_) :
    exec .windowBoundary s = .next ({ s with aclk := s.aclk.advance } : State).startOrHold.settle := if_pos ⟨ha, hh⟩

theorem exec_heldWindowStart_of_ready {s : State} (ha : s.aclk.air = .running) (hh : s.aclk.holding = .windowStart)
    (hr : s.windowReady = true) : exec .heldWindowStart s = .next s.windowStart.settle := if_pos ⟨ha, hh, hr⟩

theorem exec_heldWindowStart_of_not_ready {s : State} (hr : s.windowReady = false) : exec .heldWindowStart s = .next s :=
  if_neg fun ⟨_, _, h⟩ => by rw [hr] at h; cases h

theorem exec_stoppingWindowEnd_of_airing {s : State} (ha : s.aclk.air = .stopping) (hh : s.aclk.holding = .none_)
    (hu : s.airingUnderWay = true) :
    exec .stoppingWindowEnd s = .next ({ s with aclk := { s.aclk with holding := .windowEnd } } : State).settle :=
  (if_pos ⟨ha, hh⟩).trans (if_pos hu)

theorem exec_stoppingWindowEnd_of_aired {s : State} (ha : s.aclk.air = .stopping) (hh : s.aclk.holding = .none_)
    (hu : s.airingUnderWay = false) :
    exec .stoppingWindowEnd s = .next ({ s with aclk := s.aclk.advance } : State).arriveStopped.settle :=
  (if_pos ⟨ha, hh⟩).trans (if_neg (by rw [hu]; exact Bool.false_ne_true))

theorem State.airingUnderWay_eq_false {s : State} (h : ∀ o, s.wsch.onAir = some o → o.toAir = []) :
    s.airingUnderWay = false := by
  rw [Bool.eq_false_iff, ne_eq, State.airingUnderWay_iff]
  rintro ⟨o, ho, hne⟩
  exact hne (h o ho)

/-- Settles O26: each boundary in its air state, the event issued or held. -/
theorem boundariesTaken : Obligations.BoundariesTaken := by
  unfold Obligations.BoundariesTaken
  refine ⟨State.windowReady_iff, fun s ha => ?lead, fun s ha hh => ?boundary, fun s ha hh => ⟨fun b hb he ho => ?issued,
    exec_heldWindowStart_of_not_ready⟩, fun s o ha hh ho hne => ?held, fun s ha hh ho => ?stopped⟩
  case lead =>
    intro t
    rw [exec_leadInEnd_of_starting ha]
    exact ⟨fun h => by rw [State.startOrHold_ready (s := t) h], fun h => by rw [State.startOrHold_not_ready (s := t) h]⟩
  case boundary =>
    intro t
    rw [exec_windowBoundary_of_running ha hh, Aclk.advance_eq]
    exact ⟨fun h => by rw [State.startOrHold_ready (s := t) h], fun h => by rw [State.startOrHold_not_ready (s := t) h]⟩
  case issued => exact exec_heldWindowStart_of_ready ha hh (s.windowReady_iff.mpr ⟨⟨b, hb, he⟩, ho⟩)
  case held => exact exec_stoppingWindowEnd_of_airing ha hh (s.airingUnderWay_iff.mpr ⟨o, ho, hne⟩)
  case stopped =>
    rw [exec_stoppingWindowEnd_of_aired ha hh (State.airingUnderWay_eq_false ho), Aclk.advance_eq]
    rfl

/-! ### Strobes (R65 to R67) -/

theorem State.countStrobe_in_group {s : State} (h : s.aclk.strobes + 1 < 64) (good : Bool) :
    s.countStrobe good = { s with aclk :=
      { s.aclk with strobes := s.aclk.strobes + 1, badMark := s.aclk.badMark || !good } } := if_pos h

theorem State.countStrobe_last {s : State} (h : 64 ≤ s.aclk.strobes + 1) (good : Bool) :
    s.countStrobe good =
      if (s.aclk.badMark || !good) = true then
        ({ s with aclk := { s.aclk with strobes := 0, badMark := false } } : State).unlock
      else ({ s with aclk := { s.aclk with strobes := 0, badMark := false } } : State).goodGroup :=
  if_neg (Nat.not_lt.mpr h)

/-- The entry to LOCKED. -/
theorem State.goodGroup_eighth {s : State} (h : s.aclk.detector = .acquiring 7) :
    s.goodGroup.hlc = s.hlc.raise .lock
      [(str "STATE", .word (str "LOCKED")), (str "ROUND", .num s.aclk.round), (str "WINDOW", .num s.aclk.window)]
      (s.office.lockEdge = .gained ∨ s.office.lockEdge = .both) := by
  rw [← LockEdge.calls_gained]
  unfold State.goodGroup
  rw [h]
  rfl

/-- Settles O28: a strobe within the group and its last, and the edges of LOCKED. -/
theorem strobesAreCounted : Obligations.StrobesAreCounted := by
  unfold Obligations.StrobesAreCounted
  refine ⟨fun s good => ⟨fun h => ?within, fun h => ?last, rfl⟩, fun s h => ?missing,
    fun s => ⟨State.goodGroup_eighth, fun h => ?lost, fun h => ?stays⟩⟩
  case within => exact congrArg (fun u : State => Host.Outcome.next u.settle) (State.countStrobe_in_group h good)
  case last =>
    intro t
    exact congrArg (fun u : State => Host.Outcome.next u.settle) (State.countStrobe_last h good)
  case missing =>
    refine (congrArg (fun u : State => Host.Outcome.next u.settle) (State.countStrobe_in_group h false)).trans ?_
    rw [Bool.not_false, Bool.or_true]
  case lost =>
    rw [State.unlock_of_locked h]
    exact ⟨rfl, rfl⟩
  case stays =>
    rw [State.unlock_of_not_locked h]
    exact ⟨rfl, rfl⟩

end Sys2Proof.Machine
end

section
/-! Records that go into a queue or out of the store: filing (R69), freeing (R32, O22), recovery (R31, O23) and the
withdrawal of an image (R63, O25). -/

namespace Sys2Proof.Machine

/-! ### Putting an id into a list (R8, R69) -/

/-- An id stands behind the ids it is not put before and right before the first one it is. -/
theorem insertBefore_split (before : MsgId → Bool) (m : MsgId) (l : List MsgId) :
    ∃ front back, l = front ++ back ∧ insertBefore before m l = front ++ m :: back ∧
      (∀ x ∈ front, before x = false) ∧ ∀ x, back.head? = some x → before x = true := by
  induction l with
  | nil => exact ⟨[], [], rfl, rfl, List.forall_mem_nil _, fun _ hx => by cases hx⟩
  | cons y ys ih =>
    unfold insertBefore
    by_cases hy : before y = true
    · refine ⟨[], y :: ys, rfl, if_pos hy, List.forall_mem_nil _, fun x hx => ?_⟩
      cases hx
      exact hy
    · obtain ⟨front, back, hl, hins, hfront, hback⟩ := ih
      refine ⟨y :: front, back, by rw [hl]; rfl, ?_, fun x hx => ?_, hback⟩
      · rw [if_neg hy, hins]
        rfl
      · rcases List.mem_cons.mp hx with rfl | hx
        · exact Bool.eq_false_iff.mpr hy
        · exact hfront x hx

/-- A record put in before the first one of the list it stands ahead of. -/
theorem State.putIn_insertBefore {s : State} {ahead : PageRec → PageRec → Prop} {r : PageRec} {before : MsgId → Bool}
    (hb : ∀ m, before m = true ↔ ∃ x, s.rec? m = some x ∧ ahead r x) (l : List MsgId) :
    s.PutIn ahead r l (insertBefore before r.id l) := by
  obtain ⟨front, back, hl, hins, hfront, hback⟩ := insertBefore_split before r.id l
  refine ⟨front, back, hl, hins, fun m hm x hx ha => ?_, fun m hm => (hb m).mp (hback m hm)⟩
  have hno := hfront m hm
  rw [(hb m).mpr ⟨x, hx, ha⟩] at hno
  cases hno

theorem QueuePlace.ahead_iff (r x : PageRec) : r.queuePlace.ahead x.queuePlace = true ↔ r.QueueAhead x := by
  unfold QueuePlace.ahead PageRec.QueueAhead
  rw [Bool.or_eq_true, Bool.and_eq_true, beq_iff_eq, decide_eq_true_iff, eq_comm (a := r.queuePlace.pri)]
  rfl

theorem State.standsAhead_iff (s : State) (r : PageRec) (m : MsgId) :
    s.standsAhead r.queuePlace m = true ↔ ∃ x, s.rec? m = some x ∧ r.QueueAhead x := by
  unfold State.standsAhead
  cases s.rec? m with
  | none => simp
  | some x => simp [QueuePlace.ahead_iff]

theorem State.putIn_congr {s t : State} (h : ∀ m, t.rec? m = s.rec? m) {ahead : PageRec → PageRec → Prop} {r : PageRec}
    {old new : List MsgId} (hp : s.PutIn ahead r old new) : t.PutIn ahead r old new := by
  unfold State.PutIn
  simp only [h]
  exact hp

/-- Filing puts the record in by priority and age (R69, R70). -/
theorem State.putIn_fileRec {s : State} {r : PageRec} {e : Entry} (he : s.sub? r.sub = some e) :
    s.PutIn PageRec.QueueAhead r (s.queue e.home) ((s.fileRec r).queue e.home) := by
  have hq : (s.fileRec r).queue e.home = insertBefore (s.standsAhead r.queuePlace) r.id (s.queue e.home) := by
    unfold State.fileRec
    rw [he]
    exact (State.queue_setQueue _ _ _ _).trans (if_pos rfl)
  rw [hq]
  exact State.putIn_insertBefore (s.standsAhead_iff r) _

/-- The records are those of before. -/
theorem State.rec?_fileRec (s : State) (r : PageRec) (m : MsgId) : (s.fileRec r).rec? m = s.rec? m :=
  State.rec?_congr (by simp) m

theorem State.sub?_fileRec (s : State) (r : PageRec) (n : Nat) : (s.fileRec r).sub? n = s.sub? n :=
  State.sub?_congr (by simp) n

theorem State.sub?_putRec (s : State) (r : PageRec) (n : Nat) : (s.putRec r).sub? n = s.sub? n := rfl

theorem State.queue_putRec (s : State) (r : PageRec) (w : Window) : (s.putRec r).queue w = s.queue w := rfl

/-! ### Freeing a record (R32) -/

/-- The record freed, congestion not yet judged. -/
def State.freed (s : State) (r : PageRec) (o : PageOutcome) : State :=
  ((((s.raise o.kind (o.fields r)).leavePlace r).releaseTagOf r).releaseReservation r).dropRec r

theorem State.freeRec_eq (s : State) (r : PageRec) (o : PageOutcome) :
    s.freeRec r o = (s.freed r o).judgeCongestion := rfl

/-- What is left of the entry of a record freed. -/
def Entry.without (e : Entry) (r : PageRec) : Entry :=
  { e with
    live := e.live - 1
    tags := match r.tag with | some g => e.tags.filter (fun x => x != g) | none => e.tags
    held := if r.state = .held then e.held.filter (fun m => m != r.id) else e.held
    money := { e.money with reserved := e.money.reserved - r.reservation.getD 0 } }

section
variable (s : State) (r : PageRec) (o : PageOutcome)

/-- Congestion judged changes the congestion state and the host line. -/
theorem State.judgeCongestion_rest :
    { s.judgeCongestion with
      store := { s.judgeCongestion.store with congested := s.store.congested }, hlc := s.hlc } = s := by
  unfold State.judgeCongestion
  simp only
  (repeat' split) <;> rfl

theorem State.freed_hlc : (s.freed r o).hlc = s.hlc.raise o.kind (o.fields r) true := by simp [State.freed]

theorem State.freed_store : (s.freed r o).store = { s.store with records := s.store.records.erase r.id.slot } := by
  simp [State.freed, State.dropRec]

theorem State.freeRec_records : (s.freeRec r o).store.records = s.store.records.erase r.id.slot := by
  rw [State.freeRec_eq, (State.judgeCongestion_store _).1, State.freed_store]

theorem State.rec?_freeRec_self : (s.freeRec r o).rec? r.id = none := by
  unfold State.rec?
  rw [State.freeRec_records, Table.get?_erase_self]

theorem State.rec?_freeRec_other {m : MsgId} (h : m.slot ≠ r.id.slot) : (s.freeRec r o).rec? m = s.rec? m := by
  unfold State.rec?
  rw [State.freeRec_records, Table.get?_erase_other _ h]

theorem State.sub?_dropRec (n : Nat) :
    (s.dropRec r).sub? n =
      if n = r.sub then (s.sub? r.sub).map (fun e => { e with live := e.live - 1 }) else s.sub? n :=
  s.sub?_modSub _ _ _

theorem State.sub?_freeRec (n : Nat) :
    (s.freeRec r o).sub? n = if n = r.sub then (s.sub? r.sub).map (fun e => e.without r) else s.sub? n := by
  have hraise : ∀ m, (s.raise o.kind (o.fields r)).sub? m = s.sub? m := State.sub?_congr rfl
  rw [State.freeRec_eq, State.sub?_congr (State.judgeCongestion_frame _).1]
  unfold State.freed
  simp only [State.sub?_dropRec, State.sub?_releaseReservation, State.sub?_releaseTagOf, State.sub?_leavePlace, hraise]
  by_cases hn : n = r.sub
  · simp only [if_pos hn, if_true, Option.map_map]
    rfl
  · simp only [if_neg hn]

theorem State.freed_wsch :
    (s.freed r o).wsch = { ((s.raise o.kind (o.fields r)).leavePlace r).wsch with
      oversize := ((s.raise o.kind (o.fields r)).leavePlace r).wsch.oversize.filter (fun m => m != r.id) } := by
  simp [State.freed, State.dropRec]

/-- A record leaves the scheduler only by a window queue. -/
theorem State.leavePlace_wsch :
    (s.leavePlace r).wsch.build = s.wsch.build ∧ (s.leavePlace r).wsch.onAir = s.wsch.onAir ∧
      (s.leavePlace r).wsch.oversize = s.wsch.oversize ∧ (s.leavePlace r).wsch.deferrals = s.wsch.deferrals := by
  unfold State.leavePlace
  split <;> simp

theorem State.queue_leavePlace {e : Entry} (he : s.sub? r.sub = some e) (w : Window) :
    (s.leavePlace r).queue w =
      if (r.state = .queued ∨ r.state = .retryWait) ∧ w = e.home then (s.queue w).filter (fun m => m != r.id)
      else s.queue w := by
  have hunfile : (s.unfile r).queue w = if w = e.home then (s.queue w).filter (fun m => m != r.id) else s.queue w := by
    rw [State.queue_unfile _ he]
    by_cases hw : w = e.home
    · rw [if_pos hw, if_pos hw, hw]
    · rw [if_neg hw, if_neg hw]
  unfold State.leavePlace
  cases hst : r.state with
  | queued => simpa using hunfile
  | retryWait => simpa using hunfile
  | placed => simp
  | awaiting =>
    simp only [reduceCtorEq, or_self, false_and, if_false]
    rfl
  | delivered =>
    simp only [reduceCtorEq, or_self, false_and, if_false]
    rfl
  | held => simpa using State.queue_congr (s := s) (by simp) w

theorem State.queue_freeRec {e : Entry} (he : s.sub? r.sub = some e) (w : Window) :
    (s.freeRec r o).queue w =
      if (r.state = .queued ∨ r.state = .retryWait) ∧ w = e.home then (s.queue w).filter (fun m => m != r.id)
      else s.queue w := by
  have hraise : (s.raise o.kind (o.fields r)).sub? r.sub = some e := he
  have hqueues : (s.freeRec r o).wsch.queues = ((s.raise o.kind (o.fields r)).leavePlace r).wsch.queues := by
    rw [State.freeRec_eq, (State.judgeCongestion_frame _).2.2.2.1, State.freed_wsch]
  rw [State.queue_congr hqueues, State.queue_leavePlace _ _ hraise]
  rfl

theorem State.freeRec_wsch :
    (s.freeRec r o).wsch.build = s.wsch.build ∧ (s.freeRec r o).wsch.onAir = s.wsch.onAir ∧
      (s.freeRec r o).wsch.oversize = s.wsch.oversize.filter (fun m => m != r.id) ∧
      (s.freeRec r o).wsch.deferrals = s.wsch.deferrals := by
  obtain ⟨hb, ho, hv, hd⟩ := (s.raise o.kind (o.fields r)).leavePlace_wsch r
  rw [State.freeRec_eq, (State.judgeCongestion_frame _).2.2.2.1, State.freed_wsch]
  exact ⟨hb, ho, congrArg _ hv, hd⟩

theorem State.rmat_leavePlace :
    (s.leavePlace r).rmat = { s.rmat with
      awaiting := if r.state = .awaiting ∨ r.state = .delivered then s.rmat.awaiting.filter (fun m => m != r.id)
        else s.rmat.awaiting } := by
  unfold State.leavePlace
  cases r.state <;> simp [State.leaveAwaiting]

theorem State.freeRec_rmat :
    (s.freeRec r o).rmat = { s.rmat with
      awaiting := if r.state = .awaiting ∨ r.state = .delivered then s.rmat.awaiting.filter (fun m => m != r.id)
        else s.rmat.awaiting } := by
  have h : (s.freeRec r o).rmat = ((s.raise o.kind (o.fields r)).leavePlace r).rmat := by
    simp [State.freeRec_eq, State.freed]
  rw [h, State.rmat_leavePlace]
  rfl

theorem State.flag_freeRec : (s.freeRec r o).hlc.flags[o.kind.index] = true := by
  rw [State.freeRec_eq]
  refine State.flag_judgeCongestion _ _ ?_
  rw [State.freed_hlc]
  exact s.flag_raise_self _ _

end

/-- The condition of an outcome. -/
theorem PageOutcome.notice_eq (o : PageOutcome) (r : PageRec) : o.notice r = (o.kind, o.fields r) := by
  cases o <;> rfl

/-- Settles O22: the record out of the slot, its entry, its place, and the two conditions. -/
theorem recordFreed : Obligations.RecordFreed := by
  unfold Obligations.RecordFreed
  intro s r e o hr he t
  have hu : { t with
      store := { t.store with congested := s.store.congested }
      hlc := s.hlc.raise (o.notice r).1 (o.notice r).2 true } = s.freed r o := by
    have hrest := (s.freed r o).judgeCongestion_rest
    rw [State.freed_hlc, State.freed_store] at hrest
    rw [PageOutcome.notice_eq]
    exact hrest
  obtain ⟨hbuild, hair, hover, hdef⟩ := s.freeRec_wsch r o
  obtain ⟨hrecords, hgens, hnext⟩ := (s.freed r o).judgeCongestion_store
  obtain ⟨hplans, haclk, htxi, hrxi, hrate, hacct, hoffice, hfresh, hpending⟩ := s.freeRec_frame r o
  refine ⟨by rw [hu]; rfl, s.rec?_freeRec_self r o, s.freeRec_records r o, ?gens, ?next, fun m => s.rec?_freeRec_other r o,
    ⟨e.without r, ?entry, rfl, rfl, rfl, rfl, rfl, rfl, rfl, rfl, rfl, rfl, rfl⟩, fun n hn => ?others,
    s.queue_freeRec r o he, s.freeRec_rmat r o, hover, hdef, s.flag_freeRec r o, hplans, haclk, htxi, hrxi, hrate, hacct,
    hoffice, hbuild, hair, hfresh, hpending⟩
  case gens => exact hgens.trans (by rw [State.freed_store])
  case next => exact hnext.trans (by rw [State.freed_store])
  case entry => rw [State.sub?_freeRec, if_pos rfl, he]; rfl
  case others => rw [State.sub?_freeRec, if_neg hn]

/-! ### The start of a recovery series (R31, R38) -/

theorem State.recoverAll_of_sub {s : State} {n : Nat} {e : Entry} (h : s.sub? n = some e) :
    s.recoverAll n = e.held.foldl State.recoverRec s := by
  unfold State.recoverAll
  rw [h]

/-- Settles O23: HELD RELEASE, and the start of one series. -/
theorem recoverySeriesStarts : Obligations.RecoverySeriesStarts := by
  unfold Obligations.RecoverySeriesStarts
  refine ⟨fun s l rest n e hl hc => ?release, fun s r e hr he => ?start⟩
  case release =>
    obtain ⟨-, hsub⟩ := namedEntry_eq_ok hc
    rw [exec_heldRelease_of_heads hl, hc, carry_ok]
    unfold applyHeldRelease
    rw [State.recoverAll_of_sub hsub]
    rfl
  case start =>
    intro t
    obtain ⟨hhlc, -, haclk, htxi, -, hrmat, hrate, hacct, -, -, -⟩ := s.recoverRec_frame r.id
    have ht : t = ((s.unholdRec r).putRec r.recovered).fileRec r.recovered := State.recoverRec_of_some hr
    have hq : ∀ w, ((s.unholdRec r).putRec r.recovered).queue w = s.queue w := s.queue_unholdRec_putRec r r.recovered
    have hsub : ((s.unholdRec r).putRec r.recovered).sub? r.recovered.sub =
        some { e with held := e.held.filter (fun m => m != r.id) } := by
      rw [State.sub?_putRec]
      refine (s.sub?_modSub _ _ _).trans ((if_pos rfl).trans ?_)
      rw [he]
      rfl
    obtain ⟨hperm, hother⟩ := State.queue_fileRec _ hsub
    have hput := State.putIn_fileRec hsub
    simp only [hq] at hperm hother hput
    refine ⟨?_, ?_, ?_, ?_, fun w hw => ?_, fun m hm => ?_, fun m hm => ?_, hhlc, hacct, hrmat, haclk, htxi, hrate⟩
    · rw [State.rec?_recoverRec_of_some r.id hr, if_pos rfl]
      rfl
    · rw [State.sub?_recoverRec hr, if_pos rfl, he]
      rfl
    · rw [ht]
      exact hperm
    · rw [ht]
      exact State.putIn_congr (State.rec?_fileRec _ _) hput
    · rw [ht]
      exact hother w hw
    · rw [ht, State.rec?_fileRec, State.rec?_putRec_other _ r.recovered hm]
      exact State.rec?_congr (by simp) m
    · rw [State.sub?_recoverRec hr, if_neg hm]

end Sys2Proof.Machine
end

section
/-! The withdrawal of an image (O25). -/

namespace Sys2Proof.Machine

/-! ### A record written and filed (R69, R70) -/

/-- A record changed and filed in its home window's queue: the other records and the other queues stand. -/
theorem State.refiled {u : State} {q : PageRec} {e : Entry} (he : u.sub? q.sub = some e) :
    let t := (u.putRec q).fileRec q
    t.rec? q.id = some q ∧ (t.queue e.home).Perm (q.id :: u.queue e.home) ∧
      t.PutIn PageRec.QueueAhead q (u.queue e.home) (t.queue e.home) ∧ (∀ n, t.sub? n = u.sub? n) ∧
      (∀ m : MsgId, m.slot ≠ q.id.slot → t.rec? m = u.rec? m) ∧ ∀ w : Window, w ≠ e.home → t.queue w = u.queue w := by
  intro t
  have he' : (u.putRec q).sub? q.sub = some e := he
  obtain ⟨hperm, hother⟩ := State.queue_fileRec _ he'
  refine ⟨?_, hperm, State.putIn_congr (State.rec?_fileRec _ _) (State.putIn_fileRec he'), State.sub?_fileRec _ _,
    fun m hm => ?_, hother⟩
  · rw [State.rec?_fileRec, State.rec?_putRec_self]
  · rw [State.rec?_fileRec, State.rec?_putRec_other _ _ hm]

/-- A record changed and freed: the other records, entries and queues stand. -/
theorem State.putRec_freeRec (s : State) (q : PageRec) (o : PageOutcome) :
    let t := (s.putRec q).freeRec q o
    t.rec? q.id = none ∧ (∀ m : MsgId, m.slot ≠ q.id.slot → t.rec? m = s.rec? m) ∧
      (∀ n, t.sub? n = if n = q.sub then (s.sub? q.sub).map (fun e => e.without q) else s.sub? n) ∧
      ∀ e, s.sub? q.sub = some e → ∀ w : Window, w ≠ e.home → t.queue w = s.queue w := by
  refine ⟨State.rec?_freeRec_self _ q o, fun m hm => ?_, State.sub?_freeRec (s.putRec q) q o, fun e he w hw => ?_⟩
  · rw [State.rec?_freeRec_other _ q o hm, State.rec?_putRec_other _ q hm]
  · rw [State.queue_freeRec (s.putRec q) q o he, if_neg fun h => hw h.2, State.queue_putRec]

/-! ### One record leaves a withdrawn image (R63) -/

section
variable {s : State} {r : PageRec}

theorem State.withdrawRec_elsewhere (hr : s.rec? r.id = some r) (hp : r.state ≠ .placed) (hd : r.state ≠ .delivered) :
    s.withdrawRec r.id = s := by
  unfold State.withdrawRec
  rw [hr]
  cases hst : r.state with
  | placed => exact absurd hst hp
  | delivered => exact absurd hst hd
  | _ => simp only [hst]

/-- What one record's leaving does not reach. -/
theorem State.withdrawRec_others {e : Entry} (hr : s.rec? r.id = some r) (he : s.sub? r.sub = some e) :
    let t := s.withdrawRec r.id
    (∀ m : MsgId, m.slot ≠ r.id.slot → t.rec? m = s.rec? m) ∧ (∀ n, n ≠ r.sub → t.sub? n = s.sub? n) ∧
      ∀ w : Window, w ≠ e.home → t.queue w = s.queue w := by
  intro t
  by_cases hp : r.state = .placed
  · by_cases hc : r.count = 0
    · have ht : t = _ := State.withdrawRec_first hr hp hc
      have hsub : (s.releaseTagOf r).sub? r.sub = some (e.untagged r.tag) := by
        rw [State.sub?_releaseTagOf_untagged he, if_pos rfl]
      obtain ⟨-, -, -, hsubs, hrecs, hqueues⟩ :=
        State.refiled (q := { r with state := .queued, placement := none, tag := none }) hsub
      rw [ht]
      refine ⟨fun m hm => (hrecs m hm).trans (State.rec?_congr (by simp) m), fun n hn => (hsubs n).trans ?_,
        fun w hw => (hqueues w hw).trans (State.queue_congr (by simp) w)⟩
      rw [State.sub?_releaseTagOf, if_neg hn]
    · have ht : t = _ := State.withdrawRec_later hr hp hc
      obtain ⟨-, -, -, hsubs, hrecs, hqueues⟩ :=
        State.refiled (q := { r with state := .retryWait, placement := none, skip := 0 }) he
      rw [ht]
      exact ⟨hrecs, fun n _ => hsubs n, hqueues⟩
  · by_cases hd : r.state = .delivered
    · have ht : t = _ := State.withdrawRec_delivered hr hd
      rw [ht]
      split
      · obtain ⟨-, hrecs, hsubs, hqueues⟩ :=
          s.putRec_freeRec { r with late := false, placement := none } .deliveredDone
        exact ⟨hrecs, fun n hn => (hsubs n).trans (if_neg hn), hqueues e he⟩
      · exact ⟨fun m hm => State.rec?_putRec_other _ { r with late := false, placement := none } hm, fun n _ => rfl, fun w _ => rfl⟩
    · have ht : t = s := State.withdrawRec_elsewhere hr hp hd
      rw [ht]
      exact ⟨fun _ _ => rfl, fun _ _ => rfl, fun _ _ => rfl⟩

end

/-! ### The image (R63, R102) -/

theorem State.withdrawImage_of_build {s : State} {b : Build} (h : s.wsch.build = some b) :
    let left := b.image.order.foldl State.withdrawRec s
    s.withdrawImage = { left with
      wsch := { left.wsch with build := none }
      txi := Vector.ofFn (fun z : Zone => s.txi[z].withdrawn z b.image.round b.image.window)
      acct := { s.acct with
        airReserved := if s.office.journalMode = .hold then s.acct.airReserved - b.image.order.length
          else s.acct.airReserved } } := by
  intro left
  obtain ⟨-, -, htxi, -, -, hacct, hoffice, -, -⟩ := s.foldl_withdrawRec_frame b.image.order
  unfold State.withdrawImage
  rw [h]
  have hheld : (if s.office.journalMode = .hold then s.acct.airReserved - b.image.order.length
      else s.acct.airReserved) = s.acct.airReserved -
        (match left.office.journalMode with | .hold => b.image.order.length | .overwrite => 0) := by
    rw [hoffice]
    cases s.office.journalMode <;> rfl
  rw [hheld]
  simp only [htxi, hacct]
  rfl

theorem ZoneCell.withdrawn_of_next {c : ZoneCell} {o : OrderInfo} (h : c.next = some o) {z : Zone} {r : Round} {w : Window}
    (hr : o.round = r) (hw : o.window = w) :
    c.withdrawn z r w = { c with
      next := none, withdraws := min (c.withdraws + 1) 65535, sent := c.sent ++ [.withdraw z r w] } := by
  unfold ZoneCell.withdrawn
  rw [h]
  exact if_pos ⟨hr, hw⟩

theorem ZoneCell.withdrawn_of_other {c : ZoneCell} {z : Zone} {r : Round} {w : Window}
    (h : ∀ o, c.next = some o → o.round ≠ r ∨ o.window ≠ w) : c.withdrawn z r w = c := by
  unfold ZoneCell.withdrawn
  cases hn : c.next with
  | none => rfl
  | some o => exact if_neg fun ⟨hr, hw⟩ => (h o hn).elim (fun h => h hr) fun h => h hw

/-- Settles O25: the image as a whole, and one record by its state. -/
theorem imageWithdrawn : Obligations.ImageWithdrawn := by
  unfold Obligations.ImageWithdrawn
  refine ⟨fun s b hb => ?image, fun s r e hr he => ?record⟩
  case image =>
    intro t left
    have ht : t = _ := State.withdrawImage_of_build hb
    obtain ⟨hbuild, hair⟩ := s.withdrawImage_images
    obtain ⟨hplans, haclk, hrxi, hrate, hoffice, -, -⟩ := s.withdrawImage_frame
    have hcell : ∀ z : Zone, t.txi[z] = s.txi[z].withdrawn z b.image.round b.image.window := fun z => by
      rw [ht]
      exact Vector.getElem_ofFn _
    refine ⟨by rw [ht], hbuild, hair, by rw [ht], fun z o ho hr hw => ?_, fun z h => ?_, haclk, hplans, hrate, hrxi, hoffice⟩
    · rw [hcell, ZoneCell.withdrawn_of_next ho hr hw]
    · rw [hcell, ZoneCell.withdrawn_of_other h]
  case record =>
    intro t
    refine ⟨fun hp hc => ?_, fun hp hc => ?_, fun hd hf => ?_, fun hd hf => ?_, State.withdrawRec_others hr he⟩
    · have ht : t = _ := State.withdrawRec_first hr hp hc
      have hsub : (s.releaseTagOf r).sub? r.sub = some (e.untagged r.tag) := by
        rw [State.sub?_releaseTagOf_untagged he, if_pos rfl]
      obtain ⟨hrec, hperm, hput, hsubs, -, -⟩ :=
        State.refiled (q := { r with state := .queued, placement := none, tag := none }) hsub
      have hqueue : ∀ w, (s.releaseTagOf r).queue w = s.queue w := State.queue_congr (by simp)
      simp only [hqueue] at hperm hput
      rw [ht]
      exact ⟨hrec, hperm, hput, (hsubs r.sub).trans hsub, by simp, by simp, by simp⟩
    · have ht : t = _ := State.withdrawRec_later hr hp hc
      obtain ⟨hrec, hperm, hput, -, -, -⟩ :=
        State.refiled (q := { r with state := .retryWait, placement := none, skip := 0 }) he
      rw [ht]
      exact ⟨hrec, hperm, hput, by simp, by simp, by simp, by simp⟩
    · have ht : t = _ := State.withdrawRec_delivered hr hd
      rw [ht, if_neg (by rw [hf]; exact Bool.false_ne_true)]
      exact ⟨State.rec?_putRec_self s { r with late := false, placement := none }, rfl, rfl, rfl, rfl, rfl⟩
    · intro d
      have ht : t = (s.putRec d).freeRec d .deliveredDone := (State.withdrawRec_delivered hr hd).trans (if_pos hf)
      rw [ht]
      exact ⟨rfl, State.rec?_freeRec_self _ d _, State.flag_freeRec _ d .deliveredDone, by simp⟩

end Sys2Proof.Machine
end

section
/-! The window-start event and the round-start event (O27). -/

namespace Sys2Proof.Machine

variable (s : State)

/-! ### What falls due for RATE (R131) -/

/-- The state once a pending table that is due has been applied. -/
def State.tariffTaken : State :=
  match s.rate.pending with
  | some (t, .next) => s.applyTariff t
  | some (t, .atRound r) => if r = s.aclk.round then s.applyTariff t else s
  | none => s

theorem State.tariffTaken_band :
    s.tariffTaken.rate.band = s.rate.band ∧ s.tariffTaken.rate.nextBand = s.rate.nextBand := by
  unfold State.tariffTaken
  (repeat' split) <;> exact ⟨rfl, rfl⟩

theorem State.rateRoundStart_eq :
    s.rateRoundStart = { s.tariffTaken with rate := { s.tariffTaken.rate with
      band := s.rate.nextBand.getD s.rate.band, nextBand := none } } := by
  obtain ⟨hband, hnext⟩ := s.tariffTaken_band
  have hdef : s.rateRoundStart = match s.tariffTaken.rate.nextBand with
      | some b => { s.tariffTaken with rate := { s.tariffTaken.rate with band := b, nextBand := none } }
      | none => s.tariffTaken := rfl
  rw [hdef, ← hband, ← hnext]
  cases h : s.tariffTaken.rate.nextBand with
  | some b => rfl
  | none =>
    show s.tariffTaken = { s.tariffTaken with rate := { s.tariffTaken.rate with nextBand := none } }
    rw [← h]

theorem State.tariffTaken_due {t : Tariff} {c : Activation} (hp : s.rate.pending = some (t, c))
    (hc : c = .next ∨ c = .atRound s.aclk.round) : s.tariffTaken = s.applyTariff t := by
  unfold State.tariffTaken
  rw [hp]
  obtain rfl | rfl := hc
  · rfl
  · exact if_pos rfl

theorem State.tariffTaken_none (hp : s.rate.pending = none) : s.tariffTaken = s := by
  unfold State.tariffTaken
  rw [hp]

theorem State.tariffTaken_later {t : Tariff} {r : Round} (hp : s.rate.pending = some (t, .atRound r))
    (hr : r ≠ s.aclk.round) : s.tariffTaken = s := by
  unfold State.tariffTaken
  rw [hp]
  exact if_neg hr

/-! ### The round-start event (R6, R57, R121, R122) -/

theorem State.rec?_mapRecs {f : PageRec → PageRec} (hf : ∀ r, (f r).id = r.id) (m : MsgId) :
    (s.mapRecs f).rec? m = (s.rec? m).map f := by
  have hget : (s.mapRecs f).store.records.get? m.slot = (s.store.records.get? m.slot).map f := Table.get?_mapValues _ _ _
  rw [State.rec?_eq, State.rec?_eq, hget]
  cases s.store.records.get? m.slot with
  | none => rfl
  | some r =>
    simp only [Option.map_some, hf]
    split <;> rfl

theorem PageRec.roundLowered_id (l : List MsgId) (r : PageRec) : (r.roundLowered l).id = r.id := by
  unfold PageRec.roundLowered
  (repeat' split) <;> rfl

theorem State.rec?_roundStart (m : MsgId) :
    s.roundStart.rec? m = (s.rec? m).map (PageRec.roundLowered s.rmat.awaiting) := by
  have hrmat : s.rateRoundStart.rmat = s.rmat := by simp
  have hstore : s.rateRoundStart.store = s.store := by simp
  unfold State.roundStart
  simp only [hrmat]
  rw [State.rec?_mapRecs _ (PageRec.roundLowered_id _)]
  exact congrArg _ (State.rec?_congr (congrArg Store.records hstore) m)

theorem State.sub?_roundStart (n : Nat) : s.roundStart.sub? n = (s.sub? n).map Entry.aged := by
  have hround : s.roundStart.subs = s.subs.mapValues Entry.aged := by simp [State.roundStart]
  unfold State.sub?
  rw [hround]
  exact Table.get?_mapValues _ _ _

theorem State.roundStart_rate : s.roundStart.rate = { s.tariffTaken.rate with
    band := s.rate.nextBand.getD s.rate.band, nextBand := none } := by
  have h : s.roundStart.rate = s.rateRoundStart.rate := by simp [State.roundStart]
  rw [h, State.rateRoundStart_eq]

theorem State.roundStart_hlc : s.roundStart.hlc = s.tariffTaken.hlc := by
  have h : s.roundStart.hlc = s.rateRoundStart.hlc := by simp [State.roundStart]
  rw [h, State.rateRoundStart_eq]

section
variable (l : List MsgId) {r : PageRec}

theorem PageRec.roundLowered_held (h : r.state = .held) :
    r.roundLowered l = { r with holdWait := r.holdWait.map Countdown.lower } := by simp only [PageRec.roundLowered, h]

theorem PageRec.roundLowered_delivered (h : r.state = .delivered) (hm : r.id ∈ l) :
    r.roundLowered l = { r with readWait := r.readWait.map Countdown.lower } := by
  simp only [PageRec.roundLowered, h, if_pos hm]

theorem PageRec.roundLowered_other (hh : r.state ≠ .held) (hd : r.state ≠ .delivered ∨ r.id ∉ l) :
    r.roundLowered l = r := by
  cases hst : r.state with
  | held => exact absurd hst hh
  | delivered =>
    have hm : r.id ∉ l := hd.resolve_left fun h => h hst
    simp only [PageRec.roundLowered, hst, if_neg hm]
  | _ => simp only [PageRec.roundLowered, hst]

end

/-! ### The window-start event (R57, R84, R95) -/

/-- The window-start event behind the round-start event. -/
def State.windowBegun : State :=
  let u := s.mapRecs PageRec.windowLowered
  let u := { u with wsch := u.wsch.putOnAir, txi := u.txi.map ZoneCell.shifted }
  let next := windowAfter u.aclk.round u.aclk.window
  u.beginBuild next.1 next.2

theorem State.windowStart_eq :
    s.windowStart =
      (if s.aclk.window = 0 then ({ s with aclk := { s.aclk with holding := .none_ } } : State).roundStart
        else { s with aclk := { s.aclk with holding := .none_ } }).windowBegun := rfl

theorem State.windowBegun_eq {b : Build} (hb : s.wsch.build = some b) :
    s.windowBegun = { s with
      store := { s.store with records := s.store.records.mapValues PageRec.windowLowered }
      wsch := { s.wsch with
        onAir := some { image := b.image, toAir := b.image.order }
        build := some
          { image :=
              { round := if s.aclk.window = 31 then s.aclk.round + 1 else s.aclk.round, window := s.aclk.window + 1
                layout := if s.aclk.detector = .locked then .locked else .degraded
                view := s.txi.map ZoneCell.settings, pages := Vector.replicate 8 [], order := [] }
            reached := none, closed := false, ended := false } }
      txi := s.txi.map (fun z => { z with current := z.next, next := none }) } := by
  have hshift : (s.txi.map ZoneCell.shifted).map ZoneCell.settings = s.txi.map ZoneCell.settings := by
    rw [Vector.map_map]
    rfl
  rw [← Detector.layout_eq, ← hshift]
  unfold State.windowBegun State.beginBuild Wsch.putOnAir
  simp only [State.mapRecs_frame, hb, windowAfter_eq]
  rfl

/-- Settles O27: the event of a window, and the work of a round-start event. -/
theorem windowStartEvent : Obligations.WindowStartEvent := by
  unfold Obligations.WindowStartEvent
  refine ⟨fun s b hb => ?window, fun s => ?round⟩
  case window =>
    intro u
    have hu : u.wsch = s.wsch ∧ u.txi = s.txi ∧ u.aclk = { s.aclk with holding := .none_ } := by
      show (if _ then _ else _ : State).wsch = _ ∧ (if _ then _ else _ : State).txi = _ ∧ (if _ then _ else _ : State).aclk = _
      split <;> simp
    obtain ⟨hwsch, htxi, haclk⟩ := hu
    have hb' : u.wsch.build = some b := by rw [hwsch, hb]
    have hstart : s.windowStart = u.windowBegun := s.windowStart_eq
    rw [hstart, State.windowBegun_eq u hb', hwsch, htxi, haclk]
    rfl
  case round =>
    intro t
    obtain ⟨hplans, haclk, hwsch, htxi, -, hrmat, hacct, -, -, -⟩ := s.roundStart_frame
    refine ⟨s.sub?_roundStart, fun m r hr hst => ?_, fun m r hr hst hm => ?_, fun m r hr hh hd => ?_,
      fun tbl c hp hc => ?_, fun hp => ?_, fun tbl r hp hne => ?_, ?_, ?_, hplans, hacct, htxi, hwsch, hrmat, haclk⟩
    · rw [State.rec?_roundStart, hr, Option.map_some, PageRec.roundLowered_held _ hst]
    · rw [State.rec?_roundStart, hr, Option.map_some, PageRec.roundLowered_delivered _ hst hm]
    · rw [State.rec?_roundStart, hr, Option.map_some, PageRec.roundLowered_other _ hh hd]
    · rw [State.roundStart_rate, State.roundStart_hlc, s.tariffTaken_due hp hc]
      exact ⟨rfl, rfl, rfl, rfl⟩
    · rw [State.roundStart_rate, State.roundStart_hlc, s.tariffTaken_none hp]
      exact ⟨rfl, rfl, hp, rfl⟩
    · rw [State.roundStart_rate, State.roundStart_hlc, s.tariffTaken_later hp hne]
      exact ⟨rfl, rfl, rfl, rfl⟩
    · rw [State.roundStart_rate]
    · rw [State.roundStart_rate]

end Sys2Proof.Machine
end

section
/-! Postings as their uses need them: what a charge or a credit leaves of the entry and the journal. Steps 1 to 5 of an
airing (O40). -/

namespace Sys2Proof.Machine

/-! ### What a posting leaves (R148, R152) -/

/-- The money fields after a charge of `a`, applied for `applied`. -/
structure Money.ChargedTo (m : Money) (a applied : Nat) (m' : Money) : Prop where
  balance : m'.balance = m.balance - applied
  reserved : m'.reserved = m.reserved
  pages : m'.periodPages = m.periodPages
  charges : m'.periodCharges = if a = 0 then m.periodCharges else min (m.periodCharges + applied) 2147483647
  floor : m'.floor = m.floor
  low : m'.low = m.low
  usage : m'.usage = m.usage
  unchanged : a = 0 → m'.credit = m.credit ∧ m'.lowArmed = m.lowArmed ∧ m'.usageArmed = m.usageArmed

/-- A charge posted: the entry with its money fields, all else but the host line as it was, and the record given to the
journal. -/
theorem State.postCharge_posted {s : State} {n : Nat} {e : Entry} (he : s.sub? n = some e) (a : Nat) {j : JournalRec}
    (hj : j.clamped = false) :
    let applied := min a (e.money.balance - e.money.floor).toNat
    ∃ (u : State) (m : Money), s.postCharge n a j = u.journal { j with
        amount := a, short := a - applied, balance := e.money.balance - applied, clamped := decide (applied < a) } ∧
      e.money.ChargedTo a applied m ∧ u.sub? n = some { e with money := m } ∧ (∀ k, k ≠ n → u.sub? k = s.sub? k) ∧
      { u with subs := s.subs, hlc := s.hlc } = s := by
  intro applied
  obtain ⟨hcharge, hzero, -⟩ := postingsApplied
  rcases Nat.eq_zero_or_pos a with rfl | ha
  · refine ⟨s, e.money, ?_, ⟨?_, rfl, rfl, rfl, rfl, rfl, rfl, fun _ => ⟨rfl, rfl, rfl⟩⟩, he, fun _ _ => rfl, rfl⟩
    · rw [hzero s n j e he]
      have h0 : applied = 0 := Nat.zero_min _
      obtain ⟨⟩ := j
      cases hj
      simp [h0]
    · simp [applied]
  · obtain ⟨u, hu, hsub, hothers, hrest, -⟩ := hcharge s n a j e he ha
    refine ⟨u, _, hu, ?_, hsub, hothers, hrest⟩
    exact ⟨rfl, rfl, rfl, (if_neg (Nat.ne_of_gt ha)).symm, rfl, rfl, rfl, fun h0 => absurd h0 (Nat.ne_of_gt ha)⟩

/-- A record that is written stands at the tail of the ring under the next sequence number. -/
theorem State.journal_acct {s : State} {j : JournalRec}
    (h : j.kind = .air ∨ s.office.journalMode = .overwrite ∨ s.acct.openEntries ≠ 0) :
    (s.journal j).acct.ring.getLast? = some { j with seq := s.acct.nextSeq } ∧
      (s.journal j).acct.nextSeq = s.acct.nextSeq + 1 ∧ (s.journal j).acct.airReserved = s.acct.airReserved ∧
      (s.journal j).acct.lost = s.acct.lost := by
  obtain ⟨hring, hseq, hair, hlost, -⟩ := s.writeRec_acct j
  rw [State.journal_written h]
  exact ⟨hring, hseq, hair, hlost⟩

/-- A record that is lost is counted, and raises JOURNAL_LOST. -/
theorem State.journal_acct_lost {s : State} {j : JournalRec} (hk : j.kind ≠ .air) (hm : s.office.journalMode = .hold)
    (ho : s.acct.openEntries = 0) :
    (s.journal j).acct = { s.acct with lost := min (s.acct.lost + 1) 65535 } ∧
      (s.journal j).hlc.flags[NoticeKind.journalLost.index] = true := by
  rw [State.journal_lost hk hm ho]
  exact ⟨rfl, State.flag_raise_self _ _ _⟩

/-! ### Steps 1 to 5 of an airing (R85) -/

section
variable (s : State) (im : Image) (r : PageRec) (e : Entry)

/-- The class of the airing of a record. -/
def PageRec.airingClass : AttemptClass := attemptClass r.series e.kind (r.count + 1)

/-- What the airing of a record costs. -/
def State.airingOf : AiringPrice := s.airingPrice r e (r.airingClass e) (r.lastZones.getD []).length

/-- The AIR reservation released and the amount of an airing posted. -/
def State.airCharged : State :=
  s.releaseAir.postCharge r.sub (s.airingOf r e).amount (airRec s im r (r.airingClass e) (s.airingOf r e).waived)

theorem State.releaseAir_eq :
    s.releaseAir = { s with acct := { s.acct with
      airReserved := if s.office.journalMode = .hold then s.acct.airReserved - 1 else s.acct.airReserved } } := by
  unfold State.releaseAir
  cases s.office.journalMode <;> rfl

theorem State.airPost_record :
    (s.airPost im r e).2 =
      { r with
        count := r.count + 1
        posted := r.posted + min (s.airingOf r e).amount (e.money.balance - e.money.floor).toNat
        reservation := if r.airingClass e = .first then none else r.reservation
        firstCharge := if r.airingClass e = .first then some (s.airingOf r e).amount else r.firstCharge } := by
  have happlied : (if (s.airingOf r e).amount = 0 then 0 else e.money.chargeApplied (s.airingOf r e).amount) =
      min (s.airingOf r e).amount (e.money.balance - e.money.floor).toNat := by
    split
    · next h0 => rw [h0, Nat.zero_min]
    · rfl
  rw [← happlied]
  by_cases hc : r.airingClass e = .first
  · rw [if_pos hc, if_pos hc]
    exact congrArg Prod.snd (if_pos hc)
  · rw [if_neg hc, if_neg hc]
    exact congrArg Prod.snd (if_neg hc)

theorem State.airPost_state :
    (s.airPost im r e).1 =
      if r.airingClass e = .first then
        ((s.airCharged im r e).modMoney r.sub fun m =>
          { m with periodPages := riseTo Config.counterTop m.periodPages }).releaseReservation r
      else s.airCharged im r e := by
  by_cases hc : r.airingClass e = .first
  · rw [if_pos hc]
    refine (congrArg Prod.fst (if_pos hc)).trans ?_
    show ((s.airCharged im r e).countPage r.sub (r.airingClass e)).releaseReservation _ = _
    rw [State.countPage, if_pos hc]
    rfl
  · rw [if_neg hc]
    refine (congrArg Prod.fst (if_neg hc)).trans ?_
    show (s.airCharged im r e).countPage r.sub (r.airingClass e) = _
    rw [State.countPage, if_neg hc]

/-- Changing an entry changes the entries alone. -/
theorem State.modSub_rest (n : Nat) (f : Entry → Entry) : s.modSub n f = { s with subs := (s.modSub n f).subs } := by
  unfold State.modSub
  split <;> rfl

theorem State.releaseReservation_rest : s.releaseReservation r = { s with subs := (s.releaseReservation r).subs } := by
  unfold State.releaseReservation
  split
  · exact s.modSub_rest _ _
  · rfl

theorem State.airPost_rest : (s.airPost im r e).1 = { s.airCharged im r e with subs := (s.airPost im r e).1.subs } := by
  rw [State.airPost_state]
  split
  · refine (State.releaseReservation_rest _ r).trans ?_
    rw [State.modMoney, State.modSub_rest]
  · rfl

/-- A FIRST airing counts a page and releases the reservation. -/
def Money.firstAired (m : Money) (r : PageRec) : Money :=
  { m with reserved := m.reserved - r.reservation.getD 0, periodPages := min (m.periodPages + 1) 65535 }

theorem State.sub?_airPost (n : Nat) :
    (s.airPost im r e).1.sub? n =
      if n = r.sub then ((s.airCharged im r e).sub? r.sub).map (fun x =>
        { x with money := if r.airingClass e = .first then x.money.firstAired r else x.money })
      else (s.airCharged im r e).sub? n := by
  rw [State.airPost_state]
  by_cases hc : r.airingClass e = .first
  · simp only [if_pos hc, State.sub?_releaseReservation, State.sub?_modMoney]
    by_cases hn : n = r.sub
    · simp only [if_pos hn, if_true, Option.map_map]
      rfl
    · simp only [if_neg hn]
  · simp only [if_neg hc]
    by_cases hn : n = r.sub
    · rw [if_pos hn, hn]
      exact Option.map_id'.symm
    · rw [if_neg hn]

end

/-- Settles O40: the record, the entry, the posting and the AIR record. -/
theorem airingPosts : Obligations.AiringPosts := by
  unfold Obligations.AiringPosts
  intro s im r e he cls price applied t
  have he' : s.releaseAir.sub? r.sub = some e := (State.sub?_congr (by simp) _).trans he
  obtain ⟨u, m, hu, hm, hsub, hothers, hrest⟩ :=
    State.postCharge_posted he' price.amount (j := airRec s im r cls price.waived) rfl
  have ht : t = { s.airCharged im r e with subs := t.subs } := s.airPost_rest im r e
  have hcharged : s.airCharged im r e = u.journal _ := hu
  have hacct : t.acct = (s.airCharged im r e).acct := by rw [ht]
  have huacct : u.acct = s.releaseAir.acct := by rw [← hrest]
  have hentry : ∀ k, (s.airCharged im r e).sub? k = u.sub? k := fun k => by
    rw [hcharged]
    exact State.sub?_congr (by simp) k
  have hafter : t.sub? r.sub = some { e with money := if cls = .first then m.firstAired r else m } := by
    refine (s.sub?_airPost im r e r.sub).trans ?_
    rw [if_pos rfl, hentry, hsub]
    rfl
  obtain ⟨hplans, hstore, haclk, hwsch, htxi, hrxi, hrmat, hrate, hoffice, -, -⟩ := s.airPost_frame im r e
  obtain ⟨hlast, hseq, hair, -⟩ := State.journal_acct (s := u)
    (j := { airRec s im r cls price.waived with
      amount := price.amount, short := price.amount - applied, balance := e.money.balance - applied
      clamped := decide (applied < price.amount) }) (.inl rfl)
  have hclamp : decide (0 < price.amount - applied) = decide (applied < price.amount) := decide_eq_decide.mpr (by omega)
  have htaken : s.releaseAir.acct = { s.acct with
      airReserved := if s.office.journalMode = .hold then s.acct.airReserved - 1 else s.acct.airReserved } := by
    rw [s.releaseAir_eq]
  refine ⟨s.airPost_record im r e, ⟨_, hafter, ?balance, ?reserved, ?pages, ?charges, ?floor, ?low, ?usage,
    fun h0 => ?unchanged, rfl⟩, ?posted, fun k hk => ?others, ⟨_, ?ring, rfl⟩, ?seq, ?air, hstore, hplans, haclk, hwsch, htxi,
    hrxi, hrmat, hrate, hoffice⟩
  case balance => split <;> exact hm.balance
  case reserved =>
    split
    · exact congrArg (· - r.reservation.getD 0) hm.reserved
    · exact hm.reserved
  case pages =>
    split
    · exact congrArg (fun pages => min (pages + 1) 65535) hm.pages
    · exact hm.pages
  case charges => split <;> exact hm.charges
  case floor => split <;> exact hm.floor
  case low => split <;> exact hm.low
  case usage => split <;> exact hm.usage
  case unchanged => split <;> exact hm.unchanged h0
  case posted =>
    intro taken posted
    have hposted : posted = s.airCharged im r e := by
      show State.postCharge _ _ _ _ = State.postCharge _ _ _ _
      rw [s.releaseAir_eq]
      rfl
    refine ⟨by rw [hposted]; exact ht, _, _, (by rw [hposted, hentry]; exact hsub), hafter, ?_⟩
    split <;> exact ⟨rfl, rfl, rfl⟩
  case others =>
    refine (s.sub?_airPost im r e k).trans ?_
    rw [if_neg hk, hentry, hothers k hk]
    exact State.sub?_congr (by simp) k
  case ring =>
    rw [hacct, hcharged, hlast, huacct, htaken, hclamp]
    rfl
  case seq => rw [hacct, hcharged, hseq, huacct, htaken]
  case air => rw [hacct, hcharged, hair, huacct, htaken]

end Sys2Proof.Machine
end

section
/-! Where an aired record goes (O41). -/

namespace Sys2Proof.Machine

/-! ### The record (R86 to R88) -/

/-- A record freed outside the window queues leaves the queues as they are. -/
theorem State.freeRec_queues (s : State) {r : PageRec} (o : PageOutcome) (hq : r.state ≠ .queued)
    (hw : r.state ≠ .retryWait) : (s.freeRec r o).wsch.queues = s.wsch.queues := by
  have hleave : ((s.raise o.kind (o.fields r)).leavePlace r).wsch = s.wsch := by
    unfold State.leavePlace
    cases hst : r.state with
    | queued => exact absurd hst hq
    | retryWait => exact absurd hst hw
    | _ => simp
  rw [State.freeRec_eq, (State.judgeCongestion_frame _).2.2.2.1, State.freed_wsch, hleave]

section
variable (s : State) {r : PageRec} {e : Entry}

theorem State.airMove_delivered (hd : r.state = .delivered) (hf : r.freeAfterAiring = false) :
    s.airMove r e = (s.putRec { r with placement := none }).joinAwaiting r.id := by
  simp [State.airMove, hd, hf]

theorem State.airMove_done (hd : r.state = .delivered) (hf : r.freeAfterAiring = true) :
    s.airMove r e = (s.putRec { r with placement := none }).freeRec { r with placement := none } .deliveredDone := by
  simp [State.airMove, hd, hf]

theorem State.airMove_twoWay (hd : r.state ≠ .delivered) (hk : e.kind = .twoWay) :
    s.airMove r e =
      (s.putRec { r with
        placement := none, state := .awaiting
        replyWait := some { left := s.office.replyWait, due := false } }).joinAwaiting r.id := by
  unfold State.airMove
  cases hst : r.state with
  | delivered => exact absurd hst hd
  | _ => simp only [hk]

theorem State.airMove_repeats (hd : r.state ≠ .delivered) (hk : e.kind = .oneWay) (hl : r.count < r.limit) :
    s.airMove r e =
      (s.putRec { r with placement := none, state := .retryWait, skip := 0 }).fileRec
        { r with placement := none, state := .retryWait, skip := 0 } := by
  unfold State.airMove
  cases hst : r.state with
  | delivered => exact absurd hst hd
  | _ => simp only [hk, if_pos hl]

theorem State.airMove_sent (hd : r.state ≠ .delivered) (hk : e.kind = .oneWay) (hl : r.limit ≤ r.count) :
    s.airMove r e = (s.putRec { r with placement := none }).freeRec { r with placement := none } .sent := by
  unfold State.airMove
  cases hst : r.state with
  | delivered => exact absurd hst hd
  | _ => simp only [hk, if_neg (Nat.not_lt.mpr hl)]

/-- The other records and the other entries stand. -/
theorem State.airMove_others :
    (∀ m : MsgId, m.slot ≠ r.id.slot → (s.airMove r e).rec? m = s.rec? m) ∧
      ∀ n, n ≠ r.sub → (s.airMove r e).sub? n = s.sub? n := by
  have put : ∀ (q : PageRec) (u : State), q.id = r.id → u.store = (s.putRec q).store → u.subs = s.subs →
      (∀ m : MsgId, m.slot ≠ r.id.slot → u.rec? m = s.rec? m) ∧ ∀ n, n ≠ r.sub → u.sub? n = s.sub? n :=
    fun q u hid hst hsub => ⟨fun m hm => (State.rec?_congr (congrArg Store.records hst) m).trans
      (State.rec?_putRec_other s q (by rw [hid]; exact hm)), fun n _ => State.sub?_congr hsub n⟩
  have freed : ∀ o : PageOutcome,
      (∀ m : MsgId, m.slot ≠ r.id.slot →
        ((s.putRec { r with placement := none }).freeRec { r with placement := none } o).rec? m = s.rec? m) ∧
      ∀ n, n ≠ r.sub →
        ((s.putRec { r with placement := none }).freeRec { r with placement := none } o).sub? n = s.sub? n := fun o => by
    obtain ⟨-, hrecs, hsubs, -⟩ := s.putRec_freeRec { r with placement := none } o
    exact ⟨hrecs, fun n hn => (hsubs n).trans (if_neg hn)⟩
  by_cases hd : r.state = .delivered
  · cases hf : r.freeAfterAiring with
    | false =>
      rw [s.airMove_delivered hd hf]
      exact put { r with placement := none } _ rfl rfl rfl
    | true =>
      rw [s.airMove_done hd hf]
      exact freed _
  · cases hk : e.kind with
    | twoWay =>
      rw [s.airMove_twoWay hd hk]
      exact put { r with
        placement := none, state := .awaiting
        replyWait := some { left := s.office.replyWait, due := false } } _ rfl rfl rfl
    | oneWay =>
      rcases Nat.lt_or_ge r.count r.limit with hl | hl
      · rw [s.airMove_repeats hd hk hl]
        exact put { r with placement := none, state := .retryWait, skip := 0 } _ rfl (by simp) (by simp)
      · rw [s.airMove_sent hd hk hl]
        exact freed _

end

theorem Hlc.settle_flags (h : Hlc) : h.settle.flags = h.flags := h.settle_frame.2.2.2.1

/-! ### The end of an airing (R62, R64, log 18) -/

theorem State.afterAiring_queues (s : State) : s.afterAiring.wsch.queues = s.wsch.queues := by
  unfold State.afterAiring
  (repeat' split) <;> rfl

theorem State.afterAiring_goes_on {s : State} {o : OnAir} (ho : s.wsch.onAir = some o)
    (h : o.toAir ≠ [] ∨ s.aclk.holding = .none_ ∨ s.aclk.holding = .windowStart) : s.afterAiring = s := by
  unfold State.afterAiring
  split
  · rfl
  · next hu =>
    have hair : o.toAir = [] := by
      by_contra hne
      exact hu (s.airingUnderWay_iff.mpr ⟨o, ho, hne⟩)
    rcases h with h | h | h
    · exact absurd hair h
    · rw [h]
    · rw [h]

theorem State.afterAiring_windowEnd {s : State} (hu : s.airingUnderWay = false) (hh : s.aclk.holding = .windowEnd) :
    s.afterAiring = ({ s with aclk := s.aclk.advance } : State).arriveStopped := by
  unfold State.afterAiring
  rw [hu, hh]
  rfl

theorem State.afterAiring_stop {s : State} (hu : s.airingUnderWay = false) (hh : s.aclk.holding = .stop) :
    s.afterAiring = s.arriveStopped := by
  unfold State.afterAiring
  rw [hu, hh]
  rfl

theorem exec_airingRecord_of_onAir {s : State} {im : Image} {m : MsgId} {rest : List MsgId}
    (h : s.wsch.onAir = some { image := im, toAir := m :: rest }) :
    exec .airingRecord s = .next
      (({ s with wsch := { s.wsch with onAir := some { image := im, toAir := rest } } } : State).airOne im
        m).afterAiring.settle := by
  show execAiringRecord s = _
  unfold execAiringRecord
  rw [h]
  rfl

theorem State.airOne_of_rec {s : State} (im : Image) {m : MsgId} {r : PageRec} {e : Entry} (hr : s.rec? m = some r)
    (he : s.sub? r.sub = some e) : s.airOne im m = (s.airPost im r e).1.airMove (s.airPost im r e).2 e := by
  unfold State.airOne
  rw [hr]
  simp only [he]

/-- The place of a record in a queue is by its id, its priority and its age. -/
theorem State.putIn_of_same {s : State} {r q : PageRec} (hid : q.id = r.id) (hpri : q.pri = r.pri) (hseq : q.seq = r.seq)
    {old new : List MsgId} (h : s.PutIn PageRec.QueueAhead q old new) : s.PutIn PageRec.QueueAhead r old new := by
  have hahead : q.QueueAhead = r.QueueAhead := by
    unfold PageRec.QueueAhead
    rw [hpri, hseq]
  unfold State.PutIn at h ⊢
  rw [hid, hahead] at h
  exact h

/-- A record changed in neither its id nor its place and filed, said of the record it was. -/
theorem State.refiled_as {u : State} {q r : PageRec} {e : Entry} (hid : q.id = r.id) (hsub : q.sub = r.sub)
    (hpri : q.pri = r.pri) (hseq : q.seq = r.seq) (he : u.sub? r.sub = some e) :
    let t := (u.putRec q).fileRec q
    t.rec? r.id = some q ∧ (t.queue e.home).Perm (r.id :: u.queue e.home) ∧
      t.PutIn PageRec.QueueAhead r (u.queue e.home) (t.queue e.home) ∧
      (∀ m : MsgId, m.slot ≠ r.id.slot → t.rec? m = u.rec? m) ∧ (∀ w : Window, w ≠ e.home → t.queue w = u.queue w) ∧
      t.hlc = u.hlc ∧ t.subs = u.subs ∧ t.rmat = u.rmat := by
  intro t
  obtain ⟨hrec, hperm, hput, -, hrecs, hqueues⟩ := State.refiled (u := u) (q := q) (e := e) (by rw [hsub]; exact he)
  rw [hid] at hrec hperm hrecs
  exact ⟨hrec, hperm, State.putIn_of_same hid hpri hseq hput, hrecs, hqueues, by simp [t], by simp [t], by simp [t]⟩

/-- Settles O41: the air when an airing goes on or ends, and the five ways of a record. -/
theorem airingMovesOn : Obligations.AiringMovesOn := by
  unfold Obligations.AiringMovesOn
  intro s im r e rest hair hr he u p q
  have hr' : u.rec? r.id = some r := hr
  have he' : u.sub? r.sub = some e := he
  obtain ⟨haired, ⟨e1, he1, -, -, -, -, -, -, -, -, hmoney⟩, -, hentries, -, -, -, hstore, hplans, haclk, hwsch, htxi, hrxi,
    hrmat, hrate, hoffice⟩ := airingPosts u im r e he'
  obtain ⟨hid, hsub, hst, hfree, hlimit, hcount, hpri, hseq⟩ : (u.airPost im r e).2.id = r.id ∧
      (u.airPost im r e).2.sub = r.sub ∧ (u.airPost im r e).2.state = r.state ∧
      (u.airPost im r e).2.freeAfterAiring = r.freeAfterAiring ∧ (u.airPost im r e).2.limit = r.limit ∧
      (u.airPost im r e).2.count = r.count + 1 ∧ (u.airPost im r e).2.pri = r.pri ∧
      (u.airPost im r e).2.seq = r.seq := by
    rw [haired]
    exact ⟨rfl, rfl, rfl, rfl, rfl, rfl, rfl, rfl⟩
  have hhome : e1.home = e.home := by rw [← hmoney]
  have hp1 : p.sub? (u.airPost im r e).2.sub = some e1 := by rw [hsub]; exact he1
  generalize hwdef : p.airMove (u.airPost im r e).2 e = w
  obtain ⟨wplans, waclk, wtxi, wrxi, wrate, wacct, woffice, -, -⟩ := hwdef ▸ p.airMove_frame (u.airPost im r e).2 e
  have wair : w.wsch.onAir = some { image := im, toAir := rest } := by
    rw [← hwdef, (p.airMove_images (u.airPost im r e).2 e).2, hwsch]
  obtain ⟨fhlc, fsubs, fplans, fstore, frxi, frmat, frate, facct, foffice, -, -⟩ := w.afterAiring_frame
  have hexec : exec .airingRecord s = .next w.afterAiring.settle := by
    rw [exec_airingRecord_of_onAir hair, State.airOne_of_rec im hr' he', ← hwdef]
  have hrec : ∀ m, w.afterAiring.settle.rec? m = w.rec? m := State.rec?_congr (congrArg Store.records fstore)
  have hqueue : ∀ v, w.afterAiring.settle.queue v = w.queue v := State.queue_congr w.afterAiring_queues
  have hqs : p.wsch.queues = s.wsch.queues := (congrArg Wsch.queues hwsch :)
  have hpq : ∀ v, p.queue v = s.queue v := State.queue_congr hqs
  have hprec : ∀ m, p.rec? m = s.rec? m := State.rec?_congr (congrArg Store.records hstore)
  obtain ⟨mrecs, msubs⟩ := hwdef ▸ State.airMove_others p (r := (u.airPost im r e).2) (e := e)
  refine ⟨w.afterAiring.settle, hexec, fun h => ?goesOn, fun hnil hh => ?ends, fun hs hk => ?twoWay, fun hs hk hl => ?repeats,
    fun hs hk hl => ?sent, fun hs hf => ?delivered, fun hs hf => ?done, ?acct, fun m hm => ?recs, fun m hm => ?subs, ?plans,
    ?rxi, ?rate, ?office⟩
  case goesOn =>
    rw [State.afterAiring_goes_on wair (by rw [waclk, haclk]; exact h)]
    exact ⟨wair, by rw [State.settle_aclk, waclk, haclk], by rw [State.settle_txi, wtxi, htxi]⟩
  case ends =>
    have hover : w.airingUnderWay = false := State.airingUnderWay_eq_false fun o ho => by
      rw [wair] at ho
      cases ho
      exact hnil
    have hcell : ∀ z : Zone, (w.txi.map fun c => { c with current := none, next := none })[z] =
        { s.txi[z] with current := none, next := none } := fun z => by
      rw [wtxi, htxi]
      exact Vector.getElem_map _ _
    rcases hh with hh | hh
    · rw [State.afterAiring_windowEnd hover (by rw [waclk, haclk]; exact hh), Aclk.advance_eq, waclk, haclk]
      exact ⟨rfl, rfl, rfl, fun h => HeldWork.noConfusion (hh.symm.trans h), fun _ => ⟨rfl, rfl⟩, hcell⟩
    · rw [State.afterAiring_stop hover (by rw [waclk, haclk]; exact hh)]
      refine ⟨rfl, rfl, rfl, fun _ => ?_, fun h => HeldWork.noConfusion (hh.symm.trans h), hcell⟩
      rw [show w.arriveStopped.settle.aclk = { w.aclk with air := .stopped, holding := .none_ } from rfl, waclk, haclk]
      exact ⟨rfl, rfl⟩
  case twoWay =>
    have hw := hwdef.symm.trans (p.airMove_twoWay (by rw [hst, hs]; decide) hk)
    refine ⟨?_, ?_, ?_, ?_, ?_⟩
    · rw [hrec, hw, ← hid, ← show p.office = s.office from hoffice]
      exact State.rec?_putRec_self p _
    · rw [State.settle_rmat, frmat, hw, hid]
      exact congrArg (fun x : Rmat => x.awaiting ++ [r.id]) hrmat
    · rw [State.settle_subs, fsubs, hw]
      rfl
    · rw [State.settle_wsch, w.afterAiring_queues, hw]
      exact hqs
    · rw [State.settle_hlc, fhlc, hw]
      rfl
  case repeats =>
    have hw := hwdef.symm.trans (p.airMove_repeats (by rw [hst, hs]; decide) hk (by rw [hcount, hlimit]; exact hl))
    obtain ⟨hr1, hperm, hput, -, hqueues, hhlc, hsubs, hrm⟩ := State.refiled_as (u := p) (r := r) (e := e1)
      (q := { (u.airPost im r e).2 with placement := none, state := .retryWait, skip := 0 }) hid hsub hpri hseq he1
    rw [← hw] at hr1 hperm hput hqueues hhlc hsubs hrm
    simp only [hhome, hpq] at hperm hput hqueues
    refine ⟨?_, (hrec _).trans hr1, ?_, ?_, ?_, ?_, fun v hv => ?_⟩
    · rw [State.settle_hlc, fhlc, hhlc]
    · rw [State.settle_rmat, frmat, hrm, hrmat]
    · rw [State.settle_subs, fsubs, hsubs]
    · rw [hqueue]
      exact hperm
    · rw [hqueue]
      exact State.putIn_congr hrec hput
    · rw [hqueue, hqueues v hv]
  case sent =>
    have hw := hwdef.symm.trans (p.airMove_sent (by rw [hst, hs]; decide) hk (by rw [hcount, hlimit]; exact hl))
    have hq1 : q.state ≠ .queued := by show (u.airPost im r e).2.state ≠ _; rw [hst, hs]; decide
    have hq2 : q.state ≠ .retryWait := by show (u.airPost im r e).2.state ≠ _; rw [hst, hs]; decide
    refine ⟨?_, ?_, ?_, ?_, ?_, ?_, ?_⟩
    · rw [hrec, hw, ← hid]
      exact State.rec?_freeRec_self _ q _
    · rw [State.settle_hlc, Hlc.settle_flags, fhlc, hw]
      exact State.flag_freeRec _ q .sent
    · rw [State.settle_wsch, w.afterAiring_queues, hw]
      exact (State.freeRec_queues (p.putRec q) (r := q) _ hq1 hq2).trans hqs
    · rw [State.settle_rmat, frmat, hw]
      refine (State.freeRec_rmat (p.putRec q) q .sent).trans ?_
      rw [if_neg (by show ¬ ((u.airPost im r e).2.state = _ ∨ (u.airPost im r e).2.state = _); rw [hst, hs]; decide)]
      exact hrmat
    · rw [State.settle_hlc, fhlc, hw]
    · rw [State.settle_subs, fsubs, hw]
    · rw [State.settle_store, fstore, hw]
  case delivered =>
    have hw := hwdef.symm.trans (p.airMove_delivered (by rw [hst, hs]) (by rw [hfree, hf]))
    refine ⟨?_, ?_, ?_, ?_, ?_⟩
    · rw [hrec, hw, ← hid]
      exact State.rec?_putRec_self p q
    · rw [State.settle_rmat, frmat, hw, hid]
      exact congrArg (fun x : Rmat => x.awaiting ++ [r.id]) hrmat
    · rw [State.settle_subs, fsubs, hw]
      rfl
    · rw [State.settle_wsch, w.afterAiring_queues, hw]
      exact hqs
    · rw [State.settle_hlc, fhlc, hw]
      rfl
  case done =>
    have hw := hwdef.symm.trans (p.airMove_done (by rw [hst, hs]) (by rw [hfree, hf]))
    refine ⟨?_, ?_, ?_, ?_, ?_⟩
    · rw [hrec, hw, ← hid]
      exact State.rec?_freeRec_self _ q _
    · rw [State.settle_hlc, Hlc.settle_flags, fhlc, hw]
      exact State.flag_freeRec _ q .deliveredDone
    · rw [State.settle_hlc, fhlc, hw]
    · rw [State.settle_subs, fsubs, hw]
    · rw [State.settle_store, fstore, hw]
  case acct => rw [State.settle_acct, facct, wacct]
  case recs => rw [hrec, mrecs m (by rw [hid]; exact hm), hprec]
  case subs =>
    refine (State.sub?_congr fsubs m).trans ((msubs m (by rw [hsub]; exact hm)).trans ?_)
    exact (hentries m hm).trans rfl
  case plans => rw [State.settle_plans, fplans, wplans, hplans]
  case rxi => rw [State.settle_rxi, frxi, wrxi, hrxi]
  case rate => rw [State.settle_rate, frate, wrate, hrate]
  case office => rw [State.settle_office, foffice, woffice, hoffice]

end Sys2Proof.Machine
end

section
/-! Waits that run out (O42) and the refund of a miss (O43). -/

namespace Sys2Proof.Machine

/-! ### The record whose wait has run out (R109, R116) -/

/-- The first record of a list of ids for which a test holds. -/
theorem State.find_firstDue {s : State} {due : PageRec → Bool} {r : PageRec} (h : s.FirstDue due r) :
    (s.rmat.awaiting.filterMap s.rec?).find? due = some r := by
  obtain ⟨hr, hdue, before, after, hlist, hbefore⟩ := h
  have hnone : (before.filterMap s.rec?).find? due = none := by
    rw [List.find?_eq_none]
    intro x hx
    obtain ⟨m, hm, hmx⟩ := List.mem_filterMap.mp hx
    rw [hbefore m hm x hmx]
    exact Bool.false_ne_true
  rw [hlist, List.filterMap_append, List.find?_append, hnone, List.filterMap_cons_some hr, List.find?_cons_of_pos hdue]
  rfl

theorem exec_replyWaitExpiry_of_due {s : State} {r : PageRec} (h : s.FirstDue PageRec.replyDue r) :
    exec .replyWaitExpiry s = .next (s.expire r).settle := by
  have hfind : (s.rmat.awaiting.filterMap s.rec?).find? (fun r => r.state == .awaiting && ranOut r.replyWait) = some r :=
    State.find_firstDue h
  show execReplyWaitExpiry s = _
  unfold execReplyWaitExpiry
  rw [hfind]
  rfl

theorem exec_readWaitEnd_of_due {s : State} {r : PageRec} (h : s.FirstDue PageRec.readDue r) :
    exec .readWaitEnd s = .next (s.freeRec r .deliveredDone).settle := by
  have hfind : (s.rmat.awaiting.filterMap s.rec?).find? (fun r => r.state == .delivered && ranOut r.readWait) = some r :=
    State.find_firstDue h
  show execReadWaitEnd s = _
  unfold execReadWaitEnd
  rw [hfind]
  rfl

theorem exec_holdEnd_of_due {s : State} {r : PageRec} (hr : s.rec? r.id = some r) (h : r.holdDue = true) :
    exec (.holdEnd r.id) s = .next (s.freeRec r .expired).settle := by
  obtain ⟨hst, hdue⟩ : r.state = .held ∧ ranOut r.holdWait = true := by
    unfold PageRec.holdDue at h
    rw [Bool.and_eq_true, beq_iff_eq] at h
    exact h
  show execHoldEnd r.id s = _
  unfold execHoldEnd
  rw [hr]
  exact if_pos ⟨hst, hdue⟩

section
variable {s : State} {r : PageRec}

theorem State.expire_cancelled (h : r.cancelled = true) : s.expire r = s.freeRec { r with replyWait := none } .cancelled :=
  if_pos h

theorem State.expire_retry (hc : r.cancelled = false) (hl : r.count < r.limit) : s.expire r = s.retry r :=
  (if_neg (by rw [hc]; exact Bool.false_ne_true)).trans (if_pos hl)

theorem State.expire_miss (hc : r.cancelled = false) (hl : r.limit ≤ r.count) : s.expire r = s.miss r :=
  (if_neg (by rw [hc]; exact Bool.false_ne_true)).trans (if_neg (Nat.not_lt.mpr hl))

end

theorem Terms.backoffAfter_eq (t : Terms) {k : Nat} (h : k - 1 < 6) : t.backoffAfter k = t.backoff[k - 1] := by
  unfold Terms.backoffAfter
  rw [List.getD_eq_getElem _ _ (by simpa using h)]
  simp

/-! ### Onto the held list (R8, R119) -/

/-- Whether the record stands ahead of a record held. -/
def State.heldBefore (s : State) (r : PageRec) (m : MsgId) : Bool :=
  match s.rec? m with
  | some x => older r.seq x.seq
  | none => false

theorem State.holdRec_eq (s : State) (r : PageRec) :
    s.holdRec r = s.modSub r.sub (fun e => { e with held := insertBefore (s.heldBefore r) r.id e.held }) := rfl

theorem State.putIn_held (s : State) (r : PageRec) (l : List MsgId) :
    s.PutIn PageRec.HeldAhead r l (insertBefore (s.heldBefore r) r.id l) := by
  refine State.putIn_insertBefore (fun m => ?_) l
  unfold State.heldBefore PageRec.HeldAhead
  cases s.rec? m <;> simp

/-- The record a miss holds (R119). -/
def PageRec.missed (r : PageRec) : PageRec :=
  { r with
    state := .held, replyWait := none, tag := none, holdWait := some { left := r.terms.hold, due := false }
    refunded := r.refunded || r.series == .first }

/-- A miss before its refund. -/
def State.missHeld (s : State) (r : PageRec) : State :=
  (((s.leaveAwaiting r.id).putRec r.missed).holdRec r.missed).releaseTagOf r

theorem State.miss_eq (s : State) (r : PageRec) :
    s.miss r = ((s.missHeld r).postRefund r).1.raise .pageMissed
      [(str "MSG", .msg r.id), (str "SUB", .num r.sub), (str "SERIES", .word r.series.name), (str "COUNT", .num r.count),
       (str "REFUND", .num ((s.missHeld r).postRefund r).2)] := rfl

theorem State.missHeld_frame (s : State) (r : PageRec) :
    (s.missHeld r).hlc = s.hlc ∧ (s.missHeld r).plans = s.plans ∧ (s.missHeld r).aclk = s.aclk ∧
      (s.missHeld r).wsch = s.wsch ∧ (s.missHeld r).txi = s.txi ∧ (s.missHeld r).rxi = s.rxi ∧
      (s.missHeld r).rate = s.rate ∧ (s.missHeld r).acct = s.acct ∧ (s.missHeld r).office = s.office ∧
      (s.missHeld r).rmat = { s.rmat with awaiting := s.rmat.awaiting.filter (fun m => m != r.id) } := by
  simp [State.missHeld, State.leaveAwaiting]

theorem State.rec?_missHeld (s : State) (r : PageRec) :
    (s.missHeld r).rec? r.id = some r.missed ∧ ∀ m : MsgId, m.slot ≠ r.id.slot → (s.missHeld r).rec? m = s.rec? m := by
  have hrecs : ∀ m, (s.missHeld r).rec? m = (s.putRec r.missed).rec? m :=
    State.rec?_congr (by simp [State.missHeld])
  refine ⟨(hrecs _).trans (State.rec?_putRec_self s r.missed), fun m hm => (hrecs m).trans ?_⟩
  exact State.rec?_putRec_other s r.missed hm

/-- The entry of a miss: the record is on the held list, its tag is released. -/
theorem State.sub?_missHeld {s : State} {r : PageRec} {e : Entry} (he : s.sub? r.sub = some e) :
    ∃ held, (s.missHeld r).sub? r.sub = some
        { e with held := held, tags := match r.tag with | some g => e.tags.filter (fun x => x != g) | none => e.tags } ∧
      held.Perm (r.id :: e.held) ∧ (s.missHeld r).PutIn PageRec.HeldAhead r e.held held ∧
      ∀ n, n ≠ r.sub → (s.missHeld r).sub? n = s.sub? n := by
  let u := (s.leaveAwaiting r.id).putRec r.missed
  have hu : u.sub? r.sub = some e := he
  have hsub : ∀ n, (s.missHeld r).sub? n = _ := (u.holdRec r.missed).sub?_releaseTagOf r
  have hhold : ∀ n, (u.holdRec r.missed).sub? n = _ := fun n => u.sub?_modSub r.sub n _
  refine ⟨insertBefore (u.heldBefore r.missed) r.id e.held, ?_, insertBefore_perm _ _ _, ?_, fun n hn => ?_⟩
  · rw [hsub, if_pos rfl, hhold, if_pos rfl, hu]
    rfl
  · exact State.putIn_congr (State.rec?_congr (by simp [State.missHeld, u])) (u.putIn_held r.missed e.held)
  · rw [hsub, if_neg hn, hhold, if_neg hn]
    rfl

/-! ### The refund (R120, R141) -/

/-- What a posting gives the account and the host line depends on them and the settings alone. -/
theorem State.journal_congr {s t : State} (hacct : t.acct = s.acct) (hhlc : t.hlc = s.hlc) (hoffice : t.office = s.office)
    (j : JournalRec) : (t.journal j).acct = (s.journal j).acct ∧ (t.journal j).hlc = (s.journal j).hlc := by
  unfold State.journal State.loseRec State.writeRec State.judgeJournalHigh State.journalFull State.raise
  simp only [hacct, hhlc, hoffice]
  (repeat' split) <;> exact ⟨rfl, rfl⟩

/-- The money fields after a credit of `a`, the unbar test and the re-arming of the low-balance alarm taken (R152). -/
def Money.creditedBy (m : Money) (a margin : Nat) : Money :=
  let applied := min a (16777215 - m.balance).toNat
  { m with
    balance := m.balance + applied
    credit := if m.credit = .barred ∧ (margin : Int) < m.balance + applied - m.floor then .clear else m.credit
    lowArmed := m.lowArmed || decide (0 < applied ∧ m.low ≤ m.balance + applied) }

/-- A credit posted: the entry with its money fields, all else but the host line as it was, and the record given to the
journal. -/
theorem State.postCredit_posted {s : State} {n a : Nat} {e : Entry} (he : s.sub? n = some e) (ha : 0 < a)
    (j : JournalRec) :
    let applied := min a (16777215 - e.money.balance).toNat
    ∃ u : State, s.postCredit n a j = u.journal { j with
        amount := -(a : Int), short := a - applied, balance := e.money.balance + applied
        clamped := decide (applied < a) } ∧
      u.sub? n = some { e with money := e.money.creditedBy a s.office.unbarMargin } ∧
      (∀ k, k ≠ n → u.sub? k = s.sub? k) ∧ u.acct = s.acct ∧ u.office = s.office ∧ u.aclk = s.aclk ∧
      u.hlc = if e.money.credit = .barred ∧ (s.office.unbarMargin : Int) < e.money.balance + applied - e.money.floor then
        s.hlc.raise .unbarred [(str "SUB", .num n), (str "BALANCE", .int (e.money.balance + applied))] true else s.hlc := by
  intro applied
  obtain ⟨-, -, hcredit⟩ := postingsApplied
  obtain ⟨u, hu, husub, hothers, hrest, huhlc⟩ := hcredit s n a j e he ha
  simp only [decide_eq_true_eq] at husub huhlc
  exact ⟨u, hu, husub, hothers, by rw [← hrest], by rw [← hrest], by rw [← hrest], huhlc⟩

/-- A credit posted to two states alike in the account, the host line, the settings and the money of the entry. -/
theorem State.postCredit_congr {s t : State} {n a : Nat} {e x : Entry} (ha : 0 < a) (j : JournalRec)
    (he : s.sub? n = some e) (hx : t.sub? n = some x) (hm : x.money = e.money) (hacct : t.acct = s.acct)
    (hhlc : t.hlc = s.hlc) (hoffice : t.office = s.office) :
    (t.postCredit n a j).acct = (s.postCredit n a j).acct ∧ (t.postCredit n a j).hlc = (s.postCredit n a j).hlc ∧
      (s.postCredit n a j).sub? n = some { e with money := e.money.creditedBy a s.office.unbarMargin } := by
  obtain ⟨u, hu, husub, -, huacct, huoffice, -, huhlc⟩ := State.postCredit_posted he ha j
  obtain ⟨v, hv, -, -, hvacct, hvoffice, -, hvhlc⟩ := State.postCredit_posted hx ha j
  rw [hm] at hv hvhlc
  rw [hu, hv]
  obtain ⟨h1, h2⟩ := State.journal_congr (hvacct.trans (hacct.trans huacct.symm))
    (hvhlc.trans (by rw [hhlc, hoffice, huhlc])) (hvoffice.trans (hoffice.trans huoffice.symm)) _
  exact ⟨h1, h2, (State.sub?_congr (by simp) n).trans husub⟩

/-- The money of an entry after the refund of a miss. -/
def Money.refunded (m : Money) (r : PageRec) (margin : Nat) : Money :=
  if r.refund = 0 then m else m.creditedBy r.refund margin

theorem State.postRefund_none {s : State} {r : PageRec} (h : r.refund = 0) : s.postRefund r = (s, 0) := by
  unfold State.postRefund
  cases s.sub? r.sub with
  | none => rfl
  | some e => exact if_pos h

theorem State.postRefund_some {s : State} {r : PageRec} {e : Entry} (he : s.sub? r.sub = some e) (h : r.refund ≠ 0) :
    s.postRefund r =
      (s.postCredit r.sub r.refund { blankRec s .refund r.sub with msg := some r.id },
        min r.refund (16777215 - e.money.balance).toNat) := by
  unfold State.postRefund
  rw [he]
  exact if_neg h

theorem State.postRefund_applied {s : State} {r : PageRec} {e : Entry} (he : s.sub? r.sub = some e) :
    (s.postRefund r).2 = min r.refund (16777215 - e.money.balance).toNat := by
  by_cases h : r.refund = 0
  · rw [State.postRefund_none h, h, Nat.zero_min]
  · rw [State.postRefund_some he h]

theorem State.sub?_postRefund {s : State} {r : PageRec} {e : Entry} (he : s.sub? r.sub = some e) :
    (s.postRefund r).1.sub? r.sub = some { e with money := e.money.refunded r s.office.unbarMargin } ∧
      ∀ n, n ≠ r.sub → (s.postRefund r).1.sub? n = s.sub? n := by
  by_cases h : r.refund = 0
  · rw [State.postRefund_none h, Money.refunded, if_pos h]
    exact ⟨he, fun _ _ => rfl⟩
  · obtain ⟨u, hu, husub, hothers, -⟩ := State.postCredit_posted he (Nat.pos_of_ne_zero h)
      { blankRec s .refund r.sub with msg := some r.id }
    rw [State.postRefund_some he h, Money.refunded, if_neg h, hu]
    exact ⟨(State.sub?_congr (by simp) _).trans husub, fun n hn => (State.sub?_congr (by simp) _).trans (hothers n hn)⟩

theorem PageRec.refund_eq (r : PageRec) :
    r.refund = if r.series = .first ∧ r.refunded = false then (r.posted * r.terms.refundPct + 50) / 100 else 0 := rfl

theorem Money.refunded_balance (m : Money) (r : PageRec) (margin : Nat) :
    (m.refunded r margin).balance = m.balance + (min r.refund (16777215 - m.balance).toNat : Nat) := by
  unfold Money.refunded
  split
  · next h => rw [h]; simp
  · rfl

/-- A refund changes the balance, the credit state and the low-balance alarm alone. -/
theorem Money.refunded_frame (m : Money) (r : PageRec) (margin : Nat) :
    (m.refunded r margin).periodCharges = m.periodCharges ∧ (m.refunded r margin).periodPages = m.periodPages ∧
      (m.refunded r margin).reserved = m.reserved ∧ (m.refunded r margin).floor = m.floor := by
  unfold Money.refunded
  split <;> exact ⟨rfl, rfl, rfl, rfl⟩

end Sys2Proof.Machine
end

section
/-! Waits that run out (O42) and the refund of a miss (O43): the two statements, by the operations of an expiry. -/

namespace Sys2Proof.Machine

section
variable {s : State} {r : PageRec} {e : Entry}

/-- The record a retry files (R118). -/
def PageRec.retried (r : PageRec) : PageRec :=
  { r with state := .retryWait, replyWait := none, skip := r.terms.backoffAfter r.count - 1 }

theorem State.retry_eq (s : State) (r : PageRec) :
    s.retry r = ((s.leaveAwaiting r.id).putRec r.retried).fileRec r.retried := rfl

theorem PageRec.retried_eq (h : r.count - 1 < 6) :
    r.retried = { r with state := .retryWait, replyWait := none, skip := r.terms.backoff[r.count - 1] - 1 } := by
  rw [PageRec.retried, Terms.backoffAfter_eq _ h]

/-- The notice of a miss (R119). -/
def PageRec.missedFields (r : PageRec) (refund : Nat) : List Field :=
  [(str "MSG", .msg r.id), (str "SUB", .num r.sub),
   (str "SERIES", .word (if r.series = .first then str "FIRST" else str "RECOVERY")), (str "COUNT", .num r.count),
   (str "REFUND", .num refund)]

theorem State.hlc_miss (he : s.sub? r.sub = some e) :
    (s.miss r).hlc = ((s.missHeld r).postRefund r).1.hlc.raise .pageMissed
      (r.missedFields (min r.refund (16777215 - e.money.balance).toNat)) true := by
  obtain ⟨held, hx, -, -, -⟩ := State.sub?_missHeld he
  rw [State.miss_eq, State.postRefund_applied hx]
  unfold PageRec.missedFields
  rw [← Series.name_eq]
  rfl

/-- The records and the entries of a miss. -/
theorem State.miss_parts (s : State) (r : PageRec) :
    (∀ m, (s.miss r).rec? m = (s.missHeld r).rec? m) ∧
      (∀ n, (s.miss r).sub? n = ((s.missHeld r).postRefund r).1.sub? n) ∧
      (s.miss r).rmat = (s.missHeld r).rmat ∧ (s.miss r).acct = ((s.missHeld r).postRefund r).1.acct := by
  rw [State.miss_eq]
  exact ⟨State.rec?_congr (by simp), State.sub?_congr (by simp), by simp, by simp⟩

theorem State.flag_miss (s : State) (r : PageRec) : (s.miss r).hlc.flags[NoticeKind.pageMissed.index] = true := by
  rw [State.miss_eq]
  exact State.flag_raise_self _ _ _

/-- A flag that is set stays set when PAGE_MISSED is raised. -/
theorem State.flag_miss_of_refund {i : Fin 18} (h : ((s.missHeld r).postRefund r).1.hlc.flags[i] = true) :
    (s.miss r).hlc.flags[i] = true := by
  rw [State.miss_eq]
  exact State.flag_raise_mono _ _ _ _ h

end

/-- Settles O42: the three outcomes of an expiry, and the other two waits. -/
theorem waitsEnd : Obligations.WaitsEnd := by
  unfold Obligations.WaitsEnd
  refine ⟨fun s r e hdue he => ⟨fun hc => ?cancelled, fun hc hl h1 h => ?retry, fun hc hl => ?miss⟩,
    fun s r hdue => exec_readWaitEnd_of_due hdue, fun s r hr hdue => exec_holdEnd_of_due hr hdue⟩
  case cancelled => rw [exec_replyWaitExpiry_of_due hdue, State.expire_cancelled hc]
  case retry =>
    have hexec : exec .replyWaitExpiry s = .next (s.retry r).settle := by
      rw [exec_replyWaitExpiry_of_due hdue, State.expire_retry hc hl]
    obtain ⟨hrec, hperm, hput, hrecs, hqueues, hhlc, hsubs, hrmat⟩ := State.refiled_as (u := s.leaveAwaiting r.id) (r := r)
      (q := r.retried) rfl rfl rfl rfl he
    obtain ⟨-, -, hplans, haclk, htxi, hrxi, hrate, hacct, hoffice, -, -⟩ := s.retry_frame r
    obtain ⟨hbuild, hair, -, -⟩ := State.fileRec_wsch ((s.leaveAwaiting r.id).putRec r.retried) r.retried
    exact ⟨(s.retry r).settle, hexec, hrec.trans (congrArg some (PageRec.retried_eq h)), hrmat, hperm, hput, hqueues, hrecs,
      congrArg Hlc.settle hhlc, hsubs, hplans, haclk, htxi, hrxi, hrate, hacct, hoffice, hbuild, hair⟩
  case miss =>
    obtain ⟨held, hx, hperm, hput, hothers⟩ := State.sub?_missHeld he
    obtain ⟨hhlc, -, -, hwsch, -, -, -, -, -, hrmat⟩ := s.missHeld_frame r
    obtain ⟨hrec, hrecs⟩ := s.rec?_missHeld r
    obtain ⟨mrec, msub, mrmat, -⟩ := s.miss_parts r
    obtain ⟨hsub, hsubs⟩ := State.sub?_postRefund hx
    obtain ⟨mplans, maclk, mwsch, mtxi, mrxi, mrate, moffice, -, -⟩ := s.miss_frame r
    refine ⟨(s.miss r).settle, _, by rw [exec_replyWaitExpiry_of_due hdue, State.expire_miss hc hl], (mrec _).trans hrec,
      mrmat.trans hrmat, (msub _).trans hsub, hperm, State.putIn_congr mrec hput, rfl, rfl, ?hlc, ?flag, mwsch,
      fun m hm => (mrec m).trans (hrecs m hm), fun n hn => (msub n).trans ((hsubs n hn).trans (hothers n hn)), mplans, maclk,
      mtxi, mrxi, mrate, moffice⟩
    case hlc =>
      refine ⟨⟨_, congrArg Hlc.settle (State.hlc_miss he)⟩, fun h0 => ?_⟩
      rw [State.settle_hlc, State.hlc_miss he, State.postRefund_none h0, hhlc]
      rfl
    case flag =>
      rw [State.settle_hlc, Hlc.settle_flags]
      exact s.flag_miss r

section
variable {s : State} {r : PageRec} {e : Entry}

theorem State.blankRec_missHeld (s : State) (r : PageRec) (k : JournalKind) (n : Nat) :
    blankRec (s.missHeld r) k n = blankRec s k n := by
  obtain ⟨-, -, haclk, -⟩ := s.missHeld_frame r
  unfold blankRec
  rw [haclk]

/-- The posting of a refund above 0. -/
theorem State.postRefund_missHeld {x : Entry} (hx : (s.missHeld r).sub? r.sub = some x) (h : 0 < r.refund) :
    ((s.missHeld r).postRefund r).1 =
      (s.missHeld r).postCredit r.sub r.refund { blankRec s .refund r.sub with msg := some r.id } := by
  rw [State.postRefund_some hx (Nat.ne_of_gt h), State.blankRec_missHeld]

/-- The journal record of the refund of a miss (R141, R158). -/
def State.refundRec (s : State) (r : PageRec) (e : Entry) : JournalRec :=
  let applied := min r.refund (16777215 - e.money.balance).toNat
  { blankRec s .refund r.sub with
    msg := some r.id, amount := -(r.refund : Int), short := r.refund - applied, balance := e.money.balance + applied
    clamped := decide (applied < r.refund) }

/-- A refund above 0 journals its record, from a state with the account and the settings of the state before. -/
theorem State.postRefund_journal (he : s.sub? r.sub = some e) (h : 0 < r.refund) :
    ∃ u : State, ((s.missHeld r).postRefund r).1 = u.journal (s.refundRec r e) ∧ u.acct = s.acct ∧
      u.office = s.office := by
  obtain ⟨held, hx, -⟩ := State.sub?_missHeld he
  obtain ⟨-, -, -, -, -, -, -, hacct, hoffice, -⟩ := s.missHeld_frame r
  obtain ⟨u, hu, -, -, huacct, huoffice, -⟩ :=
    State.postCredit_posted hx h { blankRec s .refund r.sub with msg := some r.id }
  exact ⟨u, (State.postRefund_missHeld hx h).trans hu, huacct.trans hacct, huoffice.trans hoffice⟩

end

/-- Settles O43: the refund posted to the state of the miss is the refund posted to the state before. -/
theorem missRefunds : Obligations.MissRefunds := by
  unfold Obligations.MissRefunds
  intro s r e hdue he hc hl refund applied
  obtain ⟨held, hx, -, -, -⟩ := State.sub?_missHeld he
  obtain ⟨hhlc, -, haclk, -, -, -, -, hacct, hoffice, -⟩ := s.missHeld_frame r
  obtain ⟨-, msub, -, macct⟩ := s.miss_parts r
  obtain ⟨hsub, -⟩ := State.sub?_postRefund hx
  obtain ⟨hcharges, hpages, hreserved, hfloor⟩ := e.money.refunded_frame r (s.missHeld r).office.unbarMargin
  refine ⟨(s.miss r).settle, _, by rw [exec_replyWaitExpiry_of_due hdue, State.expire_miss hc hl], (msub _).trans hsub,
    e.money.refunded_balance r _, hcharges, hpages, hreserved, hfloor, fun h0 => ⟨?money, ?acct⟩, fun h hopen => ?written,
    fun h hm ho => ?lost, fun h => ?posted⟩
  case money => exact if_pos h0
  case acct => rw [State.settle_acct, macct, State.postRefund_none h0, hacct]
  case written =>
    obtain ⟨u, hu, huacct, huoffice⟩ := State.postRefund_journal he h
    have hwrite := State.journal_acct (s := u) (j := s.refundRec r e) (.inr (by rw [huoffice, huacct]; exact hopen))
    rw [← hu, huacct] at hwrite
    obtain ⟨hlast, hseq, -, hlost⟩ := hwrite
    rw [State.settle_acct, macct]
    exact ⟨_, hlast, rfl, rfl, rfl, rfl, rfl, rfl, rfl, rfl, rfl, hseq, hlost⟩
  case lost =>
    obtain ⟨u, hu, huacct, huoffice⟩ := State.postRefund_journal he h
    have hlose := State.journal_acct_lost (s := u) (j := s.refundRec r e) JournalKind.noConfusion (huoffice ▸ hm) (huacct ▸ ho)
    rw [← hu, huacct] at hlose
    obtain ⟨hacct', hflag⟩ := hlose
    rw [State.settle_acct, State.settle_hlc, Hlc.settle_flags, macct]
    exact ⟨hacct', State.flag_miss_of_refund hflag⟩
  case posted =>
    intro posted
    obtain ⟨hpacct, hphlc, hpsub⟩ := State.postCredit_congr (a := r.refund) h { blankRec s .refund r.sub with msg := some r.id } he hx rfl
      hacct hhlc hoffice
    have hpost := State.postRefund_missHeld hx h
    refine ⟨?account, ?host, _, hpsub, ?entry⟩
    case account =>
      rw [State.settle_acct, macct, hpost]
      exact hpacct
    case host =>
      rw [State.settle_hlc, State.hlc_miss he, hpost, hphlc]
      rfl
    case entry =>
      rw [hoffice]
      exact if_neg (Nat.ne_of_gt h)

end Sys2Proof.Machine
end

section
/-! Reports taken: what they count (O47) and what a HEARD does (O48). -/

namespace Sys2Proof.Machine

/-! ### The record of a tag (R110) and the take by kind (R108) -/

theorem State.tagHolder_eq_some {s : State} {n : Nat} {g : PageTag} {r : PageRec} (h : s.tagHolder n g = some r) :
    (∃ slot, (slot, r) ∈ s.store.records.cells) ∧ r.sub = n ∧ r.tag = some g := by
  unfold State.tagHolder at h
  obtain ⟨c, hc, hcr⟩ := List.mem_map.mp (List.mem_of_find?_eq_some h)
  obtain ⟨slot, q⟩ := c
  obtain rfl : q = r := hcr
  have hfound := List.find?_some h
  rw [Bool.and_eq_true, beq_iff_eq, beq_iff_eq] at hfound
  exact ⟨⟨slot, hc⟩, hfound⟩

theorem State.tagHolder_eq_none {s : State} {n : Nat} {g : PageTag} (h : s.tagHolder n g = none) :
    ∀ c ∈ s.store.records.cells, ¬ (c.2.sub = n ∧ c.2.tag = some g) := by
  intro c hc ⟨hsub, htag⟩
  have hno := List.find?_eq_none.mp h c.2 (List.mem_map.mpr ⟨c, hc, rfl⟩)
  simp [hsub, htag] at hno

theorem exec_reportTake_of_replies {s : State} {p : Report} {rest : List Report} (h : s.rxi.replies = p :: rest) :
    exec .reportTake s = .next (({ s with rxi := { s.rxi with replies := rest } } : State).takeReport p).settle := by
  show execReportTake s = _
  unfold execReportTake
  rw [h]
  rfl

section
variable {s : State} {p : Report} {rest : List Report} {n : Nat} {e : Entry}

theorem State.takeReport_unknown (h : s.holderOf p.addr = none) : s.takeReport p = s.countUnknown := by
  unfold State.takeReport
  rw [h]

theorem State.takeReport_oneWay (h : s.holderOf p.addr = some n) (he : s.sub? n = some e) (hk : e.kind = .oneWay) :
    s.takeReport p = s.countUnexpected := by
  unfold State.takeReport
  rw [h]
  simp only [he, hk]

theorem exec_reportTake_heard (h : s.Reported p rest n e) (hk : p.kind = .heard) :
    exec .reportTake s = .next ((s.heardFrom p rest n e).heard n p).settle := by
  rw [exec_reportTake_of_reported h]
  simp only [State.byKind, hk]

theorem exec_reportTake_read (h : s.Reported p rest n e) (hk : p.kind = .read) :
    exec .reportTake s = .next ((s.heardFrom p rest n e).readReport n p).settle := by
  rw [exec_reportTake_of_reported h]
  simp only [State.byKind, hk]

end

/-! ### HEARD and READ by the state of the record (R110, R113) -/

section
variable {s : State} {n : Nat} {p : Report} {r : PageRec}

theorem State.heard_untagged (h : s.tagHolder n p.tag = none) : s.heard n p = s.countStale := by
  unfold State.heard
  rw [h]

theorem State.readReport_untagged (h : s.tagHolder n p.tag = none) : s.readReport n p = s.countStale := by
  unfold State.readReport
  rw [h]

theorem State.heard_delivered (h : s.tagHolder n p.tag = some r) (hst : r.state = .delivered) :
    s.heard n p = s.countDuplicate := by
  unfold State.heard
  rw [h]
  simp only [hst]

theorem State.heard_cancelled (h : s.tagHolder n p.tag = some r) (hst : r.state = .awaiting) (hc : r.cancelled = true) :
    s.heard n p = s.freeRec r .deliveredDone := by
  unfold State.heard
  rw [h]
  simp only [hst, if_pos hc]

theorem State.heard_out (h : s.tagHolder n p.tag = some r)
    (hst : r.state = .awaiting ∧ r.cancelled = false ∨ r.state = .retryWait) : s.heard n p = s.deliverOut r p := by
  unfold State.heard
  rw [h]
  rcases hst with ⟨hst, hc⟩ | hst
  · simp only [hst, hc, Bool.false_eq_true, if_false]
  · simp only [hst]

theorem State.heard_placed (h : s.tagHolder n p.tag = some r) (hst : r.state = .placed) :
    s.heard n p = s.deliverLate r p := by
  unfold State.heard
  rw [h]
  simp only [hst]

theorem State.readReport_cancelled (h : s.tagHolder n p.tag = some r) (hst : r.state = .awaiting)
    (hc : r.cancelled = true) : s.readReport n p = s.freeRec r .deliveredDone := by
  unfold State.readReport
  rw [h]
  simp only [hst, if_pos hc]

theorem State.readReport_out (h : s.tagHolder n p.tag = some r)
    (hst : r.state = .awaiting ∧ r.cancelled = false ∨ r.state = .retryWait) :
    s.readReport n p = s.deliverRead r p := by
  unfold State.readReport
  rw [h]
  rcases hst with ⟨hst, hc⟩ | hst
  · simp only [hst, hc, Bool.false_eq_true, if_false]
  · simp only [hst]

theorem State.readReport_placed (h : s.tagHolder n p.tag = some r) (hst : r.state = .placed) :
    s.readReport n p = (s.deliverLate r p).countStale := by
  unfold State.readReport
  rw [h]
  simp only [hst]

theorem State.readReport_delivered (h : s.tagHolder n p.tag = some r) (hst : r.state = .delivered) :
    s.readReport n p = if r.id ∈ s.rmat.awaiting then s.readRec r else s.countStale := by
  unfold State.readReport
  rw [h]
  simp only [hst]

end

/-- Settles O47: the four counters of the reports that match nothing. -/
theorem reportsCounted : Obligations.ReportsCounted := by
  unfold Obligations.ReportsCounted
  refine ⟨fun s a => ⟨fun n h => State.holderOf_eq_some h, fun h => State.holderOf_eq_none_iff.mp h⟩,
    fun s n g => ⟨fun r h => State.tagHolder_eq_some h, fun h => State.tagHolder_eq_none h⟩,
    fun s p rest hq => ⟨fun hno => ?unknown, fun n e hn he hk => ?unexpected⟩,
    fun s p rest n e h => ⟨fun hk hno => ?stale, fun r hk ht hst => ?duplicate, fun r hk ht hst hout => ?late⟩⟩
  case unknown =>
    rw [exec_reportTake_of_replies hq, State.takeReport_unknown (s := { s with rxi := { s.rxi with replies := rest } })
      (State.holderOf_eq_none_iff.mpr hno)]
    rfl
  case unexpected =>
    rw [exec_reportTake_of_replies hq, State.takeReport_oneWay (s := { s with rxi := { s.rxi with replies := rest } })
      hn he hk]
    rfl
  case stale =>
    have hno' : (s.heardFrom p rest n e).tagHolder n p.tag = none := hno
    rcases hk with hk | hk
    · rw [exec_reportTake_heard h hk, State.heard_untagged hno']
      rfl
    · rw [exec_reportTake_read h hk, State.readReport_untagged hno']
      rfl
  case duplicate =>
    rw [exec_reportTake_heard h hk, State.heard_delivered (s := s.heardFrom p rest n e) ht hst]
    rfl
  case late =>
    rw [exec_reportTake_read h hk, State.readReport_delivered (s := s.heardFrom p rest n e) ht hst,
      if_neg (show r.id ∉ (s.heardFrom p rest n e).rmat.awaiting from hout)]
    rfl

/-! ### Delivery (R111, R112) -/

section
variable (s : State) (r : PageRec) (e : Entry) (p : Report)

/-- PAGE_DELIVERED changes the host line, and the queue of a record in RETRY_WAIT. -/
theorem State.toldDelivered_frame :
    (s.toldDelivered r e p).subs = s.subs ∧ (s.toldDelivered r e p).plans = s.plans ∧
      (s.toldDelivered r e p).store = s.store ∧ (s.toldDelivered r e p).aclk = s.aclk ∧
      (s.toldDelivered r e p).rmat = s.rmat ∧ (s.toldDelivered r e p).acct = s.acct ∧
      (s.toldDelivered r e p).office = s.office ∧
      (s.toldDelivered r e p).hlc = s.hlc.raise .pageDelivered (r.deliveredNotice p false) true := by
  unfold State.toldDelivered
  simp only
  split <;> exact ⟨rfl, rfl, rfl, rfl, rfl, rfl, rfl, rfl⟩

theorem State.not_mem_queue_toldDelivered (h : r.state = .retryWait) :
    r.id ∉ (s.toldDelivered r e p).queue e.home := by
  have hq : (s.toldDelivered r e p).queue e.home = (s.queue e.home).filter (fun m => m != r.id) := by
    unfold State.toldDelivered
    simp only [if_pos h]
    exact (State.queue_setQueue _ e.home _ _).trans (if_pos rfl)
  rw [hq]
  simp

theorem State.flag_toldDelivered : (s.toldDelivered r e p).hlc.flags[NoticeKind.pageDelivered.index] = true := by
  obtain ⟨-, -, -, -, -, -, -, hhlc⟩ := s.toldDelivered_frame r e p
  rw [hhlc]
  exact s.flag_raise_self _ _

variable {s r e}

/-- The notice and the leaving of the queue, as the model does them. -/
theorem State.raise_unfile_eq {x : Entry} (hx : s.sub? r.sub = some x) (hh : x.home = e.home) :
    (if r.state = .retryWait then (s.raiseDelivered r p false).unfile r else s.raiseDelivered r p false) =
      s.toldDelivered r e p := by
  have hunfile : (s.raiseDelivered r p false).unfile r =
      (s.raiseDelivered r p false).setQueue x.home ((s.queue x.home).filter (fun m => m != r.id)) := by
    unfold State.unfile
    rw [show (s.raiseDelivered r p false).sub? r.sub = some x from hx]
    rfl
  unfold State.toldDelivered
  split
  · rw [hunfile, hh]
    rfl
  · rfl

/-- A record delivered out of an image whose read wait is set (R111 step 4). -/
def PageRec.deliveredWaiting (r : PageRec) : PageRec :=
  { r.asDelivered with readWait := some { left := r.terms.readWait, due := false } }

theorem State.deliverOut_waits {x : Entry} (hx : s.sub? r.sub = some x) (hh : x.home = e.home)
    (hw : r.terms.readWait ≠ 0) :
    s.deliverOut r p =
      if r.state = .retryWait then ((s.toldDelivered r e p).putRec r.deliveredWaiting).joinAwaiting r.id
      else (s.toldDelivered r e p).putRec r.deliveredWaiting := by
  rw [← State.raise_unfile_eq p hx hh]
  exact if_neg hw

theorem State.deliverOut_done {x : Entry} (hx : s.sub? r.sub = some x) (hh : x.home = e.home)
    (hw : r.terms.readWait = 0) :
    s.deliverOut r p = ((s.toldDelivered r e p).putRec r.asDelivered).freeRec r.asDelivered .deliveredDone := by
  rw [← State.raise_unfile_eq p hx hh]
  exact if_pos hw

end

/-- A record delivered in its image (R112). -/
def PageRec.deliveredLate (r : PageRec) : PageRec :=
  if r.terms.readWait = 0 then { r.asDelivered with late := true, freeAfterAiring := true }
  else { r.asDelivered with late := true, readWait := some { left := r.terms.readWait, due := false } }

theorem State.deliverLate_eq (s : State) (r : PageRec) (p : Report) :
    s.deliverLate r p = (s.raiseDelivered r p true).putRec r.deliveredLate := by
  unfold State.deliverLate PageRec.deliveredLate
  split <;> rfl

theorem PageRec.deliveredLate_id (r : PageRec) : r.deliveredLate.id = r.id := by
  unfold PageRec.deliveredLate
  split <;> rfl

/-- A flag that is set stays set when a record is freed. -/
theorem State.flag_freeRec_mono {s : State} (r : PageRec) (o : PageOutcome) {i : Fin 18} (h : s.hlc.flags[i] = true) :
    (s.freeRec r o).hlc.flags[i] = true := by
  rw [State.freeRec_eq]
  refine State.flag_judgeCongestion _ i ?_
  rw [State.freed_hlc]
  exact State.flag_raise_mono s _ _ i h

/-- Settles O48: the ways of a HEARD by the state of the record its tag names. -/
theorem heardDelivers : Obligations.HeardDelivers := by
  unfold Obligations.HeardDelivers
  intro s p rest n e r h htag hr u
  have htag' : u.tagHolder n p.tag = some r := htag
  obtain ⟨-, hsub, -⟩ := State.tagHolder_eq_some htag
  have hx : u.sub? r.sub = some (e.heardIn p.zone) := by rw [State.sub?_heardFrom, if_pos hsub]
  obtain ⟨tsubs, -, tstore, -, trmat, tacct, -, thlc⟩ := u.toldDelivered_frame r e p
  have trecs : ∀ m, (u.toldDelivered r e p).rec? m = s.rec? m := State.rec?_congr (congrArg Store.records tstore)
  refine ⟨fun hk hst hc => ?cancelled, fun hk hst hw => ?waits, fun hk hst hw => ?done, fun hk hst => ?placed⟩
  case cancelled =>
    rcases hk with hk | hk
    · rw [exec_reportTake_heard h hk, State.heard_cancelled htag' hst hc]
    · rw [exec_reportTake_read h hk, State.readReport_cancelled htag' hst hc]
  case waits =>
    have hexec : exec .reportTake s = .next (u.deliverOut r p).settle := by
      rw [exec_reportTake_heard h hk, State.heard_out htag' hst]
    have hput := State.rec?_putRec_self (u.toldDelivered r e p) r.deliveredWaiting
    have hothers : ∀ m : MsgId, m.slot ≠ r.id.slot →
        ((u.toldDelivered r e p).putRec r.deliveredWaiting).rec? m = s.rec? m := fun m hm =>
      (State.rec?_putRec_other _ r.deliveredWaiting hm).trans (trecs m)
    rw [State.deliverOut_waits p hx rfl hw] at hexec
    by_cases hq : r.state = .retryWait
    · rw [if_pos hq] at hexec
      exact ⟨_, hexec, hput, (congrArg (fun x : Rmat => x.awaiting ++ [r.id]) trmat).trans (if_pos hq).symm,
        fun _ => State.not_mem_queue_toldDelivered u r e p hq, congrArg Hlc.settle thlc, rfl, tsubs, tacct, hothers⟩
    · rw [if_neg hq] at hexec
      exact ⟨_, hexec, hput, (congrArg Rmat.awaiting trmat).trans (if_neg hq).symm, fun hq' => absurd hq' hq,
        congrArg Hlc.settle thlc, rfl, tsubs, tacct, hothers⟩
  case done =>
    have hexec : exec .reportTake s = .next (u.deliverOut r p).settle := by
      rw [exec_reportTake_heard h hk, State.heard_out htag' hst]
    rw [State.deliverOut_done p hx rfl hw] at hexec
    let v := (u.toldDelivered r e p).putRec r.asDelivered
    obtain ⟨hnone, hrecs, -, -⟩ := (u.toldDelivered r e p).putRec_freeRec r.asDelivered .deliveredDone
    obtain ⟨-, -, -, -, -, facct, -⟩ := v.freeRec_frame r.asDelivered .deliveredDone
    have hqueue : (v.freeRec r.asDelivered .deliveredDone).queue e.home = (u.toldDelivered r e p).queue e.home :=
      State.queue_congr (State.freeRec_queues v (r := r.asDelivered) _ RecState.noConfusion RecState.noConfusion) _
    refine ⟨_, hexec, rfl, hnone, ?awaiting, fun hq => ?queue, ?told, ?freed, facct.trans tacct,
      fun m hm => (hrecs m hm).trans (trecs m)⟩
    case awaiting =>
      rw [State.settle_rmat, State.freeRec_rmat, if_pos (.inr rfl)]
      simp [PageRec.asDelivered]
    case queue =>
      show r.id ∉ (v.freeRec r.asDelivered .deliveredDone).queue e.home
      rw [hqueue]
      exact State.not_mem_queue_toldDelivered u r e p hq
    case told =>
      rw [State.settle_hlc, Hlc.settle_flags]
      exact State.flag_freeRec_mono (s := v) _ _ (u.flag_toldDelivered r e p)
    case freed =>
      rw [State.settle_hlc, Hlc.settle_flags]
      exact State.flag_freeRec v r.asDelivered .deliveredDone
  case placed =>
    have hput := State.rec?_putRec_self (u.raiseDelivered r p true) r.deliveredLate
    have hothers : ∀ m : MsgId, m.slot ≠ r.id.slot →
        ((u.raiseDelivered r p true).putRec r.deliveredLate).rec? m = s.rec? m := fun m hm =>
      State.rec?_putRec_other _ r.deliveredLate (by rw [r.deliveredLate_id]; exact hm)
    rw [r.deliveredLate_id] at hput
    rcases hk with hk | hk
    · refine ⟨(u.deliverLate r p).settle, by rw [exec_reportTake_heard h hk, State.heard_placed htag' hst], ?_⟩
      rw [State.deliverLate_eq]
      exact ⟨hput, rfl, rfl, (if_neg (by rw [hk]; decide)).symm, rfl, rfl, rfl, hothers⟩
    · refine ⟨(u.deliverLate r p).countStale.settle, by rw [exec_reportTake_read h hk, State.readReport_placed htag' hst],
        ?_⟩
      rw [State.deliverLate_eq]
      exact ⟨hput, rfl, rfl, (if_pos hk).symm, rfl, rfl, rfl, hothers⟩

end Sys2Proof.Machine
end

section
/-! The record a READ reads (O49). -/

namespace Sys2Proof.Machine

/-! ### Flags that postings keep (R194) -/

theorem Hlc.flag_raise_mono {h : Hlc} (k : NoticeKind) (fs : List Field) {i : Fin 18} (hf : h.flags[i] = true) :
    (h.raise k fs true).flags[i] = true :=
  State.flag_raise_mono { State.reset with hlc := h } k fs i hf

theorem State.flag_judgeJournalHigh {s : State} {i : Fin 18} (h : s.hlc.flags[i] = true) :
    s.judgeJournalHigh.hlc.flags[i] = true := by
  rw [State.judgeJournalHigh_eq]
  split
  · exact h
  · cases s.office.highType with
    | each => exact Hlc.flag_raise_mono _ _ h
    | once =>
      by_cases hl : s.acct.highLatch = true
      · rw [if_pos hl]
        exact h
      · rw [if_neg hl]
        exact Hlc.flag_raise_mono _ _ h

theorem State.flag_journal {s : State} (j : JournalRec) {i : Fin 18} (h : s.hlc.flags[i] = true) :
    (s.journal j).hlc.flags[i] = true := by
  unfold State.journal
  split
  · exact State.flag_raise_mono { s with acct := _ } _ _ _ h
  · exact State.flag_judgeJournalHigh (s := { s with acct := _ }) h

theorem State.flag_postCharge {s : State} {n a : Nat} {e : Entry} (he : s.sub? n = some e) (ha : 0 < a) (j : JournalRec)
    {i : Fin 18} (h : s.hlc.flags[i] = true) : (s.postCharge n a j).hlc.flags[i] = true := by
  obtain ⟨hcharge, -, -⟩ := postingsApplied
  obtain ⟨u, hu, -, -, -, hhlc⟩ := hcharge s n a j e he ha
  rw [hu]
  refine State.flag_journal _ ?_
  rw [hhlc]
  have step : ∀ (c : Bool) (g : Hlc) (k : NoticeKind) (fs : List Field), g.flags[i] = true →
      (if c = true then g.raise k fs true else g).flags[i] = true := fun c g k fs hg => by
    split
    · exact Hlc.flag_raise_mono k fs hg
    · exact hg
  exact step _ _ _ _ (step _ _ _ _ (step _ _ _ _ h))

/-! ### A record is read (R113) -/

/-- The receipt of a record, as it is posted (R142). -/
def State.receiptRec (s : State) (d : PageRec) : JournalRec := { blankRec s .receipt d.sub with msg := some d.id }

/-- A record with the fee that was applied counted (R144). -/
def PageRec.feePosted (d : PageRec) (applied : Nat) : PageRec := { d with posted := d.posted + applied }

section
variable {v : State} {d : PageRec} {x : Entry}

theorem State.readRec_free (he : v.sub? d.sub = some x) (h0 : v.plans[x.plan].receiptFee = 0) :
    v.readRec d = v.freeRec d (.read 0) := by
  unfold State.readRec
  rw [he]
  exact if_pos h0

theorem State.readRec_charged (he : v.sub? d.sub = some x) (h0 : v.plans[x.plan].receiptFee ≠ 0) :
    let fee := v.plans[x.plan].receiptFee
    let applied := min fee (x.money.balance - x.money.floor).toNat
    v.readRec d = ((v.postCharge d.sub fee (v.receiptRec d)).putRec (d.feePosted applied)).freeRec (d.feePosted applied)
      (.read applied) := by
  intro fee applied
  unfold State.readRec
  rw [he]
  exact if_neg h0

/-- The places of a record read: out of its slot and of the awaiting list; no queue is touched. -/
theorem State.readRec_places (he : v.sub? d.sub = some x) (hst : d.state = .delivered) :
    (v.readRec d).rec? d.id = none ∧ (∀ m : MsgId, m.slot ≠ d.id.slot → (v.readRec d).rec? m = v.rec? m) ∧
      d.id ∉ (v.readRec d).rmat.awaiting ∧ (v.readRec d).wsch.queues = v.wsch.queues := by
  have freed : ∀ (w : State) (q : PageRec) (o : PageOutcome), q.id = d.id → q.state = .delivered →
      d.id ∉ (w.freeRec q o).rmat.awaiting ∧ (w.freeRec q o).wsch.queues = w.wsch.queues := fun w q o hid hq => by
    refine ⟨?_, State.freeRec_queues w o (by rw [hq]; decide) (by rw [hq]; decide)⟩
    rw [State.freeRec_rmat, if_pos (.inr hq), hid]
    simp
  by_cases h0 : v.plans[x.plan].receiptFee = 0
  · obtain ⟨haway, hqueues⟩ := freed v d (.read 0) rfl hst
    rw [State.readRec_free he h0]
    exact ⟨v.rec?_freeRec_self d _, fun m => v.rec?_freeRec_other d _, haway, hqueues⟩
  · let w := v.postCharge d.sub v.plans[x.plan].receiptFee (v.receiptRec d)
    let k := min v.plans[x.plan].receiptFee (x.money.balance - x.money.floor).toNat
    obtain ⟨-, pstore, -, pwsch, -⟩ := v.postCharge_frame d.sub v.plans[x.plan].receiptFee (v.receiptRec d)
    obtain ⟨hnone, hrecs, -, -⟩ := w.putRec_freeRec (d.feePosted k) (.read k)
    obtain ⟨haway, hqueues⟩ := freed (w.putRec (d.feePosted k)) (d.feePosted k) (.read k) rfl hst
    rw [State.readRec_charged he h0]
    exact ⟨hnone, fun m hm => (hrecs m hm).trans (State.rec?_congr (congrArg Store.records pstore) m), haway,
      hqueues.trans (congrArg Wsch.queues pwsch)⟩

/-- The entries of a record read. -/
theorem State.sub?_readRec (he : v.sub? d.sub = some x) :
    (∃ m : Money, m.balance = x.money.balance -
          (min v.plans[x.plan].receiptFee (x.money.balance - x.money.floor).toNat : Nat) ∧
        m.periodPages = x.money.periodPages ∧
        (v.readRec d).sub? d.sub = some (({ x with money := m } : Entry).without d)) ∧
      ∀ k, k ≠ d.sub → (v.readRec d).sub? k = v.sub? k := by
  by_cases h0 : v.plans[x.plan].receiptFee = 0
  · rw [State.readRec_free he h0, h0]
    refine ⟨⟨x.money, by simp, rfl, ?_⟩, fun k hk => ?_⟩
    · rw [State.sub?_freeRec, if_pos rfl, he]
      rfl
    · rw [State.sub?_freeRec, if_neg hk]
  · obtain ⟨u, m, hu, hm, hsub, hothers, -⟩ :=
      State.postCharge_posted he v.plans[x.plan].receiptFee (j := v.receiptRec d) rfl
    rw [State.readRec_charged he h0]
    generalize min v.plans[x.plan].receiptFee (x.money.balance - x.money.floor).toNat = applied at hu hm ⊢
    obtain ⟨-, -, hsubs, -⟩ := (v.postCharge d.sub v.plans[x.plan].receiptFee (v.receiptRec d)).putRec_freeRec
      (d.feePosted applied) (.read applied)
    have hpost : ∀ k, (v.postCharge d.sub v.plans[x.plan].receiptFee (v.receiptRec d)).sub? k = u.sub? k :=
      State.sub?_congr (by rw [hu]; simp)
    refine ⟨⟨m, hm.balance, hm.pages, ?_⟩, fun k hk => ?_⟩
    · refine (hsubs d.sub).trans ((if_pos rfl).trans ((congrArg (Option.map _) ((hpost d.sub).trans hsub)).trans ?_))
      rfl
    · exact (hsubs k).trans ((if_neg hk).trans ((hpost k).trans (hothers k hk)))

/-- A record read raises PAGE_READ and clears no flag. -/
theorem State.flag_readRec (he : v.sub? d.sub = some x) :
    (v.readRec d).hlc.flags[NoticeKind.pageRead.index] = true ∧
      ∀ i : Fin 18, v.hlc.flags[i] = true → (v.readRec d).hlc.flags[i] = true := by
  by_cases h0 : v.plans[x.plan].receiptFee = 0
  · rw [State.readRec_free he h0]
    exact ⟨v.flag_freeRec d (.read 0), fun i => State.flag_freeRec_mono d (.read 0)⟩
  · rw [State.readRec_charged he h0]
    exact ⟨State.flag_freeRec _ _ (.read _),
      fun i hi => State.flag_freeRec_mono _ _ (State.flag_postCharge he (Nat.pos_of_ne_zero h0) _ hi)⟩

/-- The account of a record read. -/
theorem State.acct_readRec (he : v.sub? d.sub = some x) :
    (v.plans[x.plan].receiptFee = 0 → (v.readRec d).acct = v.acct) ∧
      (v.plans[x.plan].receiptFee ≠ 0 → (v.readRec d).acct =
        (v.postCharge d.sub v.plans[x.plan].receiptFee (v.receiptRec d)).acct) := by
  refine ⟨fun h0 => ?_, fun h0 => ?_⟩
  · rw [State.readRec_free he h0]
    simp
  · rw [State.readRec_charged he h0]
    simp

/-- The journal record of a receipt fee, from a state with the account and the settings of the state before. -/
def State.receiptPosted (v : State) (d : PageRec) (x : Entry) : JournalRec :=
  let fee := v.plans[x.plan].receiptFee
  let applied := min fee (x.money.balance - x.money.floor).toNat
  { v.receiptRec d with
    amount := fee, short := fee - applied, balance := x.money.balance - applied, clamped := decide (applied < fee) }

theorem State.postCharge_receipt (he : v.sub? d.sub = some x) :
    ∃ u : State, v.postCharge d.sub v.plans[x.plan].receiptFee (v.receiptRec d) = u.journal (v.receiptPosted d x) ∧
      u.acct = v.acct ∧ u.office = v.office := by
  obtain ⟨u, m, hu, -, -, -, hrest⟩ :=
    State.postCharge_posted he v.plans[x.plan].receiptFee (j := v.receiptRec d) rfl
  exact ⟨u, hu, by rw [← hrest], by rw [← hrest]⟩

theorem State.acct_readRec_written (he : v.sub? d.sub = some x) (h0 : v.plans[x.plan].receiptFee ≠ 0)
    (h : v.office.journalMode = .overwrite ∨ v.acct.openEntries ≠ 0) :
    (v.readRec d).acct.ring.getLast? = some { v.receiptPosted d x with seq := v.acct.nextSeq } := by
  obtain ⟨u, hu, hacct, hoffice⟩ := State.postCharge_receipt he
  have hwrite := State.journal_acct (s := u) (j := v.receiptPosted d x) (.inr (by rw [hoffice, hacct]; exact h))
  obtain ⟨hlast, -⟩ := hwrite
  rw [(State.acct_readRec he).2 h0, hu, hlast, hacct]

theorem State.acct_readRec_lost (he : v.sub? d.sub = some x) (h0 : v.plans[x.plan].receiptFee ≠ 0)
    (hm : v.office.journalMode = .hold) (ho : v.acct.openEntries = 0) :
    (v.readRec d).acct = { v.acct with lost := min (v.acct.lost + 1) 65535 } ∧
      (v.readRec d).hlc.flags[NoticeKind.journalLost.index] = true := by
  obtain ⟨u, hu, hacct, hoffice⟩ := State.postCharge_receipt he
  obtain ⟨hlost, hflag⟩ := State.journal_acct_lost (s := u) (j := v.receiptPosted d x) JournalKind.noConfusion
    (hoffice ▸ hm) (hacct ▸ ho)
  rw [← hu] at hlost hflag
  refine ⟨by rw [(State.acct_readRec he).2 h0, hlost, hacct], ?_⟩
  rw [State.readRec_charged he h0]
  exact State.flag_freeRec_mono _ _ hflag

end

/-! ### The record as the READ finds it (R113) -/

/-- The record before it is read: delivered now, if it was not. -/
def PageRec.toRead (r : PageRec) : PageRec := if r.state = .delivered then r else r.asDelivered

/-- The state before the record is read. -/
def State.readFrom (u : State) (r : PageRec) (e : Entry) (p : Report) : State :=
  if r.state = .delivered then u
  else if r.state = .retryWait then
    { u.toldDelivered r e p with
      rmat := { (u.toldDelivered r e p).rmat with
        awaiting := (u.toldDelivered r e p).rmat.awaiting ++ [r.id] } }.putRec r.toRead
  else (u.toldDelivered r e p).putRec r.toRead

theorem PageRec.toRead_frame (r : PageRec) :
    r.toRead.id = r.id ∧ r.toRead.sub = r.sub ∧ r.toRead.tag = r.tag ∧ r.toRead.state = .delivered := by
  unfold PageRec.toRead
  split
  · next h => exact ⟨rfl, rfl, rfl, h⟩
  · exact ⟨rfl, rfl, rfl, rfl⟩

theorem State.readFrom_frame (u : State) (r : PageRec) (e : Entry) (p : Report) :
    (u.readFrom r e p).subs = u.subs ∧ (u.readFrom r e p).plans = u.plans ∧ (u.readFrom r e p).aclk = u.aclk ∧
      (u.readFrom r e p).acct = u.acct ∧ (u.readFrom r e p).office = u.office ∧
      (∀ m : MsgId, m.slot ≠ r.id.slot → (u.readFrom r e p).rec? m = u.rec? m) ∧
      (r.state = .retryWait → r.id ∉ (u.readFrom r e p).queue e.home) ∧
      (r.state ≠ .delivered → (u.readFrom r e p).hlc.flags[NoticeKind.pageDelivered.index] = true) := by
  obtain ⟨tsubs, tplans, tstore, taclk, -, tacct, toffice, -⟩ := u.toldDelivered_frame r e p
  obtain ⟨hid, -, -, -⟩ := r.toRead_frame
  have trecs : ∀ m, (u.toldDelivered r e p).rec? m = u.rec? m := State.rec?_congr (congrArg Store.records tstore)
  have puts : ∀ m : MsgId, m.slot ≠ r.id.slot → ((u.toldDelivered r e p).putRec r.toRead).rec? m = u.rec? m :=
    fun m hm => (State.rec?_putRec_other _ _ (by rw [hid]; exact hm)).trans (trecs m)
  have hflag := u.flag_toldDelivered r e p
  unfold State.readFrom
  split
  · next hd => exact ⟨rfl, rfl, rfl, rfl, rfl, fun _ _ => rfl, fun hq => RecState.noConfusion (hd.symm.trans hq),
      fun hn => absurd hd hn⟩
  · split
    · exact ⟨tsubs, tplans, taclk, tacct, toffice, puts, u.not_mem_queue_toldDelivered r e p, fun _ => hflag⟩
    · next hq => exact ⟨tsubs, tplans, taclk, tacct, toffice, puts, fun hq' => absurd hq' hq, fun _ => hflag⟩

theorem State.readReport_reads {u : State} {n : Nat} {p : Report} {r : PageRec} {x e : Entry}
    (ht : u.tagHolder n p.tag = some r) (hx : u.sub? r.sub = some x) (hh : x.home = e.home)
    (hst : r.state = .awaiting ∧ r.cancelled = false ∨ r.state = .retryWait ∨
      r.state = .delivered ∧ r.id ∈ u.rmat.awaiting) :
    u.readReport n p = (u.readFrom r e p).readRec r.toRead := by
  have deliver : r.state = .awaiting ∧ r.cancelled = false ∨ r.state = .retryWait → r.state ≠ .delivered →
      u.readReport n p = (u.readFrom r e p).readRec r.toRead := fun hout hd => by
    rw [State.readReport_out ht hout]
    have htold := State.raise_unfile_eq p hx hh
    unfold State.deliverRead State.readFrom PageRec.toRead
    simp only [if_neg hd]
    by_cases hq : r.state = .retryWait
    · rw [if_pos hq] at htold
      simp only [if_pos hq, htold]
      rfl
    · rw [if_neg hq] at htold
      simp only [if_neg hq, htold]
      rfl
  rcases hst with ⟨hst, hc⟩ | hst | ⟨hst, hin⟩
  · exact deliver (.inl ⟨hst, hc⟩) (by rw [hst]; decide)
  · exact deliver (.inr hst) (by rw [hst]; decide)
  · rw [State.readReport_delivered ht hst, if_pos hin]
    unfold State.readFrom PageRec.toRead
    rw [if_pos hst, if_pos hst]

/-- Settles O49: the record read, from the state that its delivery leaves. -/
theorem readTakesReceipt : Obligations.ReadTakesReceipt := by
  unfold Obligations.ReadTakesReceipt
  intro s p rest n e r h htag hr hk hst fee applied u d out v posted q
  obtain ⟨-, hsub, htagged⟩ := State.tagHolder_eq_some htag
  have hx : u.sub? r.sub = some (e.heardIn p.zone) := by rw [State.sub?_heardFrom, if_pos hsub]
  obtain ⟨hid, hdsub, hdtag, hdst⟩ : d.id = r.id ∧ d.sub = r.sub ∧ d.tag = r.tag ∧ d.state = .delivered :=
    r.toRead_frame
  obtain ⟨vsubs, vplans, vaclk, vacct, voffice, vrecs, vqueue, vflag⟩ :
      v.subs = u.subs ∧ v.plans = u.plans ∧ v.aclk = u.aclk ∧ v.acct = u.acct ∧ v.office = u.office ∧
      (∀ m : MsgId, m.slot ≠ r.id.slot → v.rec? m = u.rec? m) ∧ (r.state = .retryWait → r.id ∉ v.queue e.home) ∧
      (r.state ≠ .delivered → v.hlc.flags[NoticeKind.pageDelivered.index] = true) := u.readFrom_frame r e p
  have hv : v.sub? d.sub = some (e.heardIn p.zone) := by rw [State.sub?_congr vsubs, hdsub, hx]
  have hfee : v.plans[(e.heardIn p.zone).plan].receiptFee = fee := by rw [vplans]; rfl
  have hexec : exec .reportTake s = .next (v.readRec d).settle := by
    rw [exec_reportTake_read h hk, State.readReport_reads (u := u) (e := e) htag hx rfl hst]
    rfl
  obtain ⟨hnone, hrecs, haway, hqueues⟩ := State.readRec_places hv hdst
  obtain ⟨⟨m, hbalance, hpages, hentry⟩, hothers⟩ := State.sub?_readRec hv
  obtain ⟨hread, hflags⟩ := State.flag_readRec hv
  obtain ⟨hfree, -⟩ := State.acct_readRec hv
  rw [hid] at hnone hrecs haway
  rw [hdsub, hsub] at hentry hothers
  rw [hfee] at hbalance hfree
  refine ⟨(v.readRec d).settle, _, hexec, ?shape, hnone, haway, fun hq => ?queue, fun hd => ?told, ?read, hentry, rfl,
    rfl, ?tags, hbalance, hpages, fun h0 => (hfree h0).trans vacct, fun h0 h => ?written, fun h0 hm ho => ?lost,
    fun m hm => (hrecs m hm).trans (vrecs m hm), fun k hk => ?others⟩
  case shape =>
    refine congrArg State.settle ?_
    have hrec : v.receiptRec d =
        { seq := 0, kind := .receipt, sub := n, round := s.aclk.round, window := s.aclk.window, amount := 0, short := 0
          balance := 0, waived := false, late := false, clamped := false, msg := some r.id, air := none, ref := none
          period := none } := by
      unfold State.receiptRec blankRec
      rw [hdsub, hsub, hid, vaclk]
      rfl
    by_cases h0 : fee = 0
    · exact (State.readRec_free hv (hfee.trans h0)).trans (if_pos h0).symm
    · have hcharged := State.readRec_charged hv (by rw [hfee]; exact h0)
      simp only [hfee, hrec, hdsub, hsub] at hcharged
      exact hcharged.trans (if_neg h0).symm
  case queue =>
    show r.id ∉ (v.readRec d).queue e.home
    rw [State.queue_congr hqueues]
    exact vqueue hq
  case told =>
    rw [State.settle_hlc, Hlc.settle_flags]
    exact hflags _ (vflag hd)
  case read =>
    rw [State.settle_hlc, Hlc.settle_flags]
    exact hread
  case tags =>
    unfold Entry.without
    rw [hdtag, htagged]
    rfl
  case written =>
    have hlast := State.acct_readRec_written hv (by rw [hfee]; exact Nat.ne_of_gt h0) (by rw [voffice, vacct]; exact h)
    refine ⟨_, hlast, congrArg Acct.nextSeq vacct, rfl, hdsub.trans hsub, congrArg some hid, ?_, ?_, ?_⟩
    · exact congrArg Int.ofNat hfee
    · simp only [State.receiptPosted, hfee]
      rfl
    · simp only [State.receiptPosted, hfee]
      rfl
  case lost =>
    obtain ⟨hlost, hflag⟩ := State.acct_readRec_lost hv (by rw [hfee]; exact Nat.ne_of_gt h0) (by rw [voffice]; exact hm)
      (by rw [vacct]; exact ho)
    rw [State.settle_hlc, Hlc.settle_flags, State.settle_acct, hlost, vacct]
    exact ⟨rfl, hflag⟩
  case others =>
    refine (hothers k hk).trans ((State.sub?_congr vsubs k).trans ?_)
    rw [State.sub?_heardFrom, if_neg hk]

end Sys2Proof.Machine
end

section
/-! The walk of a build: the record it reaches, and what keeps a record from being placed (O30). -/

namespace Sys2Proof.Machine

/-! ### The record the walk reaches (R73) -/

/-- The first element of a list for whose image a test holds. -/
theorem find?_filterMap_eq_some_iff {α β : Type} {f : α → Option β} {p : β → Bool} {l : List α} {b : β} :
    (l.filterMap f).find? p = some b ↔
      ∃ before a after, l = before ++ a :: after ∧ f a = some b ∧ p b = true ∧
        ∀ x ∈ before, ∀ y, f x = some y → p y = false := by
  constructor
  · intro h
    rw [List.find?_filterMap] at h
    obtain ⟨a, ha, hfa⟩ := Option.bind_eq_some_iff.mp h
    obtain ⟨hp, before, after, hl, hbefore⟩ := List.find?_eq_some_iff_append.mp ha
    rw [hfa] at hp
    refine ⟨before, a, after, hl, hfa, by simpa using hp, fun x hx y hy => ?_⟩
    have hno := hbefore x hx
    rw [hy] at hno
    simpa using hno
  · rintro ⟨before, a, after, rfl, hfa, hp, hbefore⟩
    rw [List.filterMap_append, List.filterMap_cons_some hfa, List.find?_append, List.find?_eq_none.mpr, Option.none_or,
      List.find?_cons_of_pos hp]
    intro y hy
    obtain ⟨x, hx, hxy⟩ := List.mem_filterMap.mp hy
    rw [hbefore x hx y hxy]
    exact Bool.false_ne_true

theorem find?_filterMap_eq_none_iff {α β : Type} {f : α → Option β} {p : β → Bool} {l : List α} :
    (l.filterMap f).find? p = none ↔ ∀ x ∈ l, ∀ y, f x = some y → p y = false := by
  rw [List.find?_eq_none]
  constructor
  · intro h x hx y hy
    exact Bool.eq_false_iff.mpr (h y (List.mem_filterMap.mpr ⟨x, hx, hy⟩))
  · intro h y hy
    obtain ⟨x, hx, hxy⟩ := List.mem_filterMap.mp hy
    exact Bool.eq_false_iff.mp (h x hx y hxy)

theorem Build.beyond_iff (b : Build) (x : PageRec) :
    b.beyond x = true ↔
      ∀ p, b.reached = some p → x.pri < p.pri ∨ x.pri = p.pri ∧ older p.seq x.seq = true := by
  unfold Build.beyond
  cases b.reached with
  | none => simp
  | some p =>
    show p.ahead x.queuePlace = true ↔ ∀ q, some p = some q → _
    simp only [QueuePlace.ahead, PageRec.queuePlace, Bool.or_eq_true, Bool.and_eq_true, beq_iff_eq,
      Option.some.injEq, forall_eq', eq_comm (a := p.pri)]
    exact or_congr_left decide_eq_true_iff

/-! ### The steps of the walk (R74 to R81) -/

theorem Entry.freeTag_eq_none_iff (e : Entry) : e.freeTag = none ↔ ∀ g : PageTag, g ∈ e.tags := by
  unfold Entry.freeTag allTags
  simp

theorem State.roomToPlace_eq_false_iff (s : State) :
    s.roomToPlace = false ↔ s.office.journalMode = .hold ∧ s.acct.freeEntries < 64 + s.acct.airReserved + 1 := by
  unfold State.roomToPlace
  cases s.office.journalMode <;> simp [Config.reserve]

theorem exec_walkRecord_of_reaches {s : State} {b : Build} {r : PageRec} {e : Entry} (h : s.Reaches b r e) :
    exec .walkRecord s = .next (s.walk b r).settle := by
  obtain ⟨hb, hend, hnext, -⟩ := h
  show execWalkRecord s = _
  unfold execWalkRecord
  rw [hb]
  simp only [hend, hnext]
  rfl

section
variable {s : State} {b : Build} {r : PageRec} {e : Entry}

/-- The build once it has reached a record. -/
def Build.reaching (b : Build) (r : PageRec) : Build := { b with reached := some { pri := r.pri, seq := r.seq } }

theorem State.walk_suspended (he : s.sub? r.sub = some e) (hst : e.state = .suspended) :
    s.walk b r = s.reachedAt (b.reaching r) := by
  have he' : (s.setBuild { b with reached := some r.queuePlace }).sub? r.sub = some e := he
  unfold State.walk
  simp only [he', hst]
  rfl

theorem State.walk_skipped (he : s.sub? r.sub = some e) (hst : e.state = .active) (hs : 0 < r.skip) :
    s.walk b r = (s.reachedAt (b.reaching r)).putRec { r with skip := r.skip - 1 } := by
  have he' : (s.setBuild { b with reached := some r.queuePlace }).sub? r.sub = some e := he
  unfold State.walk
  simp only [he', hst, if_pos hs]
  rfl

theorem State.walk_offered (he : s.sub? r.sub = some e) (hst : e.state = .active) (hs : r.skip = 0) :
    s.walk b r = (s.reachedAt (b.reaching r)).offer (b.reaching r) r e := by
  have he' : (s.setBuild { b with reached := some r.queuePlace }).sub? r.sub = some e := he
  unfold State.walk
  simp only [he', hst, if_neg (show ¬ 0 < r.skip by omega)]
  rfl

theorem State.offer_closed (h : b.closed = true) : s.offer b r e = s.deferred r := if_pos h

section
variable (hc : b.closed = false)
include hc

theorem State.offer_open : s.offer b r e =
    if reducedZones s.office.zoneMemory r e b.image = [] then s.deferred r
    else if e.kind = .twoWay ∧ r.tag = none ∧ e.freeTag = none then s.deferred r
    else if s.roomToPlace = false then (s.deferred r).setBuild { b with closed := true }
    else if b.image.layout = .degraded ∧ 30 < r.blocks then s.deferOversize r
    else
      match b.image.runs (reducedZones s.office.zoneMemory r e b.image) r.blocks with
      | none => s.deferred r
      | some runs => s.placeRec b r e (reducedZones s.office.zoneMemory r e b.image) runs := by
  refine (if_neg (by rw [hc]; exact Bool.false_ne_true)).trans ?_
  rfl

theorem State.offer_unzoned (hz : reducedZones s.office.zoneMemory r e b.image = []) : s.offer b r e = s.deferred r := by
  rw [State.offer_open hc, if_pos hz]

variable (hz : reducedZones s.office.zoneMemory r e b.image ≠ [])
include hz

theorem State.offer_untagged (ht : e.kind = .twoWay ∧ r.tag = none ∧ e.freeTag = none) :
    s.offer b r e = s.deferred r := by
  rw [State.offer_open hc, if_neg hz, if_pos ht]

variable (ht : ¬ (e.kind = .twoWay ∧ r.tag = none ∧ e.freeTag = none))
include ht

theorem State.offer_no_room (hr : s.roomToPlace = false) :
    s.offer b r e = (s.deferred r).setBuild { b with closed := true } := by
  rw [State.offer_open hc, if_neg hz, if_neg ht, if_pos hr]

variable (hr : s.roomToPlace ≠ false)
include hr

theorem State.offer_oversize (ho : b.image.layout = .degraded ∧ 30 < r.blocks) :
    s.offer b r e = s.deferOversize r := by
  rw [State.offer_open hc, if_neg hz, if_neg ht, if_neg hr, if_pos ho]

variable (ho : ¬ (b.image.layout = .degraded ∧ 30 < r.blocks))
include ho

theorem State.offer_no_run (hn : b.image.runs (reducedZones s.office.zoneMemory r e b.image) r.blocks = none) :
    s.offer b r e = s.deferred r := by
  rw [State.offer_open hc, if_neg hz, if_neg ht, if_neg hr, if_neg ho, hn]

theorem State.offer_placed {runs : List (Zone × Nat)}
    (hn : b.image.runs (reducedZones s.office.zoneMemory r e b.image) r.blocks = some runs) :
    s.offer b r e = s.placeRec b r e (reducedZones s.office.zoneMemory r e b.image) runs := by
  rw [State.offer_open hc, if_neg hz, if_neg ht, if_neg hr, if_neg ho, hn]

end

theorem State.deferOversize_told (h : r.id ∈ s.wsch.oversize) : s.deferOversize r = s.deferred r := if_pos h

theorem State.deferOversize_new (h : r.id ∉ s.wsch.oversize) :
    s.deferOversize r = State.raise { s.deferred r with wsch := { (s.deferred r).wsch with
        oversize := s.wsch.oversize ++ [r.id] } } .oversize [(str "MSG", .msg r.id), (str "N", .num r.blocks)] :=
  if_neg h

end

/-- Settles O30: the record reached, and the branches of the walk that defer it. -/
theorem walkPassesSkipsDefers : Obligations.WalkPassesSkipsDefers := by
  unfold Obligations.WalkPassesSkipsDefers
  refine ⟨fun s b r e h => ?passes, fun s b r e h hst hs => ?defers, fun s b => ?reaches⟩
  case passes =>
    intro b'
    have ⟨_, _, _, he⟩ := h
    refine ⟨fun hst => ?_, fun hst hs => ?_⟩
    · rw [exec_walkRecord_of_reaches h, State.walk_suspended he hst]
      rfl
    · rw [exec_walkRecord_of_reaches h, State.walk_skipped he hst hs]
      rfl
  case defers =>
    intro b' zones noTag noRoom oversize
    have ⟨_, _, _, he⟩ := h
    let u := s.reachedAt b'
    have hexec : exec .walkRecord s = .next (u.offer b' r e).settle := by
      rw [exec_walkRecord_of_reaches h, State.walk_offered he hst hs]
      rfl
    have htag : noTag ↔ e.kind = .twoWay ∧ r.tag = none ∧ e.freeTag = none := by rw [Entry.freeTag_eq_none_iff]
    have hroom : u.roomToPlace = false ↔ noRoom := u.roomToPlace_eq_false_iff
    rw [hexec]
    refine ⟨fun hc => by rw [State.offer_closed (b := b') hc], fun hc h => ?_, fun hc hz ht hr => ?_, fun hc hz ht hr ho hin => ?_,
      fun hc hz ht hr ho hin => ?_, fun hc hz ht hr ho hn => ?_⟩
    · by_cases hz : zones = []
      · rw [State.offer_unzoned (s := u) (b := b') hc hz]
      · rw [State.offer_untagged (s := u) (b := b') hc hz (htag.mp (h.resolve_left hz))]
    · rw [State.offer_no_room (s := u) (b := b') hc hz (fun h => ht (htag.mpr h)) (hroom.mpr hr)]
      rfl
    · rw [State.offer_oversize (s := u) (b := b') hc hz (fun h => ht (htag.mpr h)) (fun h => hr (hroom.mp h)) ho,
        State.deferOversize_told (s := u) hin]
    · intro d
      rw [State.offer_oversize (s := u) (b := b') hc hz (fun h => ht (htag.mpr h)) (fun h => hr (hroom.mp h)) ho,
        State.deferOversize_new (s := u) hin]
      rfl
    · rw [State.offer_no_run (s := u) (b := b') hc hz (fun h => ht (htag.mpr h)) (fun h => hr (hroom.mp h)) ho hn]
  case reaches =>
    intro left
    have hleft : ∀ x, left x ↔ b.beyond x = true := fun x => (b.beyond_iff x).symm
    have hnot : ∀ x, ¬ left x ↔ b.beyond x = false := fun x => by rw [hleft, Bool.not_eq_true]
    refine ⟨fun r h => ?_, fun r before after hl hr hp hbefore => ?_, ?_⟩
    · obtain ⟨before, m, after, hl, hr, hp, hbefore⟩ := find?_filterMap_eq_some_iff.mp h
      obtain rfl := State.rec?_id hr
      exact ⟨hr, (hleft r).mpr hp, before, after, hl, fun x hx y hy => (hnot y).mpr (hbefore x hx y hy)⟩
    · exact find?_filterMap_eq_some_iff.mpr
        ⟨before, r.id, after, hl, hr, (hleft r).mp hp, fun x hx y hy => (hnot y).mp (hbefore x hx y hy)⟩
    · refine find?_filterMap_eq_none_iff.trans ?_
      simp only [hnot]

end Sys2Proof.Machine
end

section
/-! Placement by the walk (O31). -/

namespace Sys2Proof.Machine

/-! ### Tags (R7, R82) -/

/-- The tag given is the lowest not held. -/
theorem Entry.freeTag_eq_some_iff (e : Entry) (g : PageTag) :
    e.freeTag = some g ↔ g ∉ e.tags ∧ ∀ x, x < g → x ∈ e.tags := by
  unfold Entry.freeTag allTags
  rw [List.find?_eq_some_iff_getElem]
  refine and_congr (by simp) ⟨?_, fun h => ⟨g.val, by simp, by simp, fun j hj => ?_⟩⟩
  · rintro ⟨i, hi, hg, hlow⟩ x hx
    have hig : i = g.val := by rw [← hg, List.getElem_finRange]; rfl
    simpa using hlow x.val (hig ▸ hx)
  · simpa using h ⟨j, by omega⟩ hj

theorem placementTag_eq (r : PageRec) (e : Entry) :
    placementTag r e = if e.kind = .twoWay ∧ r.tag = none then e.freeTag else r.tag := by
  unfold placementTag
  cases e.kind <;> cases r.tag <;> simp

/-! ### The image (R82 step 5) -/

theorem insertPlace_perm (q : PagePlace) (l : List PagePlace) : (insertPlace q l).Perm (q :: l) := by
  induction l with
  | nil => exact List.Perm.refl _
  | cons x xs ih =>
    unfold insertPlace
    split
    · exact List.Perm.refl _
    · exact (ih.cons x).trans (List.Perm.swap q x xs)

/-- A list ordered by position stays so. -/
theorem insertPlace_ordered (q : PagePlace) {l : List PagePlace} (h : l.Pairwise (fun a b => a.first ≤ b.first)) :
    (insertPlace q l).Pairwise (fun a b => a.first ≤ b.first) := by
  induction l with
  | nil => exact List.pairwise_singleton _ _
  | cons x xs ih =>
    obtain ⟨hx, hxs⟩ := List.pairwise_cons.mp h
    unfold insertPlace
    split
    · next hq =>
      refine List.pairwise_cons.mpr ⟨fun y hy => ?_, h⟩
      rcases List.mem_cons.mp hy with rfl | hy
      · exact Nat.le_of_lt hq
      · exact Nat.le_trans (Nat.le_of_lt hq) (hx y hy)
    · next hq =>
      refine List.pairwise_cons.mpr ⟨fun y hy => ?_, ih hxs⟩
      rcases List.mem_cons.mp ((insertPlace_perm q xs).mem_iff.mp hy) with rfl | hy
      · exact Nat.le_of_not_lt hq
      · exact hx y hy

/-- The placement lists with a page put in at its runs. -/
def placedPages (m : MsgId) (n : Nat) (pages : Vector (List PagePlace) 8) (runs : List (Zone × Nat)) :
    Vector (List PagePlace) 8 :=
  runs.foldl (fun (pages : Vector (List PagePlace) 8) (zp : Zone × Nat) =>
    pages.set zp.1 (insertPlace { first := zp.2, id := m, blocks := n } pages[zp.1])) pages

theorem Image.placed_eq (im : Image) (m : MsgId) (n : Nat) (runs : List (Zone × Nat)) :
    im.placed m n runs = { im with pages := placedPages m n im.pages runs, order := im.order ++ [m] } := rfl

section
variable {m : MsgId} {n : Nat}

theorem placedPages_cons (pages : Vector (List PagePlace) 8) (zp : Zone × Nat) (runs : List (Zone × Nat)) :
    placedPages m n pages (zp :: runs) =
      placedPages m n (pages.set zp.1 (insertPlace { first := zp.2, id := m, blocks := n } pages[zp.1])) runs := rfl

/-- A zone without a run keeps its list. -/
theorem placedPages_of_no_run {z : Zone} {runs : List (Zone × Nat)} (h : ∀ p, (z, p) ∉ runs)
    (pages : Vector (List PagePlace) 8) : (placedPages m n pages runs)[z] = pages[z] := by
  induction runs generalizing pages with
  | nil => rfl
  | cons zp runs ih =>
    have hz : zp.1 ≠ z := fun hz => h zp.2 (List.mem_cons.mpr (.inl (by rw [← hz])))
    rw [placedPages_cons, ih (fun p hp => h p (List.mem_cons_of_mem _ hp))]
    exact Vector.getElem_set_ne _ _ fun hv => hz (Fin.ext hv)

/-- A zone with a run takes the page there. -/
theorem placedPages_of_run {z : Zone} {p : Nat} {runs : List (Zone × Nat)} (hd : (runs.map Prod.fst).Nodup)
    (h : (z, p) ∈ runs) (pages : Vector (List PagePlace) 8) :
    (placedPages m n pages runs)[z] = insertPlace { first := p, id := m, blocks := n } pages[z] := by
  induction runs generalizing pages with
  | nil => cases h
  | cons zp runs ih =>
    rw [List.map_cons, List.nodup_cons] at hd
    obtain ⟨hnew, hd⟩ := hd
    rw [placedPages_cons]
    rcases List.mem_cons.mp h with rfl | h
    · rw [placedPages_of_no_run fun q hq => hnew (List.mem_map.mpr ⟨_, hq, rfl⟩)]
      simp
    · have hz : zp.1 ≠ z := fun hz => hnew (List.mem_map.mpr ⟨_, h, hz.symm⟩)
      rw [ih hd h]
      exact congrArg _ (Vector.getElem_set_ne _ _ fun hv => hz (Fin.ext hv))

end

/-! ### The record placed (R82) -/

section
variable (s : State) (b : Build) (r : PageRec) {e : Entry} (zones : ZoneSet) (runs : List (Zone × Nat))

/-- What a placement changes: the record, the entry's tags, the queue of the record, and the build. -/
theorem State.placeRec_parts (he : s.sub? r.sub = some e) :
    (s.placeRec b r e zones runs).store =
        (s.putRec (r.placedIn b.image zones runs (placementTag r e))).store ∧
      (∀ k, (s.placeRec b r e zones runs).sub? k =
        if k = r.sub then some (e.tagged (placementTag r e)) else s.sub? k) ∧
      (s.placeRec b r e zones runs).wsch =
        { (s.unfile r).wsch with build := some { b with image := b.image.placed r.id r.blocks runs } } := by
  have hsub : ∀ k, ((s.unfile r).putRec (r.placedIn b.image zones runs (placementTag r e))).sub? k = s.sub? k :=
    State.sub?_congr (by simp)
  unfold State.placeRec State.setBuild
  cases placementTag r e with
  | none =>
    refine ⟨by simp [State.putRec], fun k => ?_, by simp⟩
    refine (State.sub?_congr (s := s) (by simp) k).trans ?_
    split
    · next hk => rw [hk, he]; rfl
    · rfl
  | some g =>
    refine ⟨by simp [State.putRec], fun k => ?_, by simp⟩
    refine (State.sub?_congr (s := s.setSub r.sub (e.holdTag g)) (by simp [State.setSub]) k).trans ?_
    exact s.sub?_setSub _ _ _

theorem State.reserveAir_acct : s.reserveAir.acct = { s.acct with
    airReserved := if s.office.journalMode = .hold then s.acct.airReserved + 1 else s.acct.airReserved } := by
  unfold State.reserveAir
  cases s.office.journalMode <;> rfl

end

/-- Settles O31: the placement by its parts, the lowest tag free, and the lists of the image. -/
theorem walkPlaces : Obligations.WalkPlaces := by
  unfold Obligations.WalkPlaces
  refine ⟨fun s b r e runs h hst hs hc hslot => ?places, fun e => ⟨e.freeTag_eq_some_iff, e.freeTag_eq_none_iff⟩,
    fun im m n runs hd => ?image⟩
  case places =>
    intro zones hz ht hroom ho hruns tag
    have ⟨_, hend, _, he⟩ := h
    let u := s.reachedAt (b.reaching r)
    have hu : u.sub? r.sub = some e := he
    have hr : u.roomToPlace ≠ false := fun hno => by
      obtain ⟨hm, hlt⟩ := u.roomToPlace_eq_false_iff.mp hno
      exact Nat.not_lt.mpr (hroom hm) hlt
    have hexec : exec .walkRecord s = .next (u.placeRec (b.reaching r) r e zones runs).settle := by
      rw [exec_walkRecord_of_reaches h, State.walk_offered he hst hs,
        State.offer_placed (s := u) (b := b.reaching r) hc hz ht hr ho hruns]
      rfl
    have htag : placementTag r e = tag := placementTag_eq r e
    obtain ⟨hstore, hsubs, hwsch⟩ := u.placeRec_parts (b.reaching r) r zones runs hu
    rw [htag] at hstore hsubs
    obtain ⟨hhlc, hplans, haclk, htxi, hrxi, hrmat, hrate, hoffice, -, -⟩ :=
      u.placeRec_frame (b.reaching r) r e zones runs
    obtain ⟨-, hair, hover, hdef⟩ := u.unfile_wsch r
    have hqueue : ∀ w, (u.placeRec (b.reaching r) r e zones runs).queue w =
        if w = e.home then (s.queue e.home).filter (fun m => m != r.id) else s.queue w := fun w =>
      (State.queue_congr (congrArg Wsch.queues hwsch :) w).trans (u.queue_unfile hu w)
    have hrecs : ∀ m, (u.placeRec (b.reaching r) r e zones runs).rec? m =
        (u.putRec (r.placedIn b.image zones runs tag)).rec? m := State.rec?_congr (congrArg Store.records hstore)
    refine ⟨_, hexec, (hrecs r.id).trans (State.rec?_putRec_self u (r.placedIn b.image zones runs tag)),
      fun m hm => (hrecs m).trans (State.rec?_putRec_other u (r.placedIn b.image zones runs tag) hm), ?leaves,
      fun m hm => ?stays, fun w hw => (hqueue w).trans (if_neg hw), ?build, fun g hg => ?tagged, fun hnone => ?untagged,
      fun m hm => (hsubs m).trans (if_neg hm), ?acct, (congrArg Wsch.oversize hwsch).trans hover,
      (congrArg Wsch.deferrals hwsch).trans hdef, (congrArg Wsch.onAir hwsch).trans hair, hplans, haclk, htxi, hrxi, hrmat,
      hrate, hoffice, ?flags⟩
    case leaves =>
      show r.id ∉ (u.placeRec (b.reaching r) r e zones runs).queue e.home
      rw [hqueue, if_pos rfl]
      simp
    case stays =>
      show m ∈ (u.placeRec (b.reaching r) r e zones runs).queue e.home ↔ _
      rw [hqueue, if_pos rfl]
      simp [hm]
    case build =>
      refine (congrArg Wsch.build hwsch).trans ?_
      simp only [Build.reaching, hc, hend]
    case tagged =>
      refine ⟨e.holdTag g, (hsubs r.sub).trans ((if_pos rfl).trans (by rw [hg]; rfl)), e.mem_holdTag g, rfl⟩
    case untagged => exact (hsubs r.sub).trans ((if_pos rfl).trans (by rw [hnone]; rfl))
    case acct =>
      rw [State.settle_acct, State.acct_placeRec, State.reserveAir_acct]
      rfl
    case flags =>
      rw [State.settle_hlc, Hlc.settle_flags, hhlc]
      rfl
  case image =>
    intro im'
    have him : im' = _ := im.placed_eq m n runs
    refine ⟨by rw [him], fun z p hp => ?_, fun z hz => ?_⟩
    · have hpages : im'.pages[z] = _ := placedPages_of_run hd hp im.pages
      rw [hpages]
      exact ⟨insertPlace_perm _ _, insertPlace_ordered _⟩
    · exact placedPages_of_no_run hz im.pages

end Sys2Proof.Machine
end

section
/-! The zone set and the runs of a page (O32), and the orders of a built image (O33). -/

namespace Sys2Proof.Machine

/-! ### The zone set (R76) -/

theorem Image.inService_iff (im : Image) (z : Zone) : im.inService z = true ↔ im.view[z].state = .inService := beq_iff_eq

theorem mem_attemptZones_first (zm : Nat) (e : Entry) (im : Image) (z : Zone) :
    z ∈ attemptZones zm 1 e im ↔
      (∃ h, e.heard = some h ∧ h.age ≤ zm ∧ im.view[h.zone].state = .inService ∧ z = h.zone) ∨
        ((∀ h, e.heard = some h → zm < h.age ∨ im.view[h.zone].state ≠ .inService) ∧ z ∈ e.zones) := by
  unfold attemptZones
  rw [if_pos rfl]
  cases e.heard with
  | none => simp
  | some h =>
    by_cases hz : h.age ≤ zm ∧ im.view[h.zone].state = .inService
    · have hno : ¬ (zm < h.age ∨ im.view[h.zone].state ≠ .inService) := fun hn =>
        hn.elim (Nat.not_lt.mpr hz.1) fun hn => hn hz.2
      simp only [Image.inService_iff, if_pos hz, Option.some.injEq, exists_eq_left', forall_eq', hno, false_and, or_false,
        List.mem_singleton]
      exact ⟨fun h => ⟨hz.1, hz.2, h⟩, fun ⟨_, _, h⟩ => h⟩
    · have hyes : zm < h.age ∨ im.view[h.zone].state ≠ .inService := by
        rw [← Nat.not_le]
        exact not_and_or.mp hz
      simp only [Image.inService_iff, if_neg hz, Option.some.injEq, exists_eq_left', forall_eq', hyes, true_and]
      rw [← and_assoc, or_iff_right fun hn => hz hn.1]

theorem mem_reducedZones (zm : Nat) (r : PageRec) (e : Entry) (im : Image) (z : Zone) :
    z ∈ reducedZones zm r e im ↔ im.view[z].state = .inService ∧ z ∈ attemptZones zm (r.count + 1) e im := by
  unfold reducedZones
  rw [List.mem_filter, Image.inService_iff, and_comm]

theorem attemptZones_second (zm : Nat) (e : Entry) (im : Image) : attemptZones zm 2 e im = e.zones := rfl

theorem mem_attemptZones_later (zm k : Nat) (e : Entry) (im : Image) (z : Zone) (h1 : k ≠ 1) (h2 : k ≠ 2) :
    z ∈ attemptZones zm k e im := by
  unfold attemptZones
  rw [if_neg h1, if_neg h2]
  exact List.mem_finRange z

/-! ### Runs (R79, R80) -/

theorem Image.runFree_iff (im : Image) (z : Zone) (p n : Nat) :
    im.runFree z p n = true ↔ ∀ q ∈ im.pages[z], q.first + q.blocks ≤ p ∨ p + n ≤ q.first := by
  unfold Image.runFree
  simp

theorem lowestRun_eq_some {lo hi n p : Nat} {free : Nat → Bool} (h : lowestRun lo hi n free = some p) :
    lo ≤ p ∧ p + n ≤ hi + 1 ∧ free p = true ∧ ∀ q, lo ≤ q → q < p → free q = false := by
  unfold lowestRun at h
  obtain ⟨hp, i, hi', hget, hlow⟩ := List.find?_eq_some_iff_getElem.mp h
  rw [List.length_map, List.length_range] at hi'
  rw [List.getElem_map, List.getElem_range] at hget
  refine ⟨by omega, by omega, hp, fun q hq hlt => ?_⟩
  have hno := hlow (q - lo) (by omega)
  rw [List.getElem_map, List.getElem_range, Nat.add_sub_cancel' hq] at hno
  simpa using hno

theorem lowestRun_eq_none {lo hi n : Nat} {free : Nat → Bool} (h : lowestRun lo hi n free = none) (p : Nat)
    (hlo : lo ≤ p) (hhi : p + n ≤ hi + 1) : free p = false := by
  have hno := List.find?_eq_none.mp h p
    (List.mem_map.mpr ⟨p - lo, List.mem_range.mpr (by omega), Nat.add_sub_cancel' hlo⟩)
  simpa using hno

/-- The run in one zone names that zone. -/
theorem Image.zoneRun_eq_some {im : Image} {n : Nat} {z : Zone} {zp : Zone × Nat} (h : im.zoneRun n z = some zp) :
    zp.1 = z ∧ lowestRun (usableRange .degraded (im.zone z).color).1 (usableRange .degraded (im.zone z).color).2 n
      (fun p => im.runFree z p n) = some zp.2 := by
  unfold Image.zoneRun at h
  obtain ⟨p, hp, rfl⟩ := Option.map_eq_some_iff.mp h
  exact ⟨rfl, hp⟩

/-- The half of a color (R50). -/
theorem usableRange_degraded (c : Color) :
    usableRange .degraded c = ((match c with | .a => 2 | .b => 34), (match c with | .a => 2 | .b => 34) + 29) := by
  cases c <;> rfl

theorem mapM_eq_some_iff_keyed {α β : Type} {f : α → Option (α × β)} (hf : ∀ a x, f a = some x → x.1 = a) (l : List α)
    (out : List (α × β)) : l.mapM f = some out ↔ out.map Prod.fst = l ∧ ∀ x ∈ out, f x.1 = some x := by
  induction l generalizing out with
  | nil =>
    cases out with
    | nil => simp
    | cons x xs => simp
  | cons a l ih =>
    rw [List.mapM_cons]
    constructor
    · intro h
      obtain ⟨x, hx, h⟩ := Option.bind_eq_some_iff.mp h
      obtain ⟨rest, hrest, h⟩ := Option.bind_eq_some_iff.mp h
      obtain rfl := Option.some.inj h
      obtain ⟨hkeys, hall⟩ := (ih rest).mp hrest
      obtain rfl := hf a x hx
      exact ⟨by rw [List.map_cons, hkeys], List.forall_mem_cons.mpr ⟨hx, hall⟩⟩
    · rintro ⟨hkeys, hall⟩
      cases out with
      | nil => cases hkeys
      | cons x xs =>
        obtain ⟨rfl, hrest⟩ := List.cons.inj hkeys
        obtain ⟨hx, hxs⟩ := List.forall_mem_cons.mp hall
        rw [hx, (ih xs).mpr ⟨hrest, hxs⟩]
        rfl

theorem mapM_eq_none_iff {α β : Type} {f : α → Option β} (l : List α) : l.mapM f = none ↔ ∃ a ∈ l, f a = none := by
  induction l with
  | nil => simp
  | cons a l ih =>
    rw [List.mapM_cons, List.exists_mem_cons_iff, ← ih]
    cases f a <;> cases l.mapM f <;> simp

/-- Settles O32: the zone set, the lowest run, and one run in each zone or none. -/
theorem zonesAndRuns : Obligations.ZonesAndRuns := by
  unfold Obligations.ZonesAndRuns
  refine ⟨fun zm r e im z => ?zones, fun im zones n hl hn => ?locked, fun im z n hn => ?half, fun im zones n hd => ?degraded,
    Image.runFree_iff⟩
  case zones =>
    rw [mem_reducedZones]
    refine and_congr_right fun _ => ?_
    split
    · next h => rw [h]; exact mem_attemptZones_first zm e im z
    · next h1 =>
      split
      · next h2 => rw [h2, attemptZones_second]
      · next h2 => exact iff_true_intro (mem_attemptZones_later zm _ e im z h1 h2)
  case locked =>
    have hruns : im.runs zones n = im.lockedRuns zones n := by unfold Image.runs; rw [hl]
    have hfree : ∀ q, (zones.all fun z => im.runFree z q n) = false → ∃ z ∈ zones, im.runFree z q n = false := fun q h => by
      simpa using h
    rw [hruns]
    refine ⟨fun runs h => ?_, fun h p hlo hhi => hfree p ?_⟩
    · obtain ⟨p, hp, rfl⟩ := Option.map_eq_some_iff.mp h
      obtain ⟨hlo, hhi, hall, hlow⟩ := lowestRun_eq_some hp
      exact ⟨p, hlo, hhi, rfl, List.all_eq_true.mp hall, fun q hq hlt => hfree q (hlow q hq hlt)⟩
    · exact lowestRun_eq_none (Option.map_eq_none_iff.mp h) p hlo hhi
  case half =>
    intro lo
    have hrange : usableRange .degraded (im.zone z).color = (lo, lo + 29) := usableRange_degraded _
    refine ⟨fun zp h => ?_, fun h p hlo hhi => ?_⟩
    · obtain ⟨hz, hp⟩ := Image.zoneRun_eq_some h
      rw [hrange] at hp
      exact ⟨hz, lowestRun_eq_some hp⟩
    · have hnone := Option.map_eq_none_iff.mp h
      rw [hrange] at hnone
      exact lowestRun_eq_none hnone p hlo hhi
  case degraded =>
    have hruns : im.runs zones n = zones.mapM (im.zoneRun n) := by unfold Image.runs; rw [hd]; rfl
    rw [hruns]
    exact ⟨mapM_eq_some_iff_keyed (fun z zp h => (Image.zoneRun_eq_some h).1) zones, mapM_eq_none_iff zones⟩

/-! ### Window orders (R93 to R100) -/

/-- The last used position is that of some page, and no page's is behind it. -/
theorem lastUsed_spec {pages : List PagePlace} (h : pages ≠ []) :
    (∃ q ∈ pages, lastUsed pages = q.first + q.blocks - 1) ∧ ∀ q ∈ pages, q.first + q.blocks - 1 ≤ lastUsed pages := by
  have fold : ∀ (l : List PagePlace) (m : Nat),
      let top := l.foldl (fun m q => max m (q.first + q.blocks - 1)) m
      (top = m ∨ ∃ q ∈ l, top = q.first + q.blocks - 1) ∧ m ≤ top ∧ ∀ q ∈ l, q.first + q.blocks - 1 ≤ top := by
    intro l
    induction l with
    | nil => exact fun m => ⟨.inl rfl, Nat.le_refl m, List.forall_mem_nil _⟩
    | cons x l ih =>
      intro m top
      obtain ⟨hsome, hle, hall⟩ := ih (max m (x.first + x.blocks - 1))
      refine ⟨?_, Nat.le_trans (Nat.le_max_left _ _) hle,
        List.forall_mem_cons.mpr ⟨Nat.le_trans (Nat.le_max_right _ _) hle, hall⟩⟩
      rcases hsome with hsome | ⟨q, hq, hsome⟩
      · rcases Nat.le_total m (x.first + x.blocks - 1) with hm | hm
        · exact .inr ⟨x, List.mem_cons_self .., hsome.trans (Nat.max_eq_right hm)⟩
        · exact .inl (hsome.trans (Nat.max_eq_left hm))
      · exact .inr ⟨q, List.mem_cons_of_mem _ hq, hsome⟩
  obtain ⟨hsome, -, hall⟩ := fold pages 0
  refine ⟨?_, hall⟩
  rcases hsome with h0 | hsome
  · obtain ⟨q, rest, rfl⟩ := List.exists_cons_of_ne_nil h
    have hq := hall q (List.mem_cons_self ..)
    exact ⟨q, List.mem_cons_self .., by unfold lastUsed; omega⟩
  · exact hsome

theorem bridgeFlag_iff (current : Option OrderInfo) (im : Image) (o : OrderInfo) (gap : Nat) (hr : o.round = im.round)
    (hw : o.window = im.window) : bridgeFlag current o gap = true ↔ BridgesTo current im o.keyOn gap := by
  unfold bridgeFlag BridgesTo keyGap
  cases current with
  | none => simp
  | some c =>
    simp only [hr, hw, Option.some.injEq, exists_eq_left']
    split
    · next h => simp [h]
    · next h => simp [h]

theorem ZoneCell.sendOrder_eq (c : ZoneCell) (z : Zone) (o : OrderInfo) (layout : Layout) (gap : Nat)
    (slots : List Block) :
    c.sendOrder z o layout gap slots =
      c.ordered o (bridgeFlag c.current o gap) (.order z o layout (bridgeFlag c.current o gap) slots) := by
  unfold ZoneCell.sendOrder ZoneCell.ordered
  cases o.kind <;> rfl

theorem exec_buildEnd_of_walked {s : State} {b : Build} (hb : s.wsch.build = some b) (he : b.ended = false)
    (hn : s.nextOfWalk b = none) : exec .buildEnd s = .next (s.endBuild b).settle := by
  show execBuildEnd s = _
  unfold execBuildEnd
  rw [hb]
  simp only [he, hn]
  rfl

section
variable {s : State} {im : Image} {z : Zone} {c : ZoneCell}

theorem State.orderFor_scheduled (hst : im.view[z].state = .inService) (hp : im.pages[z] ≠ []) :
    s.orderFor im z c = c.sendOrder z (scheduledInfo im z) im.layout im.view[z].gap (s.scheduledSlots im z) := by
  have hst' : (im.zone z).state = .inService := hst
  unfold State.orderFor
  simp only [hst', if_neg hp]
  rfl

theorem State.orderFor_test (hst : im.view[z].state = .test) :
    s.orderFor im z c =
      c.sendOrder z (testInfo im) s.aclk.detector.layout im.view[z].gap (testSlots im z s.aclk.detector.layout) := by
  have hst' : (im.zone z).state = .test := hst
  unfold State.orderFor
  simp only [hst']
  rfl

theorem State.orderFor_none (h : im.view[z].state = .outOfService ∨ im.view[z].state = .inService ∧ im.pages[z] = []) :
    s.orderFor im z c = c := by
  unfold State.orderFor
  rcases h with h | ⟨h, hp⟩
  · have h' : (im.zone z).state = .outOfService := h
    simp only [h']
  · have h' : (im.zone z).state = .inService := h
    simp only [h', if_pos hp]

end

theorem syncPosition_eq (l : Layout) (c : Color) : syncPosition l c = if l = .degraded ∧ c = .b then 32 else 0 := by
  cases l <;> cases c <;> rfl

/-- Settles O33: the zones of a built image by their state. -/
theorem ordersMade : Obligations.OrdersMade := by
  unfold Obligations.OrdersMade
  intro s b hb he hn im
  have hcell : ∀ z : Zone, (s.endBuild b).settle.txi[z] = s.orderFor im z s.txi[z] := fun z => Vector.getElem_ofFn _
  refine ⟨_, exec_buildEnd_of_walked hb he hn, rfl, fun z hst hp => ?scheduled, fun z hst => ?test, fun z h => ?none_, rfl,
    rfl, rfl, rfl, rfl, rfl, rfl, rfl, rfl, rfl, rfl⟩
  case scheduled =>
    obtain ⟨hlast, hall⟩ := lastUsed_spec hp
    refine ⟨lastUsed im.pages[z], bridgeFlag s.txi[z].current (scheduledInfo im z) im.view[z].gap, hlast, hall, ?_⟩
    intro keyOn
    have hkey : (scheduledInfo im z).keyOn = keyOn := by
      have hsync : (syncPosition im.layout im.view[z].color : Int) =
          if im.layout = .degraded ∧ im.view[z].color = .b then 32 else 0 := by
        rw [syncPosition_eq]
        split <;> rfl
      exact congrArg (fun i : Int => i - im.view[z].lead) hsync
    have hinfo : scheduledInfo im z = { round := im.round, window := im.window, kind := .scheduled, keyOn := keyOn
                                        keyOff := lastUsed im.pages[z] + 1 + im.view[z].tail } := by
      rw [← hkey]
      rfl
    refine ⟨hkey ▸ bridgeFlag_iff _ im (scheduledInfo im z) _ rfl rfl, ?_⟩
    intro o
    rw [hcell, State.orderFor_scheduled hst hp, ZoneCell.sendOrder_eq, hinfo]
  case test =>
    refine ⟨bridgeFlag s.txi[z].current (testInfo im) im.view[z].gap, bridgeFlag_iff _ im (testInfo im) _ rfl rfl, ?_⟩
    intro o layout header
    have hlayout : s.aclk.detector.layout = layout := Detector.layout_eq _
    have hslots : testSlots im z layout = syncBlock :: header :: List.replicate 62 testBlock := by
      have hlock : (layout == .locked) = decide (s.aclk.detector = .locked) := by
        rw [← hlayout]
        cases s.aclk.detector <;> rfl
      show syncBlock :: headerBlock _ _ _ 0 (layout == .locked) true :: _ = _
      rw [hlock]
      rfl
    rw [hcell, State.orderFor_test hst, ZoneCell.sendOrder_eq, hlayout, hslots]
    rfl
  case none_ => rw [hcell, State.orderFor_none h]

end Sys2Proof.Machine
end

section
/-! The checks of chapter 11 (R182, R184), and the slots and the frames of orders (O34). -/

namespace Sys2Proof.Machine

/-! ### The checks -/

theorem forced_eq {α : Type} {w : Nat} (v : BitVec w) (k : BitVec w → α) : forced v k = k v := by
  have hv : BitVec.ofNat w v.toNat = v := by rw [BitVec.ofNat_toNat, BitVec.setWidth_eq]
  unfold forced
  split
  · next h => exact congrArg k ((congrArg (BitVec.ofNat w) h.symm).trans hv)
  · next n h => exact congrArg k ((congrArg (BitVec.ofNat w) h.symm).trans hv)

theorem crc16From_append (t u : List Byte) (reg : BitVec 16) :
    crc16From reg (t ++ u) = crc16From (crc16From reg t) u := by
  induction t generalizing reg with
  | nil => rfl
  | cons b t ih =>
    rw [List.cons_append, crc16From, crc16From, forced_eq, forced_eq]
    exact ih _

theorem check16 : Check16 := by
  refine ⟨rfl, fun t b => ?_⟩
  have hbits : bitsOf b = [7, 6, 5, 4, 3, 2, 1, 0].map b.getLsbD := rfl
  unfold crc16
  rw [crc16From_append, crc16From, forced_eq, crc16From, hbits, List.foldl_map]
  rfl

theorem crc12From_eq (bits : List Bool) (reg : BitVec 12) : crc12From reg bits = bits.foldl crc12Bit reg := by
  induction bits generalizing reg with
  | nil => rfl
  | cons b bits ih =>
    rw [crc12From, forced_eq]
    exact ih _

theorem check12 : Check12 := by
  intro payload
  have hbits : bitsOf payload = (List.range 36).map fun i => payload.getLsbD (35 - i) := by
    refine List.map_congr_left fun i hi => ?_
    rw [BitVec.getMsbD, decide_eq_true (List.mem_range.mp hi), Bool.true_and]
  unfold crc12
  rw [crc12From_eq, hbits, List.foldl_map]
  rfl

/-! ### Slots (R94) -/

theorem length_overlay (xs : List Block) (p : Nat) (bs : List Block) : (overlay xs p bs).length = xs.length := by
  fun_induction overlay xs p bs <;> simp_all

/-- A slot of an overlay is of the blocks laid over where they reach, and of what lay there elsewhere. -/
theorem getElem?_overlay (xs : List Block) (p : Nat) (bs : List Block) (i : Nat) :
    (overlay xs p bs)[i]? = if p ≤ i ∧ i < p + bs.length ∧ i < xs.length then bs[i - p]? else xs[i]? := by
  fun_induction overlay xs p bs generalizing i with
  | case1 => simp
  | case2 x xs => simp
  | case3 x xs b bs ih =>
    cases i with
    | zero => simp
    | succ i =>
      rw [List.getElem?_cons_succ, ih]
      simp only [List.length_cons, Nat.zero_le, true_and, Nat.zero_add, Nat.add_lt_add_iff_right, Nat.sub_zero,
        List.getElem?_cons_succ]
  | case4 x xs p bs ih =>
    cases i with
    | zero => simp
    | succ i =>
      rw [List.getElem?_cons_succ, ih]
      simp only [List.length_cons, Nat.succ_eq_add_one, Nat.add_le_add_iff_right, Nat.add_right_comm p 1, Nat.add_lt_add_iff_right,
        Nat.add_sub_add_right, List.getElem?_cons_succ]

/-- The blocks of pages laid over slots, in the order of the pages. -/
def overlays (blocks : PagePlace → List Block) (pages : List PagePlace) (start : List Block) : List Block :=
  pages.foldl (fun slots q => overlay slots q.first (blocks q)) start

section
variable {blocks : PagePlace → List Block}

theorem length_overlays (pages : List PagePlace) (start : List Block) :
    (overlays blocks pages start).length = start.length := by
  induction pages generalizing start with
  | nil => rfl
  | cons q pages ih => exact (ih _).trans (length_overlay _ _ _)

/-- A slot that no page reaches stays. -/
theorem getElem?_overlays_of_free {pages : List PagePlace} {p : Nat}
    (h : ∀ q ∈ pages, p < q.first ∨ q.first + (blocks q).length ≤ p) (start : List Block) :
    (overlays blocks pages start)[p]? = start[p]? := by
  induction pages generalizing start with
  | nil => rfl
  | cons q pages ih =>
    obtain ⟨hq, hpages⟩ := List.forall_mem_cons.mp h
    refine (ih hpages _).trans ?_
    rw [getElem?_overlay, if_neg (by omega)]

/-- A page's slots are its blocks, when the pages behind it stand after it. -/
theorem getElem?_overlays_of_page {pages : List PagePlace}
    (hd : pages.Pairwise fun q q' => q.first + (blocks q).length ≤ q'.first) {q : PagePlace} (hq : q ∈ pages) {i : Nat}
    (hi : i < (blocks q).length) {start : List Block} (htop : q.first + (blocks q).length ≤ start.length) :
    (overlays blocks pages start)[q.first + i]? = (blocks q)[i]? := by
  induction pages generalizing start with
  | nil => cases hq
  | cons x pages ih =>
    obtain ⟨hx, hd⟩ := List.pairwise_cons.mp hd
    rcases List.mem_cons.mp hq with rfl | hq
    · refine (getElem?_overlays_of_free (pages := pages) (fun q' hq' => .inl ?_) (overlay start q.first (blocks q))).trans ?_
      · have := hx q' hq'
        omega
      · rw [getElem?_overlay, if_pos (by omega), Nat.add_sub_cancel_left]
    · exact ih hd hq (by rw [length_overlay]; exact htop)

end

/-- The slots before the pages: sync and header at the base, idle fill elsewhere. -/
theorem getElem?_headed {base : Nat} (hb : base + 2 ≤ 64) (header : Block) :
    (overlay idleSlots base [syncBlock, header])[base]? = some syncBlock ∧
      (overlay idleSlots base [syncBlock, header])[base + 1]? = some header ∧
      ∀ p, p < 64 → p ≠ base → p ≠ base + 1 → (overlay idleSlots base [syncBlock, header])[p]? = some idleBlock := by
  have hlen : idleSlots.length = 64 := List.length_replicate
  refine ⟨?_, ?_, fun p hp h0 h1 => ?_⟩
  · rw [getElem?_overlay, if_pos (by rw [hlen]; exact ⟨Nat.le_refl _, by simp, by omega⟩), Nat.sub_self]
    rfl
  · rw [getElem?_overlay, if_pos (by rw [hlen]; exact ⟨by omega, by simp, by omega⟩), Nat.add_sub_cancel_left]
    rfl
  · rw [getElem?_overlay, if_neg (by simp only [List.length_cons, List.length_nil]; omega)]
    exact List.getElem?_replicate_of_lt hp

/-! ### The blocks of a page (R46, R47, R94) -/

theorem State.pageBlocks_eq {s : State} {m : MsgId} {r : PageRec} {e : Entry} (hr : s.rec? m = some r)
    (he : s.sub? r.sub = some e) : s.pageBlocks m = addressBlock r e :: textBlocks r.enc r.airText (r.blocks - 1) := by
  unfold State.pageBlocks
  simp only [hr, he]
  rfl

theorem length_textBlocks (enc : Encoding) (t : Text) (b : Nat) : (textBlocks enc t b).length = b := by
  simp [textBlocks]

theorem PageRec.airText_of_delivered {r : PageRec} (h : r.state = .delivered) : r.airText = r.kept := by
  unfold PageRec.airText
  rw [h]

theorem PageRec.airText_of_not_delivered {r : PageRec} (h : r.state ≠ .delivered) : r.airText = r.text := by
  unfold PageRec.airText
  cases hst : r.state with
  | delivered => exact absurd hst h
  | _ => rfl

/-- A whole record has its kept text on air, delivered or not. -/
theorem PageRec.Whole.airText {r : PageRec} (h : r.Whole) : r.airText = r.kept := by
  obtain ⟨-, -, hnone, ⟨hlen, hsome⟩, -⟩ := h
  by_cases hd : r.state = .delivered
  · exact PageRec.airText_of_delivered hd
  · rw [PageRec.airText_of_not_delivered hd]
    cases hc : r.chunks with
    | some cs => exact (hsome cs hc).2
    | none =>
      have h0 : r.kept = [] := List.length_eq_zero_iff.mp (hlen.trans ((hnone.mp hc).resolve_right hd))
      rw [h0, PageRec.text, PageRec.chunkList, hc]
      rfl

/-! ### Frames (11.4) -/

theorem byteOf_mod (n : Nat) : byteOf n = BitVec.ofNat 8 (n % 256) :=
  BitVec.eq_of_toNat_eq (by simp [byteOf])

theorem twoBytes_check (c : BitVec 16) : twoBytes c.toNat = [c.extractLsb' 8 8, c.extractLsb' 0 8] := by
  refine congrArg₂ (fun a b => [a, b]) (BitVec.eq_of_toNat_eq ?_) (BitVec.eq_of_toNat_eq ?_)
  · simp [byteOf, BitVec.extractLsb'_toNat, Nat.shiftRight_eq_div_pow]
  · simp [byteOf, BitVec.extractLsb'_toNat]

theorem length_flatMap_bytes (slots : List Block) : (slots.flatMap Block.bytes).length = 6 * slots.length := by
  induction slots with
  | nil => rfl
  | cons b slots ih =>
    rw [List.flatMap_cons, List.length_append, ih, List.length_cons]
    simp only [Block.bytes, List.length_cons, List.length_nil]
    omega

theorem TxFrame.bytes_eq (f : TxFrame) :
    f.bytes = 0x3C#8 :: f.content ++ [(crc16 f.content).extractLsb' 8 8, (crc16 f.content).extractLsb' 0 8] := by
  rw [TxFrame.bytes, twoBytes_check]

theorem TxFrame.length_bytes (f : TxFrame) : f.bytes.length = f.content.length + 3 := by
  simp [TxFrame.bytes, twoBytes]

theorem twoBytes_eq (n : Nat) : twoBytes n = [BitVec.ofNat 8 (n / 256), BitVec.ofNat 8 (n % 256)] := by
  rw [twoBytes, byteOf_mod n]
  rfl

/-- Settles O34: the slots page by page, the blocks of a page, and the two frames. -/
theorem orderSlots : Obligations.OrderSlots := by
  unfold Obligations.OrderSlots
  refine ⟨check16, fun s im z => ?slots, fun s m r e hr he => ?blocks, fun zone o layout bridge slots hlen => ?order,
    fun zone round window => ?withdraw⟩
  case slots =>
    intro base top hfit hapart slots
    let header := headerBlock im.round im.window im.view[z].color im.pages[z].length (decide (im.layout = .locked)) false
    let start := overlay idleSlots base [syncBlock, header]
    have hbase : base = syncPosition im.layout im.view[z].color := (syncPosition_eq _ _).symm
    have htop : top ≤ 64 := by
      show (if _ then 32 else 64) ≤ 64
      split <;> decide
    have hb : base + 2 ≤ 64 := by
      show (if _ then 32 else 0) + 2 ≤ 64
      split <;> decide
    have hslots : slots = overlays (fun q => s.pageBlocks q.id) im.pages[z] start := by
      show s.scheduledSlots im z = _
      have hlock : (im.layout == .locked) = decide (im.layout = .locked) := by cases im.layout <;> rfl
      unfold State.scheduledSlots
      simp only [hlock]
      show overlays _ _ (overlay idleSlots (syncPosition im.layout im.view[z].color) _) = _
      rw [← hbase]
      rfl
    have hlenq : ∀ q ∈ im.pages[z], (s.pageBlocks q.id).length = q.blocks := fun q hq => (hfit q hq).2.2
    have hstart : start.length = 64 := (length_overlay _ _ _).trans List.length_replicate
    have hfree : ∀ p, (∀ q ∈ im.pages[z], p < q.first ∨ q.first + q.blocks ≤ p) → slots[p]? = start[p]? := fun p hp => by
      rw [hslots]
      exact getElem?_overlays_of_free (fun q hq => by rw [hlenq q hq]; exact hp q hq) _
    obtain ⟨hsync, hheader, hidle⟩ := getElem?_headed hb header
    refine ⟨by rw [hslots, length_overlays, hstart], (hfree base fun q hq => .inl ?_).trans hsync,
      (hfree (base + 1) fun q hq => .inl ?_).trans hheader, fun q hq i hi => ?_,
      fun p hp h0 h1 h => (hfree p h).trans (hidle p hp h0 h1)⟩
    · have := (hfit q hq).1
      omega
    · have := (hfit q hq).1
      omega
    · rw [hslots]
      refine getElem?_overlays_of_page (hapart.imp_of_mem fun {q q'} hq _ h => ?_) hq (by rw [hlenq q hq]; exact hi) ?_
      · rw [hlenq q hq]
        exact h
      · rw [hlenq q hq, hstart]
        exact Nat.le_trans (hfit q hq).2.1 htop
  case blocks =>
    rw [State.pageBlocks_eq hr he]
    refine ⟨rfl, by rw [List.length_cons, length_textBlocks], fun hd => ?_, fun hd => ?_, fun hw => ?_⟩
    · rw [List.tail_cons, PageRec.airText_of_not_delivered hd]
    · rw [List.tail_cons, PageRec.airText_of_delivered hd]
    · rw [List.tail_cons, hw.airText]
  case order =>
    intro content check
    have hcontent : (TxFrame.order zone o layout bridge slots).content = content := by
      show [o.kind.byte, byteOf zone] ++ twoBytes o.round ++ _ ++ _ = _
      rw [twoBytes_eq]
      rfl
    refine ⟨by rw [TxFrame.bytes_eq, hcontent], ?_⟩
    rw [TxFrame.length_bytes]
    show ([_, _] ++ [_, _] ++ [_, _, _, _, _] ++ slots.flatMap Block.bytes).length + 3 = 396
    rw [List.length_append, length_flatMap_bytes, hlen]
    rfl
  case withdraw =>
    intro content check
    have hcontent : (TxFrame.withdraw zone round window).content = content := by
      show [_, byteOf zone] ++ twoBytes round ++ _ = _
      rw [twoBytes_eq]
      rfl
    exact ⟨by rw [TxFrame.bytes_eq, hcontent], rfl⟩

end Sys2Proof.Machine
end

section
/-! Header, address and text blocks (O35). -/

namespace Sys2Proof.Machine

/-! ### Fields of concatenated words -/

section
variable {n m : Nat} {x : BitVec n} {y : BitVec m}

theorem extract_left {k l : Nat} (h : m ≤ k) : (x ++ y).extractLsb' k l = x.extractLsb' (k - m) l :=
  BitVec.extractLsb'_append_eq_of_le h

theorem extract_right : (x ++ y).extractLsb' 0 m = y :=
  (BitVec.extractLsb'_append_eq_of_add_le (by omega)).trans BitVec.extractLsb'_eq_self

theorem bit_left {i : Nat} (h : m ≤ i) : (x ++ y).getLsbD i = x.getLsbD (i - m) :=
  BitVec.getLsbD_append.trans (if_neg (Nat.not_lt.mpr h))

theorem bit_right {i : Nat} (h : i < m) : (x ++ y).getLsbD i = y.getLsbD i := BitVec.getLsbD_append.trans (if_pos h)

end

theorem withCheck_extract (p : BitVec 36) {k l : Nat} (h : 12 ≤ k) :
    (withCheck p).extractLsb' k l = p.extractLsb' (k - 12) l := extract_left h

theorem withCheck_bit (p : BitVec 36) {i : Nat} (h : 12 ≤ i) : (withCheck p).getLsbD i = p.getLsbD (i - 12) := bit_left h

theorem flagBit_bit (b : Bool) : (flagBit b).getLsbD 0 = b := by cases b <;> rfl

/-- The fields of a header payload (11.5). -/
theorem headerPayload_fields (round : Round) (window : Window) (color : Color) (pages : Nat) (lock test : Bool) :
    let h := headerPayload round window color pages lock test
    h.extractLsb' 24 12 = BitVec.ofNat 12 round ∧ h.extractLsb' 19 5 = BitVec.ofNat 5 window ∧
      h.getLsbD 18 = color.bit.getLsbD 0 ∧ h.extractLsb' 12 6 = BitVec.ofNat 6 pages ∧ h.getLsbD 11 = lock ∧
      h.getLsbD 10 = test ∧ h.extractLsb' 0 10 = 0#10 := by
  intro h
  refine ⟨?round, ?window, ?color, ?pages, ?lock, ?test, extract_right⟩
  case test => exact (bit_left (by decide)).trans ((bit_right (by decide)).trans (flagBit_bit test))
  case lock =>
    exact (bit_left (by decide)).trans ((bit_left (by decide)).trans ((bit_right (by decide)).trans (flagBit_bit lock)))
  case pages =>
    exact (extract_left (by decide)).trans ((extract_left (by decide)).trans ((extract_left (by decide)).trans extract_right))
  case color =>
    exact (bit_left (by decide)).trans ((bit_left (by decide)).trans ((bit_left (by decide)).trans
      ((bit_left (by decide)).trans (bit_right (by decide)))))
  case window =>
    exact (extract_left (by decide)).trans ((extract_left (by decide)).trans ((extract_left (by decide)).trans
      ((extract_left (by decide)).trans ((extract_left (by decide)).trans extract_right))))
  case round =>
    exact (extract_left (by decide)).trans ((extract_left (by decide)).trans ((extract_left (by decide)).trans
      ((extract_left (by decide)).trans ((extract_left (by decide)).trans
        ((extract_left (by decide)).trans BitVec.extractLsb'_eq_self)))))

/-- The fields of an address payload (11.5). -/
theorem addressPayload_fields (addr : BitVec 22) (present : Bool) (tag : PageTag) (enc : Encoding) (b : Nat)
    (c : AttemptClass) :
    let a := addressPayload addr present tag enc b c
    a.extractLsb' 14 22 = addr ∧ a.getLsbD 13 = present ∧
      a.extractLsb' 10 3 = BitVec.ofNat 3 (if present then tag.val else 0) ∧ a.extractLsb' 8 2 = enc.code ∧
      a.extractLsb' 2 6 = BitVec.ofNat 6 b ∧ a.extractLsb' 0 2 = c.code := by
  intro a
  refine ⟨?addr, ?present, ?tag, ?enc, ?blocks, extract_right⟩
  case blocks => exact (extract_left (by decide)).trans extract_right
  case enc => exact (extract_left (by decide)).trans ((extract_left (by decide)).trans extract_right)
  case tag =>
    exact (extract_left (by decide)).trans ((extract_left (by decide)).trans ((extract_left (by decide)).trans extract_right))
  case present =>
    exact (bit_left (by decide)).trans ((bit_left (by decide)).trans ((bit_left (by decide)).trans
      ((bit_left (by decide)).trans ((bit_right (by decide)).trans (flagBit_bit present)))))
  case addr =>
    exact (extract_left (by decide)).trans ((extract_left (by decide)).trans ((extract_left (by decide)).trans
      ((extract_left (by decide)).trans ((extract_left (by decide)).trans BitVec.extractLsb'_eq_self))))

theorem Encoding.code_eq (e : Encoding) :
    e.code = match e with | .tone => 0#2 | .numeric => 1#2 | .alpha => 2#2 := by
  cases e <;> rfl

theorem attemptClass_code (series : Series) (kind : PagerKind) (k : Nat) :
    (attemptClass series kind (k + 1)).code =
      if series = .recovery then 3#2 else if k = 0 then 0#2 else if kind = .twoWay then 1#2 else 2#2 := by
  cases series with
  | recovery => rfl
  | first =>
    cases k with
    | zero => rfl
    | succ k => cases kind <;> rfl

/-! ### The character stream (R47) -/

theorem binary_testBit (bits : List Bool) (k : Nat) (h : k < bits.length) :
    (bits.foldl (fun (n : Nat) (b : Bool) => 2 * n + b.toNat) 0).testBit (bits.length - 1 - k) = bits[k] := by
  induction bits using List.reverseRecOn with
  | nil => cases h
  | append_singleton bits b ih =>
    rw [List.foldl_concat, List.length_append, List.length_singleton, Nat.add_sub_cancel]
    rw [List.length_append, List.length_singleton] at h
    by_cases hk : k < bits.length
    · obtain ⟨j, hj⟩ : ∃ j, bits.length - k = j + 1 := ⟨bits.length - k - 1, by omega⟩
      rw [List.getElem_append_left hk, ← ih hk, hj, Nat.testBit_succ, show bits.length - 1 - k = j by omega]
      congr 1
      cases b <;> simp only [Bool.toNat_true, Bool.toNat_false] <;> omega
    · obtain rfl : k = bits.length := by omega
      rw [Nat.sub_self, List.getElem_concat_length rfl, Nat.testBit_zero]
      cases b <;> simp

/-- The bits of a payload, first bit the most significant. -/
theorem payloadOf_bit {bits : List Bool} (hl : bits.length = 36) {k : Nat} (h : k < 36) :
    (payloadOf bits).getLsbD (35 - k) = bits[k] := by
  have hbit := binary_testBit bits k (by omega)
  rw [show bits.length - 1 - k = 35 - k by omega] at hbit
  unfold payloadOf
  rw [BitVec.getLsbD_ofNat, hbit, decide_eq_true (by omega), Bool.true_and]

/-- A bit of a text block is the bit of the stream at its place. -/
theorem textBlocks_bit {enc : Encoding} {t : Text} {b j k : Nat} {blk : Block}
    (hlen : (textStream enc t b).length = 36 * b) (hb : (textBlocks enc t b)[j]? = some blk) (hk : k < 36) :
    (textStream enc t b)[36 * j + k]? = some (blk.getLsbD (47 - k)) := by
  obtain ⟨hj, rfl⟩ := List.getElem?_eq_some_iff.mp hb
  rw [length_textBlocks] at hj
  have hin : 36 * j + k < (textStream enc t b).length := by omega
  have htake : (((textStream enc t b).drop (36 * j)).take 36).length = 36 := by
    rw [List.length_take, List.length_drop]
    omega
  have hblk : (textBlocks enc t b)[j] = withCheck (payloadOf (((textStream enc t b).drop (36 * j)).take 36)) := by
    simp [textBlocks]
  rw [hblk, withCheck_bit _ (by omega), show 47 - k - 12 = 35 - k by omega, payloadOf_bit htake hk, List.getElem_take,
    List.getElem_drop]
  exact List.getElem?_eq_getElem hin

theorem length_flatMap_const {α β : Type} {f : α → List β} {w : Nat} (hf : ∀ a, (f a).length = w) (l : List α) :
    (l.flatMap f).length = w * l.length := by
  induction l with
  | nil => rfl
  | cons a l ih =>
    rw [List.flatMap_cons, List.length_append, hf, ih, List.length_cons, Nat.mul_add, Nat.mul_one, Nat.add_comm]

/-- The part of a concatenation of equally long parts that an index falls in. -/
theorem getElem?_flatMap_const {α β : Type} {f : α → List β} {w : Nat} (hf : ∀ a, (f a).length = w) (l : List α)
    (i : Nat) {j : Nat} (hj : j < w) : (l.flatMap f)[w * i + j]? = l[i]?.bind fun a => (f a)[j]? := by
  induction l generalizing i with
  | nil => simp
  | cons a l ih =>
    rw [List.flatMap_cons]
    cases i with
    | zero =>
      rw [Nat.mul_zero, Nat.zero_add, List.getElem?_append_left (by rw [hf]; exact hj)]
      rfl
    | succ i =>
      rw [List.getElem?_append_right (by rw [hf, Nat.mul_add]; omega), hf,
        show w * (i + 1) + j - w = w * i + j by rw [Nat.mul_add]; omega, ih]
      rfl

theorem length_bitsOf {w : Nat} (v : BitVec w) : (bitsOf v).length = w := by simp [bitsOf]

theorem getElem?_bitsOf {w : Nat} (v : BitVec w) {j : Nat} (hj : j < w) : (bitsOf v)[j]? = some (v.getLsbD (w - 1 - j)) := by
  unfold bitsOf
  rw [List.getElem?_map, List.getElem?_range hj, Option.map_some, BitVec.getMsbD, decide_eq_true hj, Bool.true_and]

/-- The codes of a NUMERIC text, filled to whole blocks. -/
def numericCodes (t : Text) (b : Nat) : List (BitVec 4) := t.map numericCode ++ List.replicate (9 * b - t.length) 15#4

theorem textStream_numeric {t : Text} {b : Nat} (h : t.length ≤ 9 * b) :
    textStream .numeric t b = (numericCodes t b).flatMap bitsOf := by
  have hbits : (t.flatMap (charBits .numeric)).length = 4 * t.length :=
    length_flatMap_const (fun c => length_bitsOf (numericCode c)) t
  have hroom : 36 * b - 4 * t.length = 4 * (9 * b - t.length) := by omega
  unfold textStream numericCodes fillAfter
  dsimp only
  rw [hbits, hroom, List.flatMap_append, List.flatMap_map, List.flatMap_replicate]
  show _ ++ ((List.replicate (4 * (9 * b - t.length) / 4) _).flatten ++
    List.replicate (4 * (9 * b - t.length) % 4) false) = _
  rw [Nat.mul_div_cancel_left _ (by decide), Nat.mul_mod_right, List.replicate_zero, List.append_nil]
  rfl

theorem length_numericCodes {t : Text} {b : Nat} (h : t.length ≤ 9 * b) : (numericCodes t b).length = 9 * b := by
  rw [numericCodes, List.length_append, List.length_map, List.length_replicate]
  omega

theorem getElem?_numericCodes {t : Text} {b i : Nat} (h : i < 9 * b) :
    (numericCodes t b)[i]? = some ((t[i]?.map numericCode).getD 15#4) := by
  unfold numericCodes
  by_cases hi : i < t.length
  · rw [List.getElem?_append_left (by rw [List.length_map]; exact hi), List.getElem?_map,
      List.getElem?_eq_getElem hi]
    rfl
  · rw [List.getElem?_append_right (by rw [List.length_map]; omega), List.length_map,
      List.getElem?_replicate_of_lt (by omega), List.getElem?_eq_none (Nat.le_of_not_lt hi)]
    rfl

/-- The code at each place of a NUMERIC block. -/
theorem textBlocks_numeric {t : Text} {b i : Nat} {blk : Block} (h : t.length ≤ 9 * b) (hi : i < 9 * b)
    (hb : (textBlocks .numeric t b)[i / 9]? = some blk) :
    blk.extractLsb' (44 - 4 * (i % 9)) 4 = (t[i]?.map numericCode).getD 15#4 := by
  have hlen : (textStream .numeric t b).length = 36 * b := by
    rw [textStream_numeric h, length_flatMap_const length_bitsOf, length_numericCodes h]
    omega
  refine BitVec.eq_of_getLsbD_eq fun j hj => ?_
  have hbit := textBlocks_bit (k := 4 * (i % 9) + (3 - j)) hlen hb (by omega)
  rw [show 36 * (i / 9) + (4 * (i % 9) + (3 - j)) = 4 * i + (3 - j) by omega,
    textStream_numeric h, getElem?_flatMap_const length_bitsOf _ _ (by omega), getElem?_numericCodes hi,
    Option.bind_some, getElem?_bitsOf _ (by omega), show 4 - 1 - (3 - j) = j by omega,
    show 47 - (4 * (i % 9) + (3 - j)) = 44 - 4 * (i % 9) + j by omega] at hbit
  rw [BitVec.getLsbD_extractLsb', decide_eq_true hj, Bool.true_and]
  exact (Option.some.inj hbit).symm

theorem textStream_alpha (t : Text) (b : Nat) :
    textStream .alpha t b =
      t.flatMap (fun c => bitsOf (c.setWidth 7)) ++ List.replicate (36 * b - 7 * t.length) false := by
  have hbits : (t.flatMap (charBits .alpha)).length = 7 * t.length :=
    length_flatMap_const (f := charBits .alpha) (fun c => length_bitsOf (BitVec.setWidth 7 c)) t
  unfold textStream fillAfter
  dsimp only
  rw [hbits]
  show _ ++ ((List.replicate ((36 * b - 7 * t.length) / 7) (List.replicate 7 false)).flatten ++
    List.replicate ((36 * b - 7 * t.length) % 7) false) = _
  rw [List.flatten_replicate_replicate, List.replicate_append_replicate, Nat.div_add_mod']
  rfl

/-- The bit at each place of an ALPHA block. -/
theorem textBlocks_alpha {t : Text} {b k : Nat} {blk : Block} (h : 7 * t.length ≤ 36 * b) (hk : k < 36 * b)
    (hb : (textBlocks .alpha t b)[k / 36]? = some blk) :
    blk.getLsbD (47 - k % 36) = (t[k / 7]?.map fun c => c.getLsbD (6 - k % 7)).getD false := by
  have hwidth : (t.flatMap fun c => bitsOf (c.setWidth 7)).length = 7 * t.length :=
    length_flatMap_const (fun c => length_bitsOf (BitVec.setWidth 7 c)) t
  have hlen : (textStream .alpha t b).length = 36 * b := by
    rw [textStream_alpha, List.length_append, hwidth, List.length_replicate]
    omega
  have hbit := textBlocks_bit (k := k % 36) hlen hb (by omega)
  rw [Nat.div_add_mod, textStream_alpha] at hbit
  refine Option.some.inj (hbit.symm.trans ?_)
  by_cases hin : k < 7 * t.length
  · have hparts := getElem?_flatMap_const (f := fun c : Byte => bitsOf (c.setWidth 7))
      (fun c => length_bitsOf (c.setWidth 7)) t (k / 7) (j := k % 7) (by omega)
    rw [Nat.div_add_mod] at hparts
    have hchar : k / 7 < t.length := by omega
    rw [List.getElem?_append_left (by rw [hwidth]; exact hin), hparts, List.getElem?_eq_getElem hchar, Option.bind_some,
      getElem?_bitsOf _ (by omega), BitVec.getLsbD_setWidth, decide_eq_true (by omega), Bool.true_and]
    rfl
  · rw [List.getElem?_append_right (by rw [hwidth]; omega), List.getElem?_replicate_of_lt (by rw [hwidth]; omega),
      List.getElem?_eq_none (by omega)]
    rfl

/-- Settles O35: the fields of each kind of block, and the text bit by bit. -/
theorem blocksCarryTheirFields : Obligations.BlocksCarryTheirFields := by
  unfold Obligations.BlocksCarryTheirFields
  refine ⟨check12, fun round window color pages lock test _ => ?header, fun r e => ?address, withCheck_payload _,
    withCheck_check _, rfl, by decide, ?sync, ?syncCheck, by decide, length_textBlocks, fun enc text b blk hblk => ?check,
    fun text b i blk h hi hb => textBlocks_numeric h hi hb, fun text b k blk h hk hb => textBlocks_alpha h hk hb,
    by decide, by decide, by decide, by decide, by decide, by decide⟩
  case header =>
    intro h
    obtain ⟨hround, hwindow, hcolor, hpages, hlock, htest, hzero⟩ :=
      headerPayload_fields round window color pages lock test
    refine ⟨(withCheck_extract _ (by decide)).trans hround, (withCheck_extract _ (by decide)).trans hwindow,
      (withCheck_bit _ (by decide)).trans (hcolor.trans ?_), (withCheck_extract _ (by decide)).trans hpages,
      (withCheck_bit _ (by decide)).trans hlock, (withCheck_bit _ (by decide)).trans htest,
      (withCheck_extract _ (by decide)).trans hzero, ?_⟩
    · cases color <;> rfl
    · exact (withCheck_check _).trans (congrArg crc12 (withCheck_payload _).symm)
  case address =>
    intro a
    obtain ⟨haddr, hpresent, htag, henc, hblocks, hclass⟩ := addressPayload_fields e.addr (e.kind == .twoWay)
      (r.tag.getD 0) r.enc (r.blocks - 1) (attemptClass r.series e.kind (r.count + 1))
    refine ⟨(withCheck_extract _ (by decide)).trans haddr, (withCheck_bit _ (by decide)).trans (hpresent.trans ?_),
      (withCheck_extract _ (by decide)).trans (htag.trans ?_),
      (withCheck_extract _ (by decide)).trans (henc.trans r.enc.code_eq),
      (withCheck_extract _ (by decide)).trans hblocks,
      (withCheck_extract _ (by decide)).trans (hclass.trans (attemptClass_code _ _ _)), ?_⟩
    · cases e.kind <;> rfl
    · cases e.kind <;> rfl
    · exact (withCheck_check _).trans (congrArg crc12 (withCheck_payload _).symm)
  case sync => exact (extract_left (by decide)).trans BitVec.extractLsb'_eq_self
  case syncCheck => exact extract_right
  case check =>
    obtain ⟨i, -, rfl⟩ := mem_textBlocks hblk
    rw [withCheck_payload, withCheck_check]

end Sys2Proof.Machine
end

section
/-! Reply report frames and the reply queue (O44, O45). -/

namespace Sys2Proof.Machine

/-! ### Words from bytes -/

theorem toNat_append_eq {n m : Nat} (x : BitVec n) (y : BitVec m) : (x ++ y).toNat = x.toNat * 2 ^ m + y.toNat := by
  rw [BitVec.toNat_append, ← Nat.shiftLeft_add_eq_or_of_lt y.isLt, Nat.shiftLeft_eq]

theorem append_eq_zero {n m : Nat} {x : BitVec n} {y : BitVec m} (h : x ++ y = 0) : x = 0 ∧ y = 0 := by
  have hsum := toNat_append_eq x y
  rw [h] at hsum
  have hpos : 0 < 2 ^ m := Nat.two_pow_pos m
  simp only [BitVec.ofNat_eq_ofNat, BitVec.toNat_ofNat, Nat.zero_mod] at hsum
  have hy : y.toNat = 0 := by omega
  have hx : x.toNat = 0 := by
    rcases Nat.eq_zero_or_pos x.toNat with hx | hx
    · exact hx
    · have := Nat.mul_pos hx hpos
      omega
  exact ⟨BitVec.eq_of_toNat_eq (by simpa using hx), BitVec.eq_of_toNat_eq (by simpa using hy)⟩

theorem extract_toNat (x : Byte) (k l : Nat) : (x.extractLsb' k l).toNat = x.toNat / 2 ^ k % 2 ^ l := by
  rw [BitVec.extractLsb'_toNat, Nat.shiftRight_eq_div_pow]

theorem check_halves (c : BitVec 16) :
    (BitVec.ofNat 8 (c.toNat / 256) : Byte) ++ (BitVec.ofNat 8 c.toNat : Byte) = c := by
  refine BitVec.eq_of_toNat_eq ?_
  rw [toNat_append_eq, BitVec.toNat_ofNat, BitVec.toNat_ofNat]
  have := c.isLt
  omega

/-! ### The bytes of a frame taken (R183) -/

theorem State.setLink_setLink (s : State) (l : LinkNo) (x y : RxLink) : (s.setLink l x).setLink l y = s.setLink l y := by
  unfold State.setLink
  simp only [Vector.set_set]

theorem State.setLink_self {s : State} {l : LinkNo} {x : RxLink} (h : s.rxi.links[l] = x) : s.setLink l x = s := by
  have hset : s.rxi.links.set l x = s.rxi.links := by rw [← h]; exact Vector.set_getElem_self _
  unfold State.setLink
  rw [hset]

theorem State.link_setLink (s : State) (l : LinkNo) (x : RxLink) : (s.setLink l x).rxi.links[l] = x := by
  simp [State.setLink]

theorem State.judgeFrame_setLink (s : State) (l : LinkNo) (x : RxLink) (bytes : List Byte) :
    (s.setLink l x).judgeFrame l bytes = s.judgeFrame l bytes := by
  unfold State.judgeFrame
  simp only [State.setLink_setLink]

/-- The bytes that complete a frame on a link that takes one. -/
theorem State.foldl_rxByte_taking {l : LinkNo} {bytes : List Byte} (hne : bytes ≠ []) {s : State} {got : List Byte}
    (hl : s.rxi.links[l] = .taking got) (hlen : got.length + bytes.length = 13) :
    bytes.foldl (State.rxByte l) s = s.judgeFrame l (got ++ bytes) := by
  induction bytes generalizing s got with
  | nil => exact absurd rfl hne
  | cons b bytes ih =>
    rw [List.length_cons] at hlen
    rw [List.foldl_cons]
    cases bytes with
    | nil =>
      have hstep : State.rxByte l s b = s.judgeFrame l (got ++ [b]) := by
        unfold State.rxByte
        rw [hl]
        exact if_neg (by simp only [List.length_nil] at hlen; omega)
      exact hstep
    | cons c rest =>
      have hstep : State.rxByte l s b = s.setLink l (.taking (got ++ [b])) := by
        unfold State.rxByte
        rw [hl]
        exact if_pos (by simp only [List.length_cons] at hlen; omega)
      rw [hstep, ih (List.cons_ne_nil c rest) (State.link_setLink _ _ _)
        (by rw [List.length_append, List.length_singleton]; omega), State.judgeFrame_setLink, List.append_assoc]
      rfl

/-- A whole frame on a hunting link. -/
theorem State.foldl_rxByte_hunting {s : State} {l : LinkNo} (hl : s.rxi.links[l] = .hunting) {bytes : List Byte}
    (hlen : bytes.length = 13) : (0xC3#8 :: bytes).foldl (State.rxByte l) s = s.judgeFrame l bytes := by
  have hstep : State.rxByte l s 0xC3#8 = s.setLink l (.taking []) := by
    unfold State.rxByte
    rw [hl]
    exact if_pos rfl
  rw [List.foldl_cons, hstep, State.foldl_rxByte_taking (by rintro rfl; cases hlen) (State.link_setLink _ _ _)
    (by rw [hlen]; rfl), State.judgeFrame_setLink]
  rfl

theorem exec_replyReportFrame_eq (l : LinkNo) (bytes : List Byte) (s : State) :
    exec (.replyReportFrame l bytes) s = .next (bytes.foldl (State.rxByte l) s).settle := rfl

section
variable {s : State} {l : LinkNo} {bytes : List Byte} {f : RxFrame}

theorem State.judgeFrame_report (hf : RxFrame.ofBytes bytes = some f) (hg : f.good = true) {p : Report}
    (hp : f.report = some p) : s.judgeFrame l bytes = (s.setLink l .hunting).filterReport p := by
  unfold State.judgeFrame
  simp only [hf, hg, hp, if_true]

theorem State.judgeFrame_fault (hf : RxFrame.ofBytes bytes = some f) (hg : f.good = true) (hp : f.report = none) :
    s.judgeFrame l bytes = (s.setLink l .hunting).noise := by
  unfold State.judgeFrame
  simp only [hf, hg, hp, if_true]

theorem State.judgeFrame_bad (hf : RxFrame.ofBytes bytes = some f) (hg : f.good = false) :
    s.judgeFrame l bytes = (s.setLink l (rescan bytes)).noise := by
  unfold State.judgeFrame
  simp only [hf, hg, Bool.false_eq_true, if_false]

end

/-! ### The fields of a report (11.3) -/

theorem ReportKind.ofByte_eq_none_iff (b : Byte) : ReportKind.ofByte b = none ↔ b = 0#8 ∨ 4#8 < b := by
  revert b
  decide

/-- The thirteen bytes of a report after the marker. -/
def Report.taken (p : Report) : RxFrame :=
  let kind : Byte := match p.kind with | .heard => 1 | .read => 2 | .fetch => 3 | .register => 4
  let content : List Byte :=
    [BitVec.ofNat 8 (16 * p.site.val + p.zone.val), kind,
     BitVec.ofNat 8 (p.addr.toNat / 65536), BitVec.ofNat 8 (p.addr.toNat / 256), BitVec.ofNat 8 p.addr.toNat,
     BitVec.ofNat 8 p.tag.val, BitVec.ofNat 8 p.burst, BitVec.ofNat 8 p.quality.val,
     BitVec.ofNat 8 (p.round.val / 256), BitVec.ofNat 8 p.round.val, BitVec.ofNat 8 p.window.val]
  { b1 := BitVec.ofNat 8 (16 * p.site.val + p.zone.val), b2 := kind, b3 := BitVec.ofNat 8 (p.addr.toNat / 65536)
    b4 := BitVec.ofNat 8 (p.addr.toNat / 256), b5 := BitVec.ofNat 8 p.addr.toNat, b6 := BitVec.ofNat 8 p.tag.val
    b7 := BitVec.ofNat 8 p.burst, b8 := BitVec.ofNat 8 p.quality.val, b9 := BitVec.ofNat 8 (p.round.val / 256)
    b10 := BitVec.ofNat 8 p.round.val, b11 := BitVec.ofNat 8 p.window.val
    b12 := BitVec.ofNat 8 ((crc16 content).toNat / 256), b13 := BitVec.ofNat 8 (crc16 content).toNat }

theorem Report.frame_ofBytes (p : Report) :
    ∃ bytes, p.frame = 0xC3#8 :: bytes ∧ bytes.length = 13 ∧ RxFrame.ofBytes bytes = some p.taken := ⟨_, rfl, rfl, rfl⟩

theorem Report.taken_good (p : Report) : p.taken.good = true := by
  unfold RxFrame.good
  exact beq_iff_eq.mpr (check_halves _).symm

theorem Report.taken_zeroBits (p : Report) : p.taken.zeroBits = 0 := by
  have field : ∀ {n k l : Nat}, n % 256 / 2 ^ k % 2 ^ l = 0 → (BitVec.ofNat 8 n).extractLsb' k l = 0 := fun h =>
    BitVec.eq_of_toNat_eq (by rw [extract_toNat, BitVec.toNat_ofNat, h]; simp)
  have h1 : p.taken.b1.extractLsb' 3 1 = 0 := field (by omega)
  have h3 : p.taken.b3.extractLsb' 6 2 = 0 := field (by have := p.addr.isLt; omega)
  have h6 : p.taken.b6.extractLsb' 3 5 = 0 := field (by omega)
  have h8 : p.taken.b8.extractLsb' 4 4 = 0 := field (by omega)
  have h9 : p.taken.b9.extractLsb' 4 4 = 0 := field (by omega)
  have h11 : p.taken.b11.extractLsb' 5 3 = 0 := field (by omega)
  unfold RxFrame.zeroBits
  rw [h1, h3, h6, h8, h9, h11]
  rfl

theorem Report.taken_report {p : Report} (h : p.burst ≤ 255) : p.taken.report = some p := by
  have hkind : ReportKind.ofByte p.taken.b2 = some p.kind := by
    show ReportKind.ofByte (match p.kind with | .heard => 1 | .read => 2 | .fetch => 3 | .register => 4) = _
    cases p.kind <;> rfl
  unfold RxFrame.report
  rw [hkind]
  simp only [p.taken_zeroBits, if_true]
  have field : ∀ n k l : Nat, ((BitVec.ofNat 8 n).extractLsb' k l).toNat = n % 256 / 2 ^ k % 2 ^ l := fun n k l => by
    rw [extract_toNat, BitVec.toNat_ofNat]
  have hsite : (p.taken.b1.extractLsb' 4 4).toFin = p.site := Fin.ext ((field _ 4 4).trans (by omega))
  have hzone : (p.taken.b1.extractLsb' 0 3).toFin = p.zone := Fin.ext ((field _ 0 3).trans (by omega))
  have htag : (p.taken.b6.extractLsb' 0 3).toFin = p.tag := Fin.ext ((field _ 0 3).trans (by omega))
  have hburst : p.taken.b7.toNat = p.burst := Nat.mod_eq_of_lt (Nat.lt_succ_of_le h)
  have hquality : (p.taken.b8.extractLsb' 0 4).toFin = p.quality := Fin.ext ((field _ 0 4).trans (by omega))
  have hwindow : (p.taken.b11.extractLsb' 0 5).toFin = p.window := Fin.ext ((field _ 0 5).trans (by omega))
  have hround : (p.taken.b9.extractLsb' 0 4 ++ p.taken.b10).toFin = p.round := Fin.ext (by
    refine (toNat_append_eq _ _).trans ?_
    rw [show (p.taken.b9.extractLsb' 0 4).toNat = _ from field _ 0 4, show p.taken.b10.toNat = _ from BitVec.toNat_ofNat ..]
    omega)
  have haddr : p.taken.b3.extractLsb' 0 6 ++ p.taken.b4 ++ p.taken.b5 = p.addr := BitVec.eq_of_toNat_eq (by
    have := p.addr.isLt
    rw [toNat_append_eq, toNat_append_eq, show (p.taken.b3.extractLsb' 0 6).toNat = _ from field _ 0 6,
      show p.taken.b4.toNat = _ from BitVec.toNat_ofNat .., show p.taken.b5.toNat = _ from BitVec.toNat_ofNat ..]
    omega)
  rw [hsite, hzone, htag, hburst, hquality, hwindow, hround, haddr]

/-- Settles O44: the bytes of the frame are judged, and its fields read back. -/
theorem replyFrameReadsBack : Obligations.ReplyFrameReadsBack := by
  unfold Obligations.ReplyFrameReadsBack
  refine ⟨check16, fun s l p hb => ?_⟩
  obtain ⟨bytes, hframe, hlen, hof⟩ := p.frame_ofBytes
  have hjudge : ∀ t : State, t.judgeFrame l bytes = (t.setLink l .hunting).filterReport p := fun t =>
    State.judgeFrame_report hof p.taken_good (Report.taken_report hb)
  refine ⟨fun hl => ?whole, fun k h1 h13 hl => ?rest⟩
  case whole =>
    rw [exec_replyReportFrame_eq, hframe, State.foldl_rxByte_hunting hl hlen, hjudge, State.setLink_self hl]
  case rest =>
    obtain ⟨j, rfl⟩ := Nat.exists_eq_add_of_le' h1
    rw [hframe, List.take_succ_cons, List.drop_succ_cons, List.drop_zero] at hl
    rw [exec_replyReportFrame_eq, hframe, List.drop_succ_cons, State.foldl_rxByte_taking _ hl, List.take_append_drop,
      hjudge]
    · rfl
    · rw [List.length_take, List.length_drop, hlen]
      omega
    · intro hnil
      have := congrArg List.length hnil
      rw [List.length_drop, hlen, List.length_nil] at this
      omega

/-! ### The reply queue (R107) -/

section
variable {s : State} {p : Report}

theorem State.joinReplies_room (h : s.rxi.replies.length < 64) :
    s.joinReplies p = { s with rxi := { s.rxi with replies := s.rxi.replies ++ [p] } } := if_pos h

theorem State.joinReplies_discard (h : 64 ≤ s.rxi.replies.length) (hp : s.office.replyPolicy = .discardNew) :
    s.joinReplies p = State.raise { s with rxi := { s.rxi with overflow := min (s.rxi.overflow + 1) 255 } } .replyOverflow
      [(str "POLICY", .word (str "DISCARD_NEW")), (str "COUNT", .num (min (s.rxi.overflow + 1) 255))] := by
  refine (if_neg (Nat.not_lt.mpr h)).trans ?_
  rw [hp]
  rfl

theorem State.joinReplies_overwrite {head : Report} {tail : List Report} (hr : s.rxi.replies = head :: tail)
    (h : 64 ≤ s.rxi.replies.length) (hp : s.office.replyPolicy = .overwriteOldest) :
    s.joinReplies p = State.raise
        { s with rxi := { s.rxi with replies := tail ++ [p], overflow := min (s.rxi.overflow + 1) 255 } } .replyOverflow
      [(str "POLICY", .word (str "OVERWRITE_OLDEST")), (str "COUNT", .num (min (s.rxi.overflow + 1) 255))] := by
  refine (if_neg (Nat.not_lt.mpr h)).trans ?_
  rw [hp, hr]
  rfl

end

/-! ### Frames at fault (R183) -/

theorem rescan_of_unmarked {bytes : List Byte} (h : ∀ b ∈ bytes, b ≠ 0xC3#8) : rescan bytes = .hunting := by
  have hdrop : bytes.dropWhile (fun b => b != startByte) = [] :=
    List.dropWhile_eq_nil_iff.mpr fun b hb => bne_iff_ne.mpr (h b hb)
  unfold rescan
  rw [hdrop]

theorem rescan_of_marked {before after : List Byte} (h : ∀ b ∈ before, b ≠ 0xC3#8) :
    rescan (before ++ 0xC3#8 :: after) = .taking after := by
  have hdrop : (before ++ 0xC3#8 :: after).dropWhile (fun b => b != startByte) = 0xC3#8 :: after := by
    rw [List.dropWhile_append_of_pos (p := fun b => b != startByte) fun b hb => bne_iff_ne.mpr (h b hb)]
    exact List.dropWhile_cons_of_neg (by decide)
  unfold rescan
  rw [hdrop]

theorem exists_of_length_eleven {l : List Byte} (h : l.length = 11) :
    ∃ b1 b2 b3 b4 b5 b6 b7 b8 b9 b10 b11, l = [b1, b2, b3, b4, b5, b6, b7, b8, b9, b10, b11] := by
  match l, h with
  | [b1, b2, b3, b4, b5, b6, b7, b8, b9, b10, b11], _ => exact ⟨_, _, _, _, _, _, _, _, _, _, _, rfl⟩

/-- A reserved bit that is set is among the bits that must be zero. -/
theorem RxFrame.zeroBits_ne_zero {f : RxFrame}
    (h : f.b1 &&& 0x08#8 ≠ 0#8 ∨ f.b3 &&& 0xC0#8 ≠ 0#8 ∨ f.b6 &&& 0xF8#8 ≠ 0#8 ∨ f.b8 &&& 0xF0#8 ≠ 0#8 ∨
      f.b9 &&& 0xF0#8 ≠ 0#8 ∨ f.b11 &&& 0xE0#8 ≠ 0#8) : f.zeroBits ≠ 0 := by
  intro h0
  obtain ⟨h0, h11⟩ := append_eq_zero h0
  obtain ⟨h0, h9⟩ := append_eq_zero h0
  obtain ⟨h0, h8⟩ := append_eq_zero h0
  obtain ⟨h0, h6⟩ := append_eq_zero h0
  obtain ⟨h1, h3⟩ := append_eq_zero h0
  have mask1 : ∀ b : Byte, b.extractLsb' 3 1 = 0 → b &&& 0x08#8 = 0#8 := by decide
  have mask3 : ∀ b : Byte, b.extractLsb' 6 2 = 0 → b &&& 0xC0#8 = 0#8 := by decide
  have mask6 : ∀ b : Byte, b.extractLsb' 3 5 = 0 → b &&& 0xF8#8 = 0#8 := by decide
  have mask8 : ∀ b : Byte, b.extractLsb' 4 4 = 0 → b &&& 0xF0#8 = 0#8 := by decide
  have mask11 : ∀ b : Byte, b.extractLsb' 5 3 = 0 → b &&& 0xE0#8 = 0#8 := by decide
  rcases h with h | h | h | h | h | h
  · exact h (mask1 _ h1)
  · exact h (mask3 _ h3)
  · exact h (mask6 _ h6)
  · exact h (mask8 _ h8)
  · exact h (mask8 _ h9)
  · exact h (mask11 _ h11)

theorem RxFrame.report_eq_none {f : RxFrame} (h : f.b2 = 0#8 ∨ 4#8 < f.b2 ∨ f.zeroBits ≠ 0) : f.report = none := by
  unfold RxFrame.report
  cases hk : ReportKind.ofByte f.b2 with
  | none => rfl
  | some k =>
    have hno : ¬ (f.b2 = 0#8 ∨ 4#8 < f.b2) := fun hb => by
      rw [(ReportKind.ofByte_eq_none_iff _).mpr hb] at hk
      cases hk
    rw [← or_assoc] at h
    exact if_neg (h.resolve_left hno)

/-- Settles O45: the marker, the three frames at fault, and the three ways of the reply queue. -/
theorem framesAndQueue : Obligations.FramesAndQueue := by
  unfold Obligations.FramesAndQueue
  refine ⟨check16, fun s l b hl => ⟨fun hb => ?marker, fun hb => ?other⟩, fun s l content hi lo hl hlen => ?frames,
    fun s p => ⟨State.joinReplies_room, State.joinReplies_discard, fun head tail => State.joinReplies_overwrite⟩⟩
  case marker =>
    show execStartMarker l b s = _
    unfold execStartMarker State.rxByte
    simp only [hl]
    rw [if_pos (show b = startByte from hb)]
    rfl
  case other =>
    show execStartMarker l b s = _
    unfold execStartMarker State.rxByte
    simp only [hl]
    rw [if_neg (show ¬ b = startByte from hb)]
    rfl
  case frames =>
    intro frame
    obtain ⟨b1, b2, b3, b4, b5, b6, b7, b8, b9, b10, b11, rfl⟩ := exists_of_length_eleven hlen
    let f : RxFrame := ⟨b1, b2, b3, b4, b5, b6, b7, b8, b9, b10, b11, hi, lo⟩
    let bytes := [b1, b2, b3, b4, b5, b6, b7, b8, b9, b10, b11] ++ [hi, lo]
    have hf : RxFrame.ofBytes bytes = some f := rfl
    have hexec : exec (.replyReportFrame l frame) s = .next (s.judgeFrame l bytes).settle := by
      rw [exec_replyReportFrame_eq]
      exact congrArg (fun t : State => Host.Outcome.next t.settle) (State.foldl_rxByte_hunting hl rfl)
    have hbad : hi ++ lo ≠ crc16 [b1, b2, b3, b4, b5, b6, b7, b8, b9, b10, b11] → f.good = false := fun h =>
      beq_eq_false_iff_ne.mpr h.symm
    rw [hexec]
    refine ⟨fun h hno => ?_, fun before after h hsplit hno => ?_, fun _ _ _ _ _ _ _ _ _ _ _ heq hcheck hfault => ?_⟩
    · rw [State.judgeFrame_bad hf (hbad h), rescan_of_unmarked hno, State.setLink_self hl]
      rfl
    · rw [State.judgeFrame_bad hf (hbad h), show bytes = _ from hsplit, rescan_of_marked hno]
      rfl
    · cases heq
      have hgood : f.good = true := beq_iff_eq.mpr hcheck.symm
      rw [State.judgeFrame_fault hf hgood (RxFrame.report_eq_none (f := f) ?_), State.setLink_self hl]
      · rfl
      · rcases hfault with h | h | h
        · exact .inl h
        · exact .inr (.inl h)
        · exact .inr (.inr (RxFrame.zeroBits_ne_zero h))

end Sys2Proof.Machine
end

section
/-! SUBMIT: its checks in their order (O19), and what an accepted one leaves (O20). -/

namespace Sys2Proof.Machine

/-! ### The checks (R22 to R24) -/

theorem isNumericChar_iff (b : Byte) : isNumericChar b = true ↔ b ∈ str "0123456789 -.()" := by
  revert b
  decide

theorem keptText_eq (enc : Encoding) (n : Nat) (t : Text) : keptText enc n t = if enc = .tone then [] else t.take n := by
  cases enc <;> rfl

theorem checkCredit_bind {α : Type} (m : Money) (estimate : Nat) (k : Unit → Except Denial α) :
    (checkCredit m estimate >>= k) =
      if m.balance - m.floor - m.reserved < estimate then
        .error (.refusal .noCredit
          [(str "EST", .num estimate), (str "HEADROOM", .int (m.balance - m.floor - m.reserved))])
      else k () := by
  unfold checkCredit Money.headroom
  split <;> rfl

/-- Settles O19: the chain of checks, each a branch. -/
theorem submitChecksInOrder : Obligations.SubmitChecksInOrder := by
  unfold Obligations.SubmitChecksInOrder
  refine ⟨isNumericChar_iff, fun c => ⟨rfl, payloadBlocks_numeric c, payloadBlocks_alpha c⟩,
    fun s => ⟨rfl, s.freeChunks_eq⟩, fun s fs enc n hform henc hsub => ?_⟩
  intro pri given
  unfold checkSubmit
  rw [hform, ok_bind, henc, need_some_bind, subscriberNumber_of_some hsub]
  by_cases hn : 4096 ≤ n
  · rw [if_pos hn, if_neg (Nat.not_lt.mpr hn), error_bind]
  · rw [if_neg hn, if_pos (Nat.lt_of_not_le hn), ok_bind, presentEntry_eq]
    cases s.sub? n with
    | none => rfl
    | some e =>
      have hroom : ∀ c : Nat, chunksFor c = (c + 15) / 16 := fun _ => rfl
      have htruncated : ∀ i j : Nat, (enc != .tone && decide (i < j)) = decide (enc ≠ .tone ∧ i < j) := fun i j => by
        cases enc <;> simp
      simp only [ok_bind, refuseIf_bind, checkCredit_bind, beq_iff_eq, Bool.and_eq_true, decide_eq_true_eq,
        Bool.not_eq_true', keptText_eq, hroom, htruncated]
      rfl

/-! ### The order of acceptance (R25, R69) -/

theorem older_of_near {a b : BitVec 32} (h : (b - a).toNat < 2147483648) : older a b = true ↔ a ≠ b := by
  unfold older
  simp only
  rw [if_neg (by omega), Bool.and_eq_true, decide_eq_true_eq, decide_eq_true_eq, and_iff_left h]
  bv_omega

theorem older_of_far {a b : BitVec 32} (h : 2147483648 < (b - a).toNat) : older a b = false := by
  unfold older
  simp only
  rw [if_neg (by omega), decide_eq_false (by omega : ¬ (b - a).toNat < 2147483648), Bool.and_false]

/-- Among sequences less than half the range behind a base, the older is the nearer to it. -/
theorem older_iff_of_base {a b base : BitVec 32} (ha : (a - base).toNat < 2147483648)
    (hb : (b - base).toNat < 2147483648) : older a b = true ↔ (a - base).toNat < (b - base).toNat := by
  rcases Nat.lt_trichotomy (b - a).toNat 2147483648 with h | h | h
  · rw [older_of_near h]
    bv_omega
  · exfalso
    bv_omega
  · rw [older_of_far h]
    simp only [Bool.false_eq_true, false_iff]
    bv_omega

/-- A record put into a list in order leaves it in order, where the order is total and carries over. -/
theorem State.stand_putIn {s : State} {ahead : PageRec → PageRec → Prop} {r : PageRec} {old new : List MsgId}
    (hr : s.rec? r.id = some r) (hold : ∀ m ∈ old, ∃ x, s.rec? m = some x)
    (total : ∀ m ∈ old, ∀ x, s.rec? m = some x → ¬ ahead r x → ahead x r)
    (trans : ∀ m ∈ old, ∀ x, s.rec? m = some x → ∀ m' ∈ old, ∀ y, s.rec? m' = some y →
      ahead r x → ahead x y → ahead r y)
    (hput : s.PutIn ahead r old new) (hstand : s.Stand ahead old) : s.Stand ahead new := by
  obtain ⟨front, back, rfl, rfl, hfront, hback⟩ := hput
  obtain ⟨hf, hb, hfb⟩ := List.pairwise_append.mp hstand
  refine List.pairwise_append.mpr ⟨hf, List.pairwise_cons.mpr ⟨fun m hm => ?_, hb⟩, fun m hm m' hm' => ?_⟩
  · cases back with
    | nil => cases hm
    | cons first rest =>
      obtain ⟨x, hx, hrx⟩ := hback first rfl
      rcases List.mem_cons.mp hm with rfl | hm
      · exact ⟨r, x, hr, hx, hrx⟩
      · obtain ⟨x', y, hx', hy, hxy⟩ := (List.pairwise_cons.mp hb).1 m hm
        obtain rfl := Option.some.inj (hx.symm.trans hx')
        exact ⟨r, y, hr, hy, trans first (List.mem_append_right _ (List.mem_cons_self ..)) x hx m
          (List.mem_append_right _ (List.mem_cons_of_mem _ hm)) y hy hrx hxy⟩
  · rcases List.mem_cons.mp hm' with rfl | hm'
    · obtain ⟨x, hx⟩ := hold m (List.mem_append_left _ hm)
      exact ⟨x, r, hx, hr, total m (List.mem_append_left _ hm) x hx (hfront m hm x hx)⟩
    · exact hfb m hm m' hm'

/-- The sequences of the records of a list, beside `r`, are less than half the range behind a base and not that of `r`. -/
def State.Near (s : State) (base : BitVec 32) (r : PageRec) (old : List MsgId) : Prop :=
  ∀ m ∈ old, ∃ x, s.rec? m = some x ∧ (x.seq - base).toNat < 2147483648 ∧ x.seq ≠ r.seq

section
variable {s : State} {base : BitVec 32} {r : PageRec} {old new : List MsgId}

theorem State.Near.of_rec (h : s.Near base r old) {m : MsgId} (hm : m ∈ old) {x : PageRec} (hx : s.rec? m = some x) :
    (x.seq - base).toNat < 2147483648 ∧ (x.seq - base).toNat ≠ (r.seq - base).toNat := by
  obtain ⟨x', hx', hn, hne⟩ := h m hm
  obtain rfl := Option.some.inj (hx.symm.trans hx')
  exact ⟨hn, fun heq => hne (by bv_omega)⟩

theorem State.stand_held (hr : s.rec? r.id = some r) (hb : (r.seq - base).toNat < 2147483648) (h : s.Near base r old)
    (hput : s.PutIn PageRec.HeldAhead r old new) (hstand : s.Stand PageRec.HeldAhead old) :
    s.Stand PageRec.HeldAhead new := by
  refine State.stand_putIn hr (fun m hm => ?_) (fun m hm x hx hno => ?_) (fun m hm x hx m' hm' y hy hrx hxy => ?_) hput hstand
  · obtain ⟨x, hx, -⟩ := h m hm
    exact ⟨x, hx⟩
  · obtain ⟨hn, hne⟩ := h.of_rec hm hx
    unfold PageRec.HeldAhead at hno ⊢
    rw [older_iff_of_base hb hn] at hno
    rw [older_iff_of_base hn hb]
    omega
  · obtain ⟨hn, -⟩ := h.of_rec hm hx
    obtain ⟨hn', -⟩ := h.of_rec hm' hy
    unfold PageRec.HeldAhead at hrx hxy ⊢
    rw [older_iff_of_base hb hn] at hrx
    rw [older_iff_of_base hn hn'] at hxy
    rw [older_iff_of_base hb hn']
    omega

theorem State.stand_queue (hr : s.rec? r.id = some r) (hb : (r.seq - base).toNat < 2147483648) (h : s.Near base r old)
    (hput : s.PutIn PageRec.QueueAhead r old new) (hstand : s.Stand PageRec.QueueAhead old) :
    s.Stand PageRec.QueueAhead new := by
  refine State.stand_putIn hr (fun m hm => ?_) (fun m hm x hx hno => ?_) (fun m hm x hx m' hm' y hy hrx hxy => ?_) hput hstand
  · obtain ⟨x, hx, -⟩ := h m hm
    exact ⟨x, hx⟩
  · obtain ⟨hn, hne⟩ := h.of_rec hm hx
    unfold PageRec.QueueAhead at hno ⊢
    rw [Fin.lt_def, Fin.ext_iff] at hno ⊢
    rw [older_iff_of_base hb hn] at hno
    rw [older_iff_of_base hn hb]
    omega
  · obtain ⟨hn, -⟩ := h.of_rec hm hx
    obtain ⟨hn', -⟩ := h.of_rec hm' hy
    unfold PageRec.QueueAhead at hrx hxy ⊢
    rw [Fin.lt_def, Fin.ext_iff] at hrx hxy ⊢
    rw [older_iff_of_base hb hn] at hrx
    rw [older_iff_of_base hn hn'] at hxy
    rw [older_iff_of_base hb hn']
    omega

end

/-! ### The slot (R25, R27) -/

/-- Below the lowest vacant number every number is taken. -/
theorem lowestVacant_below {α : Type} (l : List (Nat × α)) (k : Nat) :
    ∀ j, k ≤ j → j < lowestVacant k l → ∃ c ∈ l, c.1 = j := by
  induction l generalizing k with
  | nil => exact fun j hk hj => absurd hj (Nat.not_lt.mpr hk)
  | cons c cs ih =>
    intro j hk hj
    unfold lowestVacant at hj
    split at hj
    · next hc =>
      rcases Nat.eq_or_lt_of_le hk with rfl | hlt
      · exact ⟨c, List.mem_cons_self .., hc⟩
      · obtain ⟨d, hd, hdj⟩ := ih (k + 1) j hlt hj
        exact ⟨d, List.mem_cons_of_mem _ hd, hdj⟩
    · exact absurd hj (Nat.not_lt.mpr hk)

theorem Table.get?_below_lowest {α : Type} (t : Table α) {k : Nat} (h : k < t.lowest) : t.get? k ≠ none := by
  obtain ⟨c, hc, hck⟩ := lowestVacant_below t.cells 0 k (Nat.zero_le k) h
  unfold Table.get?
  rw [ne_eq, Option.map_eq_none_iff, List.find?_eq_none]
  exact fun hno => hno c hc (beq_iff_eq.mpr hck)

theorem Table.getD_setGen (t : Table (BitVec 16)) (slot : Nat) (g : BitVec 16) : ((t.setGen slot g).get? slot).getD 0 = g := by
  unfold Table.setGen
  split
  · next h => rw [Table.get?_erase_self, h]; rfl
  · rw [Table.get?_set_self]; rfl

end Sys2Proof.Machine
end

section
/-! What an accepted SUBMIT leaves (O20). -/

namespace Sys2Proof.Machine

/-! ### Chunks (R20) -/

/-- A chunk holds at most 16 characters. -/
theorem length_chars_takeChunks (n : Nat) (used : List Nat) (draw : Nat) (t : Text) :
    ∀ c ∈ takeChunks n used draw t, c.chars.length ≤ 16 := by
  induction n generalizing used draw t with
  | zero => exact List.forall_mem_nil _
  | succ n ih => exact List.forall_mem_cons.mpr ⟨List.length_take_le _ _, ih _ _ _⟩

section
variable (s : State) (a : SubmitArgs) (e : Entry) (id : MsgId)

theorem SubmitArgs.record_chunks_none (h : a.text = []) : (a.record s e id).chunks = none := if_pos h

theorem SubmitArgs.record_chunks_some (h : a.text ≠ []) :
    (a.record s e id).chunks = some (takeChunks ((a.text.length + 15) / 16) s.usedChunks s.fresh a.text) := if_neg h

/-- The chunks hold the text accepted. -/
theorem SubmitArgs.record_text : (a.record s e id).text = a.text := by
  unfold PageRec.text PageRec.chunkList
  by_cases h : a.text = []
  · rw [a.record_chunks_none s e id h, h]
    rfl
  · rw [a.record_chunks_some s e id h]
    exact text_takeChunks _ _ _ _ (by show a.text.length ≤ 16 * _; omega)

variable {s a}

/-- The chunks are free ones of the pool, none twice. -/
theorem SubmitArgs.chunks_free (hroom : chunksFor a.text.length ≤ s.freeChunks) (h : a.text ≠ []) :
    let cs := takeChunks ((a.text.length + 15) / 16) s.usedChunks s.fresh a.text
    (cs.map (·.index)).Nodup ∧ ∀ c ∈ cs, c.index < 12288 ∧ c.index ∉ s.usedChunks := by
  intro cs
  have hpos : 0 < a.text.length := List.length_pos_of_ne_nil h
  have hfit : s.usedChunks.length + (a.text.length + 15) / 16 ≤ Config.chunks := by
    have hr : (a.text.length + 15) / 16 ≤ 12288 - s.usedChunks.length := hroom
    show _ ≤ 12288
    omega
  obtain ⟨hnodup, hfree, -⟩ := takeChunks_free _ s.usedChunks s.fresh a.text hfit
  exact ⟨hnodup, fun c hc => (hfree c.index (List.mem_map_of_mem hc)).symm⟩

end

/-! ### Acceptance (R25) -/

/-- The entry of an accepted message. -/
def SubmitArgs.counted (a : SubmitArgs) (e : Entry) : Entry :=
  { e with live := e.live + 1, money := { e.money with reserved := e.money.reserved + a.estimate } }

/-- The fields of the answer to an accepted message. -/
def SubmitArgs.answered (a : SubmitArgs) (id : MsgId) : List Field :=
  [(str "MSG", .msg id), (str "N", .num a.blocks), (str "EST", .num a.estimate)] ++
    (if a.truncated then [(str "TRUNCATED", .num a.text.length)] else []) ++
    (if a.lowered then [(str "PRIORITY", .num a.pri)] else [])

/-- The record allocated and counted, congestion not yet judged. -/
def State.accepted (u : State) (a : SubmitArgs) (e : Entry) : State :=
  (u.allocate (a.record u e u.nextId)).setSub a.sub (a.counted e)

theorem applySubmit_eq (tag : Nat) {a : SubmitArgs} {u : State} {e : Entry} (he : u.sub? a.sub = some e) :
    applySubmit tag a u = (((u.accepted a e).judgeCongestion).fileRec (a.record u e u.nextId)).answer
      [.final tag .ok (a.answered u.nextId)] := by
  unfold applySubmit
  rw [he]
  rfl

/-- The judgement of congestion is of the store and the settings. -/
theorem State.judgeCongestion_congr {s t : State} (hstore : t.store = s.store) (hhlc : t.hlc = s.hlc)
    (hoffice : t.office = s.office) :
    t.judgeCongestion.store = s.judgeCongestion.store ∧ t.judgeCongestion.hlc = s.judgeCongestion.hlc := by
  unfold State.judgeCongestion State.freeRecords State.raise
  simp only [hstore, hhlc, hoffice]
  (repeat' split) <;> simp [hstore, hhlc]

theorem State.answer_hlc_congr {s t : State} (h : t.hlc = s.hlc) (lines : List OutLine) :
    (t.answer lines).hlc = (s.answer lines).hlc := by
  unfold State.answer
  simp only [h]

/-- Settles O20: acceptance part by part, and the order filing keeps. -/
theorem submitAccepted : Obligations.SubmitAccepted := by
  unfold Obligations.SubmitAccepted
  refine ⟨fun s l rest a e hl hc he => ?accepted,
    fun records hw => ⟨Table.get?_lowest (decide_eq_true hw), fun k hk => records.get?_below_lowest hk⟩, fun _ _ => rfl,
    fun a b => ⟨older_of_near, older_of_far⟩, fun s r e he _ => State.putIn_fileRec he,
    fun s r base old new hr hb h => ⟨State.stand_queue hr hb h, State.stand_held hr hb h⟩⟩
  case accepted =>
    intro slot id
    let u := s.lineOff rest
    let r := a.record u e id
    let v := u.accepted a e
    obtain ⟨-, -, -, -, hroom⟩ := checkSubmit_eq_ok hc
    have happly : applySubmit l.tag a u = (v.judgeCongestion.fileRec r).answer [.final l.tag .ok (a.answered id)] :=
      applySubmit_eq l.tag (u := u) he
    have hexec : exec .submit s = .next (applySubmit l.tag a u).settle := by
      rw [exec_submit_of_heads hl, hc, carry_ok]
    obtain ⟨hacct, hrmat, -, hrxi, htxi, haclk, hplans, hoffice, hbuild, hair, hrate⟩ := applySubmit_frame l.tag a u
    obtain ⟨jrecs, jgens, jseq⟩ := v.judgeCongestion_store
    have hstore : (applySubmit l.tag a u).settle.store = v.judgeCongestion.store := by rw [happly]; simp
    have hrecs : (applySubmit l.tag a u).settle.store.records = s.store.records.set slot r := by rw [hstore, jrecs]; rfl
    have hsub : ∀ n, (applySubmit l.tag a u).settle.sub? n = if n = a.sub then some (a.counted e) else s.sub? n := fun n => by
      refine (State.sub?_congr (s := v) (by rw [happly]; simp) n).trans ?_
      exact State.sub?_setSub _ _ _ _
    have hj : v.judgeCongestion.sub? r.sub = some (a.counted e) := by
      refine (State.sub?_congr (s := v) (by simp) _).trans ?_
      exact (State.sub?_setSub _ _ _ _).trans (if_pos rfl)
    have hqueue : ∀ w, (applySubmit l.tag a u).settle.queue w = (v.judgeCongestion.fileRec r).queue w := fun w => by
      rw [happly]
      rfl
    have hold : ∀ w, v.judgeCongestion.queue w = s.queue w := fun w => State.queue_congr (s := v) (by simp) w
    have hrec : ∀ m, (applySubmit l.tag a u).settle.rec? m = (v.judgeCongestion.fileRec r).rec? m := fun m =>
      State.rec?_congr (by rw [hstore]; simp) m
    obtain ⟨hperm, hother⟩ := State.queue_fileRec (r := r) v.judgeCongestion hj
    have hput := State.putIn_fileRec hj
    simp only [hold] at hperm hother hput
    have hjudged := State.judgeCongestion_congr
      (s := v) (t := { u with store := { (applySubmit l.tag a u).settle.store with congested := s.store.congested } })
      (by rw [hstore]; exact (congrArg State.store v.judgeCongestion_rest :)) rfl rfl
    obtain ⟨hjstore, hjhlc⟩ := hjudged
    refine ⟨_, r, hexec, ?rec, rfl, rfl, rfl, rfl, rfl, rfl, rfl, a.record_text u e id, rfl, rfl,
      a.record_chunks_none u e id, fun ht => ⟨_, a.record_chunks_some u e id ht, length_takeChunks _ _ _ _,
        length_chars_takeChunks _ _ _ _, fun _ _ => SubmitArgs.chunks_free (s := u) hroom ht⟩, rfl, rfl, rfl, rfl, rfl, rfl,
      rfl, rfl, rfl, rfl, rfl, rfl, rfl, rfl, rfl, rfl, rfl, rfl, rfl, rfl, rfl, rfl, rfl, rfl, rfl, ?next, ?gen,
      (hsub _).trans (if_pos rfl), fun m hm => (hsub m).trans (if_neg hm), fun m hm => ?others, ?perm, ?put,
      fun w hw => (hqueue w).trans (hother w hw), ⟨hstore.trans hjstore.symm, ?host⟩, hplans, haclk, htxi, hrxi, hrmat, hrate,
      hacct, hoffice, hbuild, hair⟩
    case rec =>
      unfold State.rec?
      rw [hrecs, Table.get?_set_self]
      exact if_pos rfl
    case next => rw [hstore, jseq]; rfl
    case gen =>
      unfold State.generation
      rw [hstore, jgens]
      exact Table.getD_setGen _ _ _
    case others =>
      unfold State.rec?
      rw [hrecs, Table.get?_set_other _ hm]
    case perm =>
      rw [hqueue]
      exact hperm
    case put =>
      rw [hqueue]
      exact State.putIn_congr (fun m => (hrec m).trans (State.rec?_fileRec _ _ m)) hput
    case host =>
      exact (congrArg (fun t : State => t.hlc.settle) happly).trans (congrArg Hlc.settle
        (State.answer_hlc_congr ((v.judgeCongestion.fileRec_frame r).1.trans hjhlc.symm) _))

end Sys2Proof.Machine
end

section
/-! Refusals (O7): the first field at fault, missing keys, and the answers. -/

namespace Sys2Proof.Machine

/-! ### The first field at fault (R170) -/

section
variable {forms : List KeyForm}

theorem fieldAtFault_iff (f : RawField) :
    fieldAtFault forms f = true ↔
      ¬ ∃ v form, f.value = some v ∧ forms.find? (fun k => k.1 == f.key) = some form ∧ form.2 v = true := by
  constructor
  · rintro h ⟨v, form, hv, hform, hread⟩
    unfold fieldAtFault at h
    rw [hv, hform] at h
    simp [hread] at h
  · intro h
    by_contra hno
    exact h (fieldAtFault_eq_false (Bool.eq_false_iff.mpr hno))

/-- The test of a field, with the keys seen those of the fields before it. -/
theorem faulty_iff {seen : List Text} {before : List RawField} (hs : ∀ k, k ∈ seen ↔ ∃ x ∈ before, x.key = k)
    (f : RawField) : (fieldAtFault forms f || seen.contains f.key) = true ↔ Faulty forms before f := by
  rw [Bool.or_eq_true, fieldAtFault_iff, List.contains_iff_mem, hs]
  rfl

theorem seen_concat {seen : List Text} {before : List RawField} (hs : ∀ k, k ∈ seen ↔ ∃ x ∈ before, x.key = k)
    (f : RawField) : ∀ k, k ∈ f.key :: seen ↔ ∃ x ∈ before ++ [f], x.key = k := by
  intro k
  rw [List.mem_cons, hs]
  constructor
  · rintro (rfl | ⟨x, hx, hk⟩)
    · exact ⟨f, List.mem_append_right _ (List.mem_singleton_self f), rfl⟩
    · exact ⟨x, List.mem_append_left _ hx, hk⟩
  · rintro ⟨x, hx, hk⟩
    rcases List.mem_append.mp hx with hx | hx
    · exact .inr ⟨x, hx, hk⟩
    · rw [List.mem_singleton] at hx
      exact .inl (by rw [← hk, hx])

/-- `f` is the first field at fault of a line whose fields `done` have been passed. -/
def FirstFaultyAfter (forms : List KeyForm) (done fs : List RawField) (f : RawField) : Prop :=
  ∃ before after, fs = before ++ f :: after ∧ Faulty forms (done ++ before) f ∧
    ∀ b x a, before = b ++ x :: a → ¬ Faulty forms (done ++ b) x

theorem firstFaultyAfter_nil (fs : List RawField) (f : RawField) :
    FirstFaultyAfter forms [] fs f ↔ FirstFaulty forms fs f := Iff.rfl

theorem firstFault_eq_some_iff {seen : List Text} {passed fs : List RawField}
    (hs : ∀ k, k ∈ seen ↔ ∃ x ∈ passed, x.key = k) (key : Text) :
    firstFault forms seen fs = some key ↔ ∃ f, FirstFaultyAfter forms passed fs f ∧ f.key = key := by
  induction fs generalizing seen passed with
  | nil =>
    refine ⟨fun h => (nomatch h), ?_⟩
    rintro ⟨f, ⟨before, after, hsplit, -⟩, -⟩
    exact absurd hsplit.symm (by simp)
  | cons x xs ih =>
    unfold firstFault
    by_cases hx : Faulty forms passed x
    · rw [if_pos ((faulty_iff hs x).mpr hx)]
      constructor
      · intro h
        exact ⟨x, ⟨[], xs, rfl, by rwa [List.append_nil], fun b y a hb => absurd hb.symm (by simp)⟩, Option.some.inj h⟩
      · rintro ⟨f, ⟨before, after, hsplit, -, hfirst⟩, hkey⟩
        cases before with
        | nil =>
          obtain ⟨rfl, -⟩ := List.cons.inj hsplit
          rw [hkey]
        | cons y ys =>
          obtain ⟨rfl, -⟩ := List.cons.inj hsplit
          exact absurd (by rwa [List.append_nil]) (hfirst [] x ys rfl)
    · rw [if_neg fun h => hx ((faulty_iff hs x).mp h), ih (seen_concat hs x)]
      constructor
      · rintro ⟨f, ⟨before, after, rfl, hf, hfirst⟩, hkey⟩
        refine ⟨f, ⟨x :: before, after, rfl, by simpa using hf, fun b y a hb => ?_⟩, hkey⟩
        cases b with
        | nil =>
          obtain ⟨rfl, -⟩ := List.cons.inj hb
          rwa [List.append_nil]
        | cons z zs =>
          obtain ⟨rfl, hrest⟩ := List.cons.inj hb
          simpa using hfirst zs y a hrest
      · rintro ⟨f, ⟨before, after, hsplit, hf, hfirst⟩, hkey⟩
        cases before with
        | nil =>
          obtain ⟨rfl, -⟩ := List.cons.inj hsplit
          exact absurd (by simpa using hf) hx
        | cons y ys =>
          obtain ⟨rfl, rfl⟩ := List.cons.inj hsplit
          refine ⟨f, ⟨ys, after, rfl, by simpa using hf, fun b z a hb => ?_⟩, hkey⟩
          simpa using hfirst (x :: b) z a (by rw [hb]; rfl)

/-- No field has been passed at the start of a line. -/
theorem firstFault_start_iff (fs : List RawField) (key : Text) :
    firstFault forms [] fs = some key ↔ ∃ f, FirstFaulty forms fs f ∧ f.key = key :=
  firstFault_eq_some_iff (passed := []) (by simp) key

end

/-! ### The form check (R170, log 8) -/

section
variable {forms : List KeyForm} {required : List String} {fs : List RawField}

theorem checkForm_of_fault {f : RawField} (h : FirstFaulty forms fs f) :
    checkForm forms required fs = .error (.badField f.key) := by
  unfold checkForm
  rw [(firstFault_start_iff fs f.key).mpr ⟨f, h, rfl⟩]

theorem checkForm_of_no_fault (h : ∀ f, ¬ FirstFaulty forms fs f) :
    checkForm forms required fs =
      match (required.map str).filter (fun k => fs.all (fun f => f.key != k)) with
      | [] => .ok ()
      | k :: more => .error (.missing k more) := by
  have hnone : firstFault forms [] fs = none := by
    rw [Option.eq_none_iff_forall_ne_some]
    intro key hkey
    obtain ⟨f, hf, -⟩ := (firstFault_start_iff fs key).mp hkey
    exact h f hf
  have habsent : (required.map str).filter (fun k => !(fs.any (fun f => f.key == k))) =
      (required.map str).filter (fun k => fs.all (fun f => f.key != k)) :=
    List.filter_congr fun k _ => List.not_any_eq_all_not
  unfold checkForm
  rw [hnone]
  simp only [habsent] <;> rfl

end

/-! ### Answers to what is refused -/

theorem exec_badCommand_of_none {s : State} {l : CmdLine} {rest : List CmdLine} (hb : s.hlc.buffer = l :: rest)
    (hl : l.command = none) :
    exec .badCommand s = .next ((s.lineOff rest).answer [.final l.tag (.refused .badCommand) []]).settle := by
  show execBadCommand s = _
  unfold execBadCommand
  rw [hb]
  exact if_pos hl

/-- Of several missing keys one is named. -/
theorem State.deny_missing (s : State) (tag : Nat) (key k : Text) (more : List Text) :
    ∃ named ∈ key :: k :: more, s.deny tag (.missing key (k :: more)) =
      State.answer { s with fresh := s.fresh + 1 } [.final tag (.refused .badField) [(str "FIELD", .word named)]] := by
  have hlt : Config.missingKey s.fresh % (key :: k :: more).length < (key :: k :: more).length :=
    Nat.mod_lt _ (by simp)
  refine ⟨(key :: k :: more).getD (Config.missingKey s.fresh % (key :: k :: more).length) key, ?_, rfl⟩
  rw [List.getD_eq_getElem _ _ hlt]
  exact List.getElem_mem hlt

theorem hasKey_eq_true_iff (fs : List RawField) (key : String) : hasKey fs key = true ↔ ∃ f ∈ fs, f.key = str key := by
  simp [hasKey]

/-- The value of a key is that of its first field. -/
theorem fieldOf_first {α : Type} {key : String} (read : Text → Option α) {before after : List RawField} {f : RawField}
    (hb : ∀ x ∈ before, x.key ≠ str key) (hf : f.key = str key) :
    fieldOf (before ++ f :: after) key read = f.value.bind read := by
  have hfind : (before ++ f :: after).find? (fun f => f.key == str key) = some f := by
    rw [List.find?_append, List.find?_eq_none.mpr fun x hx => by simpa using hb x hx, Option.none_or,
      List.find?_cons_of_pos (p := fun f : RawField => f.key == str key) (beq_iff_eq.mpr hf)]
  unfold fieldOf
  rw [hfind]
  rfl

/-- Settles O7: the refusals, the answers they give, and the key a line's form check names. -/
theorem refusalsOnlyAnswer : Obligations.RefusalsOnlyAnswer := by
  unfold Obligations.RefusalsOnlyAnswer
  refine ⟨fun s l rest hb hl => exec_badCommand_of_none hb hl, fun s c l rest d h hd => exec_row_of_refusal h hd,
    fun s tag => ⟨s.deny_badField tag, fun _ => rfl, s.deny_missing tag, s.deny_refusal tag, fun _ => rfl⟩,
    fun key α read => ⟨fun fs => hasKey_eq_true_iff fs key, fun fs h => fieldOf_of_not_hasKey read h,
      fun before after f hb hf => fieldOf_first read hb hf⟩,
    fun forms required fs => ?_⟩
  intro absent
  refine ⟨fun f hf => checkForm_of_fault hf, fun h => ⟨fun hnone => ?_, fun key more hsome => ?_⟩⟩
  · rw [checkForm_of_no_fault h, show List.filter _ _ = [] from hnone]
  · rw [checkForm_of_no_fault h, show List.filter _ _ = key :: more from hsome]

end Sys2Proof.Machine
end

section
/-! The received line (O5): decimal numbers digit by digit, hexadecimal checks, and the judgement. -/

namespace Sys2Proof.Machine

/-! ### Decimal numbers (11.1) -/

theorem decimalDigits_succ (fuel n : Nat) (acc : Text) :
    decimalDigits (fuel + 1) n acc =
      if n < 10 then BitVec.ofNat 8 (0x30 + n % 10) :: acc
      else decimalDigits fuel (n / 10) (BitVec.ofNat 8 (0x30 + n % 10) :: acc) := rfl

theorem decimalDigits_append (fuel n : Nat) (acc : Text) :
    decimalDigits fuel n acc = decimalDigits fuel n [] ++ acc := by
  induction fuel generalizing n acc with
  | zero => rfl
  | succ fuel ih =>
    rw [decimalDigits_succ, decimalDigits_succ]
    split
    · rfl
    · rw [ih _ (_ :: acc), ih _ [_], List.append_assoc]
      rfl

/-- More fuel than digits changes nothing. -/
theorem decimalDigits_fuel (fuel : Nat) {n : Nat} (h : n < 10 ^ (fuel + 1)) (acc : Text) :
    decimalDigits (fuel + 2) n acc = decimalDigits (fuel + 1) n acc := by
  induction fuel generalizing n acc with
  | zero =>
    have hn : n < 10 := h
    rw [decimalDigits_succ, decimalDigits_succ]
    exact (if_pos hn).trans (if_pos hn).symm
  | succ fuel ih =>
    rw [decimalDigits_succ, decimalDigits_succ (fuel + 1) n]
    split
    · rfl
    · exact ih (by rw [Nat.pow_succ] at h; omega) _

/-- A number's digits: those of its tenth, and the last one. -/
theorem showNat_eq {n : Nat} (h : n < 100000000000000000000) :
    showNat n = (if n < 10 then [] else showNat (n / 10)) ++ [BitVec.ofNat 8 (0x30 + n % 10)] := by
  unfold showNat
  rw [decimalDigits_succ]
  split
  · rfl
  · rw [decimalDigits_append, ← decimalDigits_fuel 18 (by omega)]

theorem digitChar_eq : ∀ d < 10, BitVec.ofNat 8 (0x30 + d) = (str "0123456789").getD d 0 := by decide

theorem ofNat_digitValue {b : Byte} (h : isDigit b = true) :
    digitValue b < 10 ∧ BitVec.ofNat 8 (0x30 + digitValue b) = b := by
  revert b
  decide

theorem digitValue_pos {b : Byte} (h : isDigit b = true) (h0 : b ≠ 0x30#8) : 0 < digitValue b := by
  revert b
  decide

theorem readNat_eq_some_iff {t : Text} {n : Nat} :
    readNat t = some n ↔
      t ≠ [] ∧ t.all isDigit = true ∧ (t.head? = some 0x30#8 → t.length = 1) ∧ digitsValue 0 t = n := by
  cases t with
  | nil => simp [readNat]
  | cons b rest =>
    have hlead : (b != 0x30#8 || rest.isEmpty) = true ↔
        ((b :: rest).head? = some 0x30#8 → (b :: rest).length = 1) := by
      rw [Bool.or_eq_true, bne_iff_ne, List.isEmpty_iff, List.head?_cons, Option.some.injEq, List.length_cons,
        Nat.add_eq_right, List.length_eq_zero_iff, imp_iff_not_or]
    rw [readNat, Option.ite_none_right_eq_some, Bool.and_eq_true, hlead, Option.some.injEq, and_assoc]
    exact (and_iff_right (List.cons_ne_nil _ _)).symm

theorem digitsValue_concat (v : Nat) (t : Text) (d : Byte) :
    digitsValue v (t ++ [d]) = 10 * digitsValue v t + digitValue d := by
  simp [digitsValue]

theorem le_digitsValue (v : Nat) (t : Text) : v ≤ digitsValue v t := by
  induction t generalizing v with
  | nil => exact Nat.le_refl v
  | cons b t ih => exact Nat.le_trans (by omega) (ih (10 * v + digitValue b))

/-- A number read is the number as it is sent: the form has one writing. -/
theorem eq_showNat_of_readNat {t : Text} {n : Nat} (h : readNat t = some n) (hn : n < 100000000000000000000) :
    t = showNat n := by
  induction t using List.reverseRecOn generalizing n with
  | nil => cases h
  | append_singleton t d ih =>
    obtain ⟨-, hdigits, hzero, hvalue⟩ := readNat_eq_some_iff.mp h
    rw [List.all_append, Bool.and_eq_true, List.all_cons, List.all_nil, Bool.and_true] at hdigits
    obtain ⟨htd, hd⟩ := hdigits
    obtain ⟨hlt, hchar⟩ := ofNat_digitValue hd
    have hsum : 10 * digitsValue 0 t + digitValue d = n := by
      rw [← hvalue, digitsValue_concat]
    rw [showNat_eq hn, show n % 10 = digitValue d by omega, hchar]
    congr 1
    cases t with
    | nil =>
      have h0 : digitsValue 0 [] = 0 := rfl
      rw [if_pos (by omega)]
    | cons b rest =>
      have hb : b ≠ 0x30#8 := fun hb => by
        have := hzero (congrArg some hb)
        simp at this
      have hread : readNat (b :: rest) = some (digitsValue 0 (b :: rest)) :=
        readNat_eq_some_iff.mpr ⟨List.cons_ne_nil _ _, htd, fun hb' => absurd (Option.some.inj hb') hb, rfl⟩
      have hpos : 0 < digitValue b := digitValue_pos (List.all_eq_true.mp htd b (List.mem_cons_self ..)) hb
      have hle : digitValue b ≤ digitsValue 0 (b :: rest) := by
        have : 10 * 0 + digitValue b ≤ digitsValue 0 (b :: rest) := le_digitsValue _ rest
        omega
      rw [if_neg (by omega), show n / 10 = digitsValue 0 (b :: rest) by omega]
      exact ih hread (by omega)

/-! ### Hexadecimal checks (R182) -/

theorem readHex_lt {b : Byte} {n : Nat} (h : readHex b = some n) : n < 16 ∧ 0x20#8 ≤ b ∧ b ≤ 0x7E#8 ∧ b ≠ starChar ∧
    b ≠ 0x0D#8 := by
  revert b n
  decide

theorem readHex4_eq_some {t : Text} {v : BitVec 16} (h : readHex4 t = some v) :
    ∃ a b c d w x y z, t = [a, b, c, d] ∧ readHex a = some w ∧ readHex b = some x ∧ readHex c = some y ∧
      readHex d = some z ∧ v.toNat = 4096 * w + 256 * x + 16 * y + z := by
  unfold readHex4 at h
  split at h
  · next a b c d =>
    split at h
    · next w x y z hw hx hy hz =>
      obtain rfl := Option.some.inj h
      have := (readHex_lt hw).1
      have := (readHex_lt hx).1
      have := (readHex_lt hy).1
      have := (readHex_lt hz).1
      exact ⟨a, b, c, d, w, x, y, z, rfl, hw, hx, hy, hz, by rw [BitVec.toNat_ofNat]; omega⟩
    · cases h
  · cases h

/-- The digits of a check are four, printable, and neither an asterisk nor 0Dh. -/
theorem readHex4_digits {t : Text} {v : BitVec 16} (h : readHex4 t = some v) :
    t.length = 4 ∧ ∀ b ∈ t, 0x20#8 ≤ b ∧ b ≤ 0x7E#8 ∧ b ≠ starChar ∧ b ≠ 0x0D#8 := by
  obtain ⟨a, b, c, d, w, x, y, z, rfl, hw, hx, hy, hz, -⟩ := readHex4_eq_some h
  refine ⟨rfl, ?_⟩
  simp only [List.forall_mem_cons, List.not_mem_nil, false_imp_iff, implies_true, and_true]
  exact ⟨(readHex_lt hw).2, (readHex_lt hx).2, (readHex_lt hy).2, (readHex_lt hz).2⟩

/-! ### The line without its check (R168, R182) -/

def printable (b : Byte) : Prop := 0x20#8 ≤ b ∧ b ≤ 0x7E#8

theorem all_printable_iff (t : Text) : t.all (fun b => 0x20#8 ≤ b && b ≤ 0x7E#8) = true ↔ ∀ b ∈ t, printable b := by
  simp [printable]

theorem checkedBody_eq_some_iff {line body : Text} :
    checkedBody line = some body ↔ ∃ digits, line = body ++ starChar :: digits ∧
      readHex4 digits = some (crc16 body) ∧ line.length ≤ 480 ∧ ∀ b ∈ body, printable b := by
  unfold checkedBody
  constructor
  · intro h
    dsimp only at h
    split at h
    · next hline =>
      obtain ⟨hlen, -, hall⟩ := hline
      split at h
      · next star digits hdrop =>
        split at h
        · next hcheck =>
          obtain ⟨rfl, hread⟩ := hcheck
          obtain rfl := Option.some.inj h
          refine ⟨digits, ?_, hread, hlen, fun b hb => (all_printable_iff line).mp hall b (List.mem_of_mem_take hb)⟩
          rw [← hdrop, List.take_append_drop]
        · cases h
      · cases h
    · cases h
  · rintro ⟨digits, rfl, hread, hlen, hbody⟩
    obtain ⟨hdigits, hprint⟩ := readHex4_digits hread
    have hfive : (body ++ starChar :: digits).length - 5 = body.length := by
      rw [List.length_append, List.length_cons, hdigits, Nat.add_sub_cancel]
    have hall : (body ++ starChar :: digits).all (fun b => 0x20#8 ≤ b && b ≤ 0x7E#8) = true := by
      rw [all_printable_iff]
      intro b hb
      rcases List.mem_append.mp hb with hb | hb
      · exact hbody b hb
      · rcases List.mem_cons.mp hb with rfl | hb
        · exact ⟨by decide, by decide⟩
        · obtain ⟨hlo, hhi, -⟩ := hprint b hb
          exact ⟨hlo, hhi⟩
    dsimp only
    rw [hfive, List.take_left, List.drop_left, if_pos ⟨hlen, by rw [List.length_append, List.length_cons]; omega, hall⟩]
    exact if_pos ⟨rfl, hread⟩

/-- A line whose last character is not 0Dh is taken as it stands, and with 0Dh behind it too. -/
theorem stripReturn_eq_iff {chars line : Text} (h : line.getLast? ≠ some 0x0D#8) :
    stripReturn chars = line ↔ chars = line ∨ chars = line ++ [0x0D#8] := by
  unfold stripReturn
  split
  · next hr =>
    obtain ⟨front, rfl⟩ := List.getLast?_eq_some_iff.mp hr
    rw [List.dropLast_concat]
    constructor
    · rintro rfl
      exact .inr rfl
    · rintro (rfl | hc)
      · exact absurd hr h
      · exact (List.append_inj' hc rfl).1
  · next hr =>
    constructor
    · exact .inl
    · rintro (rfl | rfl)
      · rfl
      · exact absurd (by simp) hr

theorem checkedBody_getLast {line body : Text} (h : checkedBody line = some body) : line.getLast? ≠ some 0x0D#8 := by
  obtain ⟨digits, rfl, hread, -⟩ := checkedBody_eq_some_iff.mp h
  obtain ⟨hlen, hdigits⟩ := readHex4_digits hread
  have hne : digits ≠ [] := by rintro rfl; cases hlen
  intro hlast
  rw [List.getLast?_append_of_ne_nil _ (List.cons_ne_nil _ _), List.getLast?_cons_of_ne_nil hne] at hlast
  obtain ⟨-, -, -, hno⟩ := hdigits _ (List.mem_of_getLast? hlast)
  exact hno rfl

/-! ### The tag (R168) -/

/-- What stands before the first space, where no space stands in `t`. -/
theorem takeWhile_space {t rest : Text} (ht : spaceChar ∉ t) (hr : rest = [] ∨ rest.head? = some spaceChar) :
    (t ++ rest).takeWhile (fun b => b != spaceChar) = t ∧ (t ++ rest).dropWhile (fun b => b != spaceChar) = rest := by
  have hall : ∀ b ∈ t, (b != spaceChar) = true := fun b hb => bne_iff_ne.mpr fun h => ht (h ▸ hb)
  rw [List.takeWhile_append_of_pos hall, List.dropWhile_append_of_pos hall]
  cases rest with
  | nil => exact ⟨List.append_nil t, rfl⟩
  | cons b rest =>
    obtain rfl := Option.some.inj (hr.resolve_left (List.cons_ne_nil _ _))
    exact ⟨List.append_nil t, rfl⟩

theorem not_mem_takeWhile_space (t : Text) : spaceChar ∉ t.takeWhile (fun b => b != spaceChar) := fun h => by
  simpa using List.mem_takeWhile_imp h

theorem dropWhile_space_head (t : Text) :
    t.dropWhile (fun b => b != spaceChar) = [] ∨ (t.dropWhile (fun b => b != spaceChar)).head? = some spaceChar := by
  cases h : t.dropWhile (fun b => b != spaceChar) with
  | nil => exact .inl rfl
  | cons b rest =>
    have hb := List.head?_dropWhile_not (fun b => b != spaceChar) t
    rw [h] at hb
    exact .inr (congrArg some (by simpa using hb))

theorem space_not_mem_showNat (n : Nat) : spaceChar ∉ showNat n := fun h => absurd (mem_showNat h) (by decide)

theorem printable_of_digit {b : Byte} (h : isDigit b = true) : printable b := by
  unfold printable
  revert b
  decide

/-- What stands behind "#" of a line that passes: a tag, and a space or nothing behind it. -/
def CmdLine.body (l : CmdLine) : Text := hashChar :: showNat l.tag ++ l.rest

def CmdLine.Tagged (l : CmdLine) : Prop :=
  1 ≤ l.tag ∧ l.tag ≤ 65535 ∧ (l.rest = [] ∨ l.rest.head? = some spaceChar)

theorem judgeLine_eq_some_iff {chars : Text} {l : CmdLine} :
    judgeLine chars = some l ↔ checkedBody (stripReturn chars) = some l.body ∧ l.Tagged := by
  unfold judgeLine
  constructor
  · intro h
    split at h
    · next x rest hbody =>
      split at h
      · next hx =>
        split at h
        · next tag htag =>
          split at h
          · next hrange =>
            obtain rfl := Option.some.inj h
            have hshow := eq_showNat_of_readNat htag (by omega)
            have hrest : x :: rest = hashChar :: showNat tag ++ rest.dropWhile (fun b => b != spaceChar) := by
              rw [hx, ← hshow, List.cons_append, List.takeWhile_append_dropWhile]
            exact ⟨hbody.trans (congrArg some hrest), hrange.1, hrange.2, dropWhile_space_head rest⟩
          · cases h
        · cases h
      · cases h
    · cases h
  · rintro ⟨hbody, hlo, hhi, hrest⟩
    obtain ⟨htake, hdrop⟩ := takeWhile_space (space_not_mem_showNat l.tag) hrest
    rw [hbody]
    dsimp only [CmdLine.body, List.cons_append]
    rw [if_pos rfl, htake, readNat_showNat (by omega), hdrop]
    exact if_pos ⟨hlo, hhi⟩

/-- The lines that pass, written out (R168, R182). -/
theorem judgeLine_iff {chars : Text} {l : CmdLine} :
    judgeLine chars = some l ↔
      ∃ digits, readHex4 digits = some (crc16 l.body) ∧
        (chars = l.body ++ starChar :: digits ∨ chars = l.body ++ starChar :: digits ++ [0x0D#8]) ∧
        (l.body ++ starChar :: digits).length ≤ 480 ∧ (∀ b ∈ l.rest, printable b) ∧ l.Tagged := by
  rw [judgeLine_eq_some_iff]
  constructor
  · rintro ⟨hbody, htag⟩
    have hlast := checkedBody_getLast hbody
    obtain ⟨digits, hline, hread, hlen, hprint⟩ := checkedBody_eq_some_iff.mp hbody
    rw [hline] at hlast hlen
    exact ⟨digits, hread, (stripReturn_eq_iff hlast).mp hline, hlen,
      fun b hb => hprint b (List.mem_cons_of_mem _ (List.mem_append_right _ hb)), htag⟩
  · rintro ⟨digits, hread, hchars, hlen, hprint, htag⟩
    have hbody : checkedBody (l.body ++ starChar :: digits) = some l.body := by
      refine checkedBody_eq_some_iff.mpr ⟨digits, rfl, hread, hlen, fun b hb => ?_⟩
      rcases List.mem_cons.mp hb with rfl | hb
      · exact ⟨by decide, by decide⟩
      · rcases List.mem_append.mp hb with hb | hb
        · exact printable_of_digit (mem_showNat hb)
        · exact hprint b hb
    exact ⟨by rw [(stripReturn_eq_iff (checkedBody_getLast hbody)).mpr hchars]; exact hbody, htag⟩

/-- A line that passes and does not end with 0Dh. -/
theorem judgeLine_of_plain {line : Text} (h : line.getLast? ≠ some 0x0D#8) {l : CmdLine} (hl : judgeLine line = some l) :
    ∃ digits, line = l.body ++ starChar :: digits ∧ readHex4 digits = some (crc16 l.body) ∧ line.length ≤ 480 ∧
      ∀ b ∈ line, printable b := by
  obtain ⟨digits, hread, hline, hlen, hprint, -⟩ := judgeLine_iff.mp hl
  obtain ⟨-, hdigits⟩ := readHex4_digits hread
  have hplain : line = l.body ++ starChar :: digits := hline.resolve_right fun hr => h (by rw [hr, List.getLast?_concat])
  refine ⟨digits, hplain, hread, by rw [hplain]; exact hlen, fun b hb => ?_⟩
  rw [hplain] at hb
  rcases List.mem_append.mp hb with hb | hb
  · rcases List.mem_cons.mp hb with rfl | hb
    · exact ⟨by decide, by decide⟩
    · rcases List.mem_append.mp hb with hb | hb
      · exact printable_of_digit (mem_showNat hb)
      · exact hprint b hb
  · rcases List.mem_cons.mp hb with rfl | hb
    · exact ⟨by decide, by decide⟩
    · obtain ⟨hlo, hhi, -⟩ := hdigits b hb
      exact ⟨hlo, hhi⟩

/-- Settles O5: the row, the lines that pass, and those that fail. -/
theorem commandLineJudged : Obligations.CommandLineJudged := by
  unfold Obligations.CommandLineJudged
  refine ⟨check16, fun s chars => ⟨fun l hl hb => ?joins, fun l hl hb => ?busy, fun hno => ?bad⟩, fun chars l => ?passes,
    fun line hlast => ?fails, fun tag rest digits hrest htag hno hd => ?badTag, fun a b c d v hv => ?value, by decide⟩
  case joins =>
    show execCommandLine chars s = _
    unfold execCommandLine Hlc.offer
    rw [hl]
    simp only
    rw [if_pos (show s.hlc.buffer.length < Config.bufferLines from hb)]
    rfl
  case busy =>
    show execCommandLine chars s = _
    unfold execCommandLine Hlc.offer
    rw [hl]
    simp only
    rw [if_neg (show ¬ s.hlc.buffer.length < Config.bufferLines from Nat.not_lt.mpr hb)]
    rfl
  case bad =>
    show execCommandLine chars s = _
    unfold execCommandLine
    rw [hno]
    rfl
  case passes =>
    rw [judgeLine_iff]
    unfold CmdLine.body CmdLine.Tagged printable
    exact Iff.rfl
  case fails =>
    have none_of : (∀ l, judgeLine line = some l → False) → judgeLine line = none := fun h =>
      Option.eq_none_iff_forall_ne_some.mpr fun l hl => h l hl
    refine ⟨fun hlen => none_of fun l hl => ?_, fun hlen => none_of fun l hl => ?_, fun b hb hout => none_of fun l hl => ?_,
      fun body digits hline hd hne => none_of fun l hl => ?_, fun body digits hline hd hne => none_of fun l hl => ?_,
      fun hne => none_of fun l hl => ?_⟩
    all_goals obtain ⟨found, hplain, hread, hle, hprint⟩ := judgeLine_of_plain hlast hl
    all_goals obtain ⟨hfound, -⟩ := readHex4_digits hread
    · omega
    · rw [hplain, List.length_append, List.length_cons, hfound] at hlen
      omega
    · obtain ⟨hlo, hhi⟩ := hprint b hb
      bv_omega
    · obtain ⟨hbody, htail⟩ := List.append_inj' (hline.symm.trans hplain) (by simp [hd, hfound])
      obtain ⟨-, rfl⟩ := List.cons.inj htail
      exact hne (hbody ▸ hread)
    · obtain ⟨-, rfl⟩ := List.append_inj' (hline.symm.trans hplain) (by simp [hd, hfound])
      exact hne rfl
    · exact hne (by rw [hplain]; rfl)
  case badTag =>
    refine Option.eq_none_iff_forall_ne_some.mpr fun l hl => ?_
    obtain ⟨found, hread, hchars, -, -, hlo, hhi, hspace⟩ := judgeLine_iff.mp hl
    obtain ⟨hfound, hclean⟩ := readHex4_digits hread
    rcases hchars with hchars | hchars
    · obtain ⟨hbody, -⟩ := List.append_inj' hchars (by simp [hd, hfound])
      have htail : tag ++ rest = showNat l.tag ++ l.rest := (List.cons.inj hbody).2
      have htake := (takeWhile_space htag hrest).1
      rw [htail, (takeWhile_space (space_not_mem_showNat l.tag) hspace).1] at htake
      exact hno l.tag hlo hhi htake.symm
    · rw [show l.body ++ starChar :: found ++ [0x0D#8] = (l.body ++ [starChar]) ++ (found ++ [0x0D#8]) by simp] at hchars
      obtain ⟨-, htail⟩ := List.append_inj' hchars (by simp [hd, hfound])
      cases found with
      | nil => cases hfound
      | cons b found =>
        obtain ⟨-, -, hstar, -⟩ := hclean b (List.mem_cons_self ..)
        exact hstar (List.cons.inj htail).1.symm
  case value =>
    obtain ⟨_, _, _, _, w, x, y, z, hlist, hw, hx, hy, hz, hval⟩ := readHex4_eq_some hv
    cases hlist
    exact ⟨w, x, y, z, hw, hx, hy, hz, hval⟩

end Sys2Proof.Machine
end

section
/-! How a command line is read behind its tag (R21, R168, R170): its words and its fields. -/

namespace Sys2Proof.Machine

/-- Characters of a word or a key: neither a space nor an equals sign. -/
def Clean (t : Text) : Prop := ∀ b ∈ t, b ≠ spaceChar ∧ b ≠ equalsChar

theorem Clean.tail {b : Byte} {t : Text} (h : Clean (b :: t)) : (b ≠ spaceChar ∧ b ≠ equalsChar) ∧ Clean t :=
  List.forall_mem_cons.mp h

/-! ### Words -/

theorem scanWords_clean {w : Text} (h : Clean w) (cur : Text) (words : List Text) (rest : Text) :
    scanWords cur words (w ++ rest) = scanWords (w.reverse ++ cur) words rest := by
  induction w generalizing cur with
  | nil => rfl
  | cons b w ih =>
    obtain ⟨⟨hs, he⟩, hw⟩ := h.tail
    rw [List.cons_append, scanWords, if_neg he, if_neg hs, ih hw, List.reverse_cons, List.append_assoc]
    rfl

theorem scanWords_space (cur : Text) (words : List Text) (rest : Text) :
    scanWords cur words (spaceChar :: rest) = scanWords [] (cur.reverse :: words) rest := by
  rw [scanWords, if_neg (by decide), if_pos rfl]

theorem scanWords_equals (cur : Text) (words : List Text) (rest : Text) :
    scanWords cur words (equalsChar :: rest) = (words, cur.reverse ++ equalsChar :: rest) := by
  rw [scanWords, if_pos rfl]

/-- Fields as they stand behind a command: nothing, or a space, a key and an equals sign first. -/
def FieldsTail (t : Text) : Prop := t = [] ∨ ∃ k rest, Clean k ∧ t = spaceChar :: (k ++ equalsChar :: rest)

/-- The words of a command are read up to the key of its first field. -/
theorem scanWords_words {ws : List Text} (hne : ws ≠ []) (hw : ∀ w ∈ ws, Clean w) {t : Text} (ht : FieldsTail t)
    (acc : List Text) : scanWords [] acc ([spaceChar].intercalate ws ++ t) = (ws.reverse ++ acc, t.drop 1) := by
  induction ws generalizing acc with
  | nil => exact absurd rfl hne
  | cons w ws ih =>
    obtain ⟨hfirst, hrest⟩ := List.forall_mem_cons.mp hw
    cases ws with
    | nil =>
      rw [List.intercalate_singleton, scanWords_clean hfirst, List.append_nil]
      rcases ht with rfl | ⟨k, rest, hk, rfl⟩
      · rw [scanWords, List.reverse_reverse]
        rfl
      · rw [scanWords_space, List.reverse_reverse, scanWords_clean hk, scanWords_equals, List.append_nil,
          List.reverse_reverse]
        rfl
    | cons w2 ws =>
      rw [List.intercalate_cons_cons, List.append_assoc, List.append_assoc, scanWords_clean hfirst, List.singleton_append,
        scanWords_space, List.append_nil, List.reverse_reverse, ih (List.cons_ne_nil _ _) hrest]
      simp

theorem dropSpaces_of_not_space {b : Byte} (h : b ≠ spaceChar) (t : Text) : dropSpaces (b :: t) = b :: t :=
  List.dropWhile_cons_of_neg (by simpa using h)

/-- The words and the characters of the fields of a line. -/
theorem lineParts_eq {ws : List Text} (hne : ws ≠ []) (hw : ∀ w ∈ ws, Clean w ∧ w ≠ []) {t : Text} (ht : FieldsTail t) :
    lineParts (spaceChar :: ([spaceChar].intercalate ws ++ t)) = (ws, t.drop 1) := by
  obtain ⟨w, more, rfl⟩ := List.exists_cons_of_ne_nil hne
  obtain ⟨b, w', rfl⟩ := List.exists_cons_of_ne_nil (hw w (List.mem_cons_self ..)).2
  have hb : b ≠ spaceChar := (hw _ (List.mem_cons_self ..)).1.tail.1.1
  have hstart : ∃ rest, [spaceChar].intercalate ((b :: w') :: more) ++ t = b :: rest := by
    cases more with
    | nil => exact ⟨_, by rw [List.intercalate_singleton]; rfl⟩
    | cons w2 ws => exact ⟨_, by rw [List.intercalate_cons_cons]; rfl⟩
  obtain ⟨rest, hrest⟩ := hstart
  have hdrop : dropSpaces (spaceChar :: ([spaceChar].intercalate ((b :: w') :: more) ++ t)) =
      [spaceChar].intercalate ((b :: w') :: more) ++ t := by
    rw [hrest]
    exact (List.dropWhile_cons_of_pos (by decide)).trans (dropSpaces_of_not_space hb rest)
  have hnonempty : ((b :: w') :: more).reverse.dropWhile List.isEmpty = ((b :: w') :: more).reverse := by
    obtain ⟨x, xs, hx⟩ := List.exists_cons_of_ne_nil (List.reverse_ne_nil_iff.mpr hne)
    have hmem : x ∈ (b :: w') :: more := List.mem_reverse.mp (hx ▸ List.mem_cons_self ..)
    rw [hx]
    exact List.dropWhile_cons_of_neg (by simpa using (hw x hmem).2)
  unfold lineParts
  rw [hdrop, scanWords_words hne (fun w hm => (hw w hm).1) ht []]
  simp only [List.append_nil]
  rw [hnonempty, List.reverse_reverse]

/-! ### Fields -/

theorem takeWhile_clean {k : Text} (h : Clean k) (rest : Text) :
    (k ++ equalsChar :: rest).takeWhile (fun c => c != spaceChar && c != equalsChar) = k ∧
      (k ++ equalsChar :: rest).dropWhile (fun c => c != spaceChar && c != equalsChar) = equalsChar :: rest := by
  have hall : ∀ b ∈ k, (b != spaceChar && b != equalsChar) = true := fun b hb => by simpa using h b hb
  rw [List.takeWhile_append_of_pos hall, List.dropWhile_append_of_pos hall]
  exact ⟨(congrArg (k ++ ·) (List.takeWhile_cons_of_neg (by decide))).trans (List.append_nil k),
    List.dropWhile_cons_of_neg (by decide)⟩

/-- A key and an equals sign stand first once the spaces are dropped. -/
theorem dropSpaces_key {k : Text} (h : Clean k) (rest : Text) :
    dropSpaces (k ++ equalsChar :: rest) = k ++ equalsChar :: rest := by
  cases k with
  | nil => exact dropSpaces_of_not_space (by decide) rest
  | cons b k => exact dropSpaces_of_not_space h.tail.1.1 _

/-- One turn of the reading of fields, at a key and an equals sign. -/
theorem scanFields_key (counted : Bool) (fuel : Nat) {t k rest : Text} (hk : Clean k)
    (ht : dropSpaces t = k ++ equalsChar :: rest) :
    scanFields counted (fuel + 1) t =
      if counted = true ∧ k = str "TEXT" then
        match takeCounted rest with
        | some (text, after) => { key := k, value := some text } :: scanFields counted fuel after
        | none => [{ key := k, value := none }]
      else
        { key := k, value := some (rest.takeWhile (fun d => d != spaceChar)) } ::
          scanFields counted fuel (rest.dropWhile (fun d => d != spaceChar)) := by
  obtain ⟨htake, hdrop⟩ := takeWhile_clean hk rest
  obtain ⟨b, more, hcons⟩ : ∃ b more, k ++ equalsChar :: rest = b :: more := by
    cases k with
    | nil => exact ⟨_, _, rfl⟩
    | cons b k => exact ⟨_, _, rfl⟩
  rw [scanFields, ht, hcons]
  dsimp only
  rw [← hcons, htake, hdrop]
  dsimp only
  rw [if_pos rfl] <;> split <;> rfl

/-- Nothing, or a space first. -/
def SpaceNext (t : Text) : Prop := t = [] ∨ t.head? = some spaceChar

theorem dropSpaces_field {k : Text} (hk : Clean k) (rest : Text) :
    dropSpaces (spaceChar :: (k ++ equalsChar :: rest)) = k ++ equalsChar :: rest :=
  (List.dropWhile_cons_of_pos (by decide)).trans (dropSpaces_key hk rest)

/-- A field with a plain value. -/
theorem scanFields_plain {counted : Bool} (fuel : Nat) {k v tail : Text} (hk : Clean k) (hv : spaceChar ∉ v)
    (hc : ¬ (counted = true ∧ k = str "TEXT")) (ht : SpaceNext tail) :
    scanFields counted (fuel + 1) (spaceChar :: (k ++ equalsChar :: (v ++ tail))) =
      { key := k, value := some v } :: scanFields counted fuel tail := by
  obtain ⟨htake, hdrop⟩ := takeWhile_space hv ht
  rw [scanFields_key counted fuel hk (dropSpaces_field hk _), if_neg hc, htake, hdrop]

theorem written_cons (k v : Text) (fs : List (Text × Text)) :
    written ((k, v) :: fs) = spaceChar :: (k ++ equalsChar :: (v ++ written fs)) := by
  unfold written
  rw [List.flatMap_cons, show str " " = [spaceChar] from rfl, show str "=" = [equalsChar] from rfl]
  simp

theorem Plain.tail {f : Text × Text} {fs : List (Text × Text)} (h : Plain (f :: fs)) :
    (Clean f.1 ∧ spaceChar ∉ f.2) ∧ Plain fs := by
  obtain ⟨⟨hk, hv⟩, hfs⟩ := List.forall_mem_cons.mp h
  exact ⟨⟨hk, fun hm => hv _ hm rfl⟩, hfs⟩

theorem spaceNext_written (fs : List (Text × Text)) {t : Text} (ht : SpaceNext t) : SpaceNext (written fs ++ t) := by
  cases fs with
  | nil => exact ht
  | cons f fs =>
    right
    rw [written_cons]
    rfl

theorem fieldsTail_written {fs : List (Text × Text)} (h : Plain fs) {t : Text} (ht : FieldsTail t) :
    FieldsTail (written fs ++ t) := by
  cases fs with
  | nil => exact ht
  | cons f fs =>
    obtain ⟨⟨hk, -⟩, -⟩ := h.tail
    refine .inr ⟨f.1, f.2 ++ written fs ++ t, hk, ?_⟩
    rw [written_cons]
    simp

theorem length_written (fs : List (Text × Text)) : fs.length ≤ (written fs).length := by
  induction fs with
  | nil => exact Nat.le_refl 0
  | cons f fs ih =>
    rw [written_cons]
    simp only [List.length_cons, List.length_append]
    omega

/-- Plain fields are read as they are written. -/
theorem scanFields_written {counted : Bool} {fs : List (Text × Text)} (h : Plain fs)
    (hc : counted = true → ∀ f ∈ fs, f.1 ≠ str "TEXT") (fuel : Nat) {t : Text} (ht : SpaceNext t) :
    scanFields counted (fs.length + fuel) (written fs ++ t) = asRead fs ++ scanFields counted fuel t := by
  induction fs with
  | nil => rw [List.length_nil, Nat.zero_add]; rfl
  | cons f fs ih =>
    obtain ⟨⟨hk, hv⟩, hfs⟩ := h.tail
    have hstep := ih hfs fun hcount f hf => hc hcount f (List.mem_cons_of_mem _ hf)
    rw [written_cons, List.length_cons, Nat.add_right_comm, List.cons_append, List.append_assoc, List.cons_append,
      List.append_assoc,
      scanFields_plain _ hk hv (fun ⟨hcount, htext⟩ => hc hcount f (List.mem_cons_self ..) htext)
        (spaceNext_written fs ht), hstep]
    rfl

theorem scanFields_nil (counted : Bool) (fuel : Nat) : scanFields counted fuel [] = [] := by
  cases fuel <;> rfl

/-- The first space of the fields counts for nothing. -/
theorem scanFields_drop (counted : Bool) (fuel : Nat) {t : Text} (ht : FieldsTail t) :
    scanFields counted (fuel + 1) (t.drop 1) = scanFields counted (fuel + 1) t := by
  rcases ht with rfl | ⟨k, rest, hk, rfl⟩
  · rfl
  · rw [List.drop_succ_cons, List.drop_zero, scanFields_key counted fuel hk (dropSpaces_key hk rest),
      scanFields_key counted fuel hk (dropSpaces_field hk rest)]

/-! ### The counted text (R21) -/

theorem takeCounted_eq {text after : Text} (hlen : text.length ≤ 200) (ha : SpaceNext after) :
    takeCounted (showNat text.length ++ colonChar :: (text ++ after)) = some (text, after) := by
  have hall : ∀ b ∈ showNat text.length, (b != colonChar) = true := fun b hb => by
    refine bne_iff_ne.mpr fun h => ?_
    have hdigit := mem_showNat hb
    rw [h] at hdigit
    exact absurd hdigit (by decide)
  have htake : (showNat text.length ++ colonChar :: (text ++ after)).takeWhile (fun b => b != colonChar) =
      showNat text.length := by
    rw [List.takeWhile_append_of_pos hall]
    exact List.append_nil _
  have hdrop : (showNat text.length ++ colonChar :: (text ++ after)).dropWhile (fun b => b != colonChar) =
      colonChar :: (text ++ after) := by
    rw [List.dropWhile_append_of_pos hall]
    rfl
  have hnext : after.head? = none ∨ after.head? = some spaceChar := by
    rcases ha with rfl | ha
    · exact .inl rfl
    · exact .inr ha
  unfold takeCounted
  rw [htake, hdrop, readNat_showNat (by omega)]
  dsimp only
  rw [List.drop_left, List.take_left]
  exact if_pos ⟨hlen, by rw [List.length_append]; omega, hnext⟩

/-! ### Commands -/

/-- The words of every command, and the command that its words name. -/
theorem commandNames_words : ∀ cn ∈ commandNames, str cn.2 = [spaceChar].intercalate cn.1.words ∧ cn.1.words ≠ [] ∧
    (∀ w ∈ cn.1.words, (∀ b ∈ w, b ≠ spaceChar ∧ b ≠ equalsChar) ∧ w ≠ []) ∧
    HostCommand.all.find? (fun c => c.words == cn.1.words) = some cn.1 := by
  decide

/-- A line made of a command's words and fields is read as both. -/
theorem line_read {cn : HostCommand × String} (hcn : cn ∈ commandNames) {t : Text} (ht : FieldsTail t) (tag : Nat) :
    let l : CmdLine := { tag := tag, rest := str " " ++ str cn.2 ++ t }
    l.command = some cn.1 ∧
      l.fields = scanFields (decide (cn.1 = .submit)) (l.rest.length + 1) t := by
  intro l
  obtain ⟨hname, hne, hwords, hfind⟩ := commandNames_words cn hcn
  have hparts : lineParts l.rest = (cn.1.words, t.drop 1) := by
    show lineParts (str " " ++ str cn.2 ++ t) = _
    rw [hname]
    exact lineParts_eq hne hwords ht
  have hcommand : l.command = some cn.1 := by
    unfold CmdLine.command
    rw [hparts]
    exact hfind
  refine ⟨hcommand, ?_⟩
  unfold CmdLine.fields
  rw [hcommand, hparts, scanFields_drop _ _ ht]
  simp only [Option.some.injEq]

theorem lineRead : LineRead := by
  refine ⟨fun cn hcn tag fs hfs htext => ?plain, fun tag before after text hb ha htext hlen => ?counted⟩
  case plain =>
    intro l
    have htail : FieldsTail (written fs) := by
      have := fieldsTail_written hfs (t := []) (.inl rfl)
      rwa [List.append_nil] at this
    obtain ⟨hcommand, hfields⟩ := line_read hcn htail tag
    refine ⟨hcommand, hfields.trans ?_⟩
    obtain ⟨fuel, hfuel⟩ : ∃ fuel, l.rest.length + 1 = fs.length + fuel := by
      refine Nat.exists_eq_add_of_le ?_
      have := length_written fs
      show fs.length ≤ (str " " ++ str cn.2 ++ written fs).length + 1
      rw [List.length_append]
      omega
    have hread := scanFields_written (counted := decide (cn.1 = .submit)) hfs (fun hc => htext (of_decide_eq_true hc)) fuel
      (t := []) (.inl rfl)
    rw [List.append_nil, scanFields_nil, List.append_nil] at hread
    exact (congrArg (fun n => scanFields (decide (cn.1 = .submit)) n (written fs)) hfuel).trans hread
  case counted =>
    intro l
    let field := spaceChar :: (str "TEXT" ++ equalsChar :: (showNat text.length ++ colonChar :: (text ++ written after)))
    have hclean : Clean (str "TEXT") := by unfold Clean; decide
    have htail : FieldsTail (written before ++ field) := fieldsTail_written hb (.inr ⟨str "TEXT", _, hclean, rfl⟩)
    have hrest : l.rest = str " " ++ str "SUBMIT" ++ (written before ++ field) := by
      show str " SUBMIT" ++ written before ++ str " TEXT=" ++ showNat text.length ++ str ":" ++ text ++ written after = _
      have h1 : str " SUBMIT" = str " " ++ str "SUBMIT" := by decide
      have h2 : str " TEXT=" = spaceChar :: (str "TEXT" ++ [equalsChar]) := by decide
      have h3 : str ":" = [colonChar] := by decide
      rw [h1, h2, h3]
      simp [field]
    have hl : l = { tag := tag, rest := str " " ++ str "SUBMIT" ++ (written before ++ field) } := by
      rw [← hrest]
    obtain ⟨hcommand, hfields⟩ := line_read (cn := (.submit, "SUBMIT")) (by decide) htail tag
    rw [← hl] at hcommand hfields
    refine ⟨hcommand, hfields.trans ?_⟩
    obtain ⟨fuel, hfuel⟩ : ∃ fuel, l.rest.length + 1 = before.length + (after.length + fuel + 1) := by
      have h1 := length_written before
      have h2 := length_written after
      have hle : before.length + (after.length + 1) ≤ l.rest.length + 1 := by
        rw [hrest]
        simp only [List.length_append, List.length_cons, field]
        omega
      obtain ⟨fuel, hfuel⟩ := Nat.exists_eq_add_of_le hle
      exact ⟨fuel, by omega⟩
    have hbefore := scanFields_written (counted := true) hb (fun _ f hf => htext f (List.mem_append_left _ hf))
      (after.length + fuel + 1) (t := field) (.inr rfl)
    have hafter := scanFields_written (counted := true) ha (fun _ f hf => htext f (List.mem_append_right _ hf)) fuel
      (t := []) (.inl rfl)
    rw [List.append_nil, scanFields_nil, List.append_nil] at hafter
    have hspace : SpaceNext (written after) := by
      have := spaceNext_written after (t := []) (.inl rfl)
      rwa [List.append_nil] at this
    have hfield : scanFields true (after.length + fuel + 1) field =
        { key := str "TEXT", value := some text } :: asRead after := by
      rw [scanFields_key true _ hclean (dropSpaces_field hclean _), if_pos ⟨rfl, rfl⟩, takeCounted_eq hlen hspace]
      exact congrArg _ hafter
    rw [hfuel]
    exact hbefore.trans (congrArg _ hfield)

end Sys2Proof.Machine
end

section
/-! Lines read back (O4): values, answers and checks as they are sent. -/

namespace Sys2Proof.Machine

/-! ### Values (11.1) -/

theorem showNat_formula {n : Nat} (h : n < 100000000000000000000) :
    showNat n = (if n < 10 then [] else showNat (n / 10)) ++ [(str "0123456789").getD (n % 10) 0] := by
  rw [showNat_eq h, digitChar_eq _ (Nat.mod_lt _ (by decide))]

theorem show_int_natCast (n : Nat) : (Value.int n).show = showNat n := by
  show showInt n = _
  unfold showInt
  rw [if_neg (by omega), Int.natAbs_natCast]

theorem show_int_neg {n : Nat} (h : 0 < n) : (Value.int (-(n : Int))).show = str "-" ++ showNat n := by
  show showInt _ = _
  unfold showInt
  rw [if_pos (by omega), Int.natAbs_neg, Int.natAbs_natCast]
  rfl

theorem show_nums (l : List Nat) :
    (Value.nums l).show = if l = [] then str "NONE" else (str ",").intercalate (l.map showNat) := by
  cases l <;> rfl

theorem show_words (l : List Text) :
    (Value.words l).show = if l = [] then str "NONE" else (str ",").intercalate l := by
  cases l <;> rfl

theorem minus_not_mem_showNat (n : Nat) : minusChar ∉ showNat n := fun h => absurd (mem_showNat h) (by decide)

/-- A signed amount is read as it is sent. -/
theorem readInt_show {i : Int} (h : i.natAbs < 100000000000000000000) : readInt (Value.int i).show = some i := by
  rcases lt_or_ge i 0 with hneg | hpos
  · obtain ⟨n, rfl⟩ : ∃ n : Nat, i = -((n + 1 : Nat) : Int) := ⟨i.natAbs - 1, by omega⟩
    have hread : readNat (showNat (n + 1)) = some (n + 1) := readNat_showNat (by omega)
    rw [show_int_neg (Nat.succ_pos n)]
    show readInt (minusChar :: showNat (n + 1)) = _
    rw [readInt, if_pos rfl, hread]
    rfl
  · obtain ⟨n, rfl⟩ := Int.eq_ofNat_of_zero_le hpos
    rw [show_int_natCast]
    have hread : readNat (showNat n) = some n := readNat_showNat (by omega)
    cases ht : showNat n with
    | nil =>
      rw [ht] at hread
      cases hread
    | cons b rest =>
      have hb : b ≠ minusChar := fun hb => minus_not_mem_showNat n (by rw [ht, hb]; exact List.mem_cons_self ..)
      rw [ht] at hread
      rw [readInt, if_neg hb, hread]
      rfl

/-- A message id is read as it is sent. -/
theorem readMsg_show {m : MsgId} (h : m.slot < 2048) : readMsg (Value.msg m).show = some m := by
  have hgen := m.gen.isLt
  have hread := readMsg_shown (slot := m.slot) (gen := m.gen.toNat) (by omega) (by omega)
  rw [if_pos ⟨h, hgen⟩, BitVec.ofNat_toNat, BitVec.setWidth_eq] at hread
  rw [← hread]
  exact congrArg readMsg (by simp [Value.show, show str "." = [periodChar] from rfl])

/-- Numbers joined by commas are read one by one. -/
theorem mapM_readNat_showNat {l : List Nat} (h : ∀ n ∈ l, n < 100000000000000000000) :
    (l.map showNat).mapM readNat = some l := by
  induction l with
  | nil => rfl
  | cons n l ih =>
    obtain ⟨hn, hl⟩ := List.forall_mem_cons.mp h
    rw [List.map_cons, List.mapM_cons, readNat_showNat hn, ih hl]
    rfl

theorem splitOn_joined {l : List Nat} (h : l ≠ []) : splitOn commaChar ((str ",").intercalate (l.map showNat)) = l.map showNat := by
  have hno : ∀ t ∈ l.map showNat, commaChar ∉ t := fun t ht hc => by
    obtain ⟨n, -, rfl⟩ := List.mem_map.mp ht
    exact absurd (mem_showNat hc) (by decide)
  exact List.splitOn_intercalate commaChar hno (by simpa using h)

/-- A zone set in ascending order is read as it is sent. -/
theorem readZones_show {zones : ZoneSet} (hne : zones ≠ []) (hs : zones.Pairwise (· < ·)) :
    readZones (Value.nums (zones.map Fin.val)).show = some zones := by
  have hvals : zones.map Fin.val ≠ [] := by simpa using hne
  have hnodup : zones.Nodup := hs.imp Fin.ne_of_lt
  have hread : (splitOn commaChar (Value.nums (zones.map Fin.val)).show).mapM readNat = some (zones.map Fin.val) := by
    rw [show_nums, if_neg hvals, splitOn_joined hvals, mapM_readNat_showNat]
    intro n hn
    obtain ⟨z, -, rfl⟩ := List.mem_map.mp hn
    omega
  have hsame : allZones.filter (fun z => (zones.map Fin.val).contains z.val) = zones := by
    have hall : allZones.Pairwise (· < ·) := List.pairwise_lt_finRange 8
    have hfilter := hall.filter (fun z => (zones.map Fin.val).contains z.val)
    refine List.Perm.eq_of_pairwise (fun a b _ _ hab hba => absurd hba (lt_asymm hab)) hfilter hs ?_
    refine (List.perm_ext_iff_of_nodup (hfilter.imp Fin.ne_of_lt) hnodup).mpr fun z => ?_
    rw [List.mem_filter, List.contains_iff_mem, List.mem_map_of_injective Fin.val_injective]
    exact and_iff_right (List.mem_finRange z)
  unfold readZones
  rw [hread]
  dsimp only
  rw [hsame]
  refine if_pos ⟨?_, hnodup.map Fin.val_injective, hvals⟩
  simp

/-! ### Checks (R182) -/

theorem hexDigit_eq : ∀ d : Fin 16, hexDigit d.val = (str "0123456789ABCDEF").getD d.val 0 := by decide

theorem readHex_hexDigit : ∀ d : Fin 16, readHex (hexDigit d.val) = some d.val := by decide

/-- A check is sent as its four digits. -/
theorem showHex4_digits (v : BitVec 16) : ∃ a b c d : Fin 16,
    v.toNat = 4096 * a.val + 256 * b.val + 16 * c.val + d.val ∧
      showHex4 v = [hexDigit a.val, hexDigit b.val, hexDigit c.val, hexDigit d.val] := by
  have hv := v.isLt
  exact ⟨⟨v.toNat / 4096 % 16, by omega⟩, ⟨v.toNat / 256 % 16, by omega⟩, ⟨v.toNat / 16 % 16, by omega⟩,
    ⟨v.toNat % 16, by omega⟩, by simp only; omega, rfl⟩

/-- A check is read as it is sent. -/
theorem readHex4_showHex4 (v : BitVec 16) : readHex4 (showHex4 v) = some v := by
  obtain ⟨a, b, c, d, hv, hs⟩ := showHex4_digits v
  rw [hs]
  unfold readHex4
  simp only [readHex_hexDigit]
  rw [← hv, BitVec.ofNat_toNat, BitVec.setWidth_eq]

/-! ### Lines -/

theorem judgeLine_sent {l : CmdLine} (ht : l.Tagged) (hp : ∀ b ∈ l.rest, printable b) (hlen : l.body.length + 5 ≤ 480) :
    judgeLine (l.body ++ starChar :: showHex4 (crc16 l.body)) = some l ∧
      judgeLine (l.body ++ starChar :: showHex4 (crc16 l.body) ++ [0x0D#8]) = some l := by
  have hle : (l.body ++ starChar :: showHex4 (crc16 l.body)).length ≤ 480 := by
    rw [List.length_append]
    exact hlen
  exact ⟨judgeLine_iff.mpr ⟨_, readHex4_showHex4 _, .inl rfl, hle, hp, ht⟩,
    judgeLine_iff.mpr ⟨_, readHex4_showHex4 _, .inr rfl, hle, hp, ht⟩⟩

/-- A sent line of printable characters passes the check of a received one. -/
theorem checkedBody_sent {l : OutLine} (hlen : l.body.length + 5 ≤ 480) (hp : ∀ b ∈ l.body, printable b) :
    l.chars.getLast? = some 0x0A#8 ∧ checkedBody (stripReturn l.chars.dropLast) = some l.body := by
  have hbody : checkedBody (l.body ++ starChar :: showHex4 (crc16 l.body)) = some l.body := by
    refine checkedBody_eq_some_iff.mpr ⟨_, rfl, readHex4_showHex4 _, ?_, hp⟩
    rw [List.length_append]
    exact hlen
  have hchars : l.chars = (l.body ++ starChar :: showHex4 (crc16 l.body) ++ [0x0D#8]) ++ [0x0A#8] := by
    unfold OutLine.chars
    simp
  rw [hchars, List.getLast?_concat, List.dropLast_concat, (stripReturn_eq_iff (checkedBody_getLast hbody)).mpr (.inr rfl)]
  exact ⟨rfl, hbody⟩

theorem showFields_cons (key : Text) (v : Value) (fs : List Field) :
    showFields ((key, v) :: fs) = str " " ++ key ++ str "=" ++ v.show ++ showFields fs := by
  unfold showFields
  rw [List.flatMap_cons, show str " " = [spaceChar] from rfl, show str "=" = [equalsChar] from rfl]
  simp

/-- Settles O4: the forms in which values, lines and checks travel, and the reading of each. -/
theorem linesReadBack : Obligations.LinesReadBack := by
  unfold Obligations.LinesReadBack
  refine ⟨check16, lineRead, fun n h => ⟨readNat_showNat h, showNat_formula h⟩,
    ⟨fun _ => rfl, show_int_natCast, fun n h => show_int_neg h, fun _ => rfl, rfl, rfl, rfl, show_nums, show_words,
      fun m => ?msg, fun k => ?acquiring, fun round window firsts => ?place, fun o => ?order⟩,
    ⟨fun i h => readInt_show h, fun m h => readMsg_show h, fun zones hne hs => readZones_show hne hs⟩, rfl, rfl,
    fun tag rest hlo hhi hr hp hlen => judgeLine_sent (l := { tag := tag, rest := rest }) ⟨hlo, hhi, hr⟩ hp hlen,
    fun tag result k fs => ⟨?final, ?data, rfl⟩, rfl, showFields_cons, fun l => ?chars, fun v => ?hex,
    fun l hlen hp => checkedBody_sent hlen hp⟩
  case msg => exact List.append_cons _ _ _
  case acquiring => exact List.append_cons _ _ _
  case place =>
    have hslash : (fun zf : Zone × Nat => showNat zf.1 ++ slashChar :: showNat zf.2) =
        fun zf => showNat zf.1 ++ str "/" ++ showNat zf.2 := funext fun zf => List.append_cons _ _ _
    show showPlace round window firsts = _
    unfold showPlace joinCommas
    rw [hslash, List.append_cons _ periodChar, List.append_cons _ colonChar]
    rfl
  case order =>
    show showOrder o = _
    unfold showOrder
    rw [List.append_cons _ periodChar, List.append_cons _ colonChar o.kind.name,
      List.append_cons _ colonChar (showInt o.keyOn), List.append_cons _ colonChar (showNat o.keyOff)]
    rfl
  case final =>
    show hashChar :: showNat tag ++ spaceChar :: result.name ++ showFields fs = _
    rw [List.append_cons _ spaceChar]
    rfl
  case data => rfl
  case chars =>
    unfold OutLine.chars
    rw [List.append_cons _ starChar]
    rfl
  case hex =>
    obtain ⟨a, b, c, d, hv, hs⟩ := showHex4_digits v
    exact ⟨a, b, c, d, hv, by rw [hs, hexDigit_eq, hexDigit_eq, hexDigit_eq, hexDigit_eq]; rfl⟩

end Sys2Proof.Machine
end
